-- ==== Sys2Proof/Word.lean ====
section
/-! DEFINITION. The word types of JXA 1 (R4, R22, R156) and the reading of a register's bits as signed and unsigned numbers. -/

namespace Sys2Proof

/-- One byte of memory: the smallest addressable unit (R4). -/
abbrev Byte := BitVec 8

/-- A 32-bit register, parcel or immediate (R22, R34). -/
abbrev Word := BitVec 32

/-- A 64-bit operand: a register pair (R26). -/
abbrev DWord := BitVec 64

/-- A generic address or a program counter, 56 bits (R156, R131). -/
abbrev Addr := BitVec 56

/-- A mask with one bit for each lane of a ply, lane 0 in bit 0. -/
abbrev Mask := BitVec 64

/-- A memory line of 64 bytes, byte 0 in bits [7:0]. -/
abbrev Line := BitVec 512

end Sys2Proof
end

