-- ==== Sys2Proof/Machine/Bits.lean ====
section
/-! DEFINITION. Bit-field, sign-extension, byte-order and lane-mask helpers. -/

namespace Sys2Proof.Machine

/-- Bits [hi:lo] of a number, as a number (R4). -/
def fld (x hi lo : Nat) : Nat := (x >>> lo) % 2 ^ (hi + 1 - lo)

/-- Bit i of a number. -/
def bit (x i : Nat) : Bool := x.testBit i

/-- A field value placed at bit lo. -/
def at' (v lo : Nat) : Nat := v <<< lo

/-- 1 for true, 0 for false. -/
def b2n (b : Bool) : Nat := if b then 1 else 0

/-- The low w bits of x read as a two's-complement number. -/
def sextInt (w x : Nat) : Int :=
  if (x % 2 ^ w) ≥ 2 ^ (w - 1) then ((x % 2 ^ w : Nat) : Int) - ((2 ^ w : Nat) : Int) else ((x % 2 ^ w : Nat) : Int)

/-- An integer reduced modulo 2^w. -/
def wrapNat (w : Nat) (x : Int) : Nat := (x % ((2 ^ w : Nat) : Int)).toNat

/-- The number a little-endian byte string stands for (R4). -/
def leNat : List Byte → Nat
  | [] => 0
  | b :: bs => b.toNat + 256 * leNat bs

/-- The n low bytes of a number, little-endian (R4). -/
def leBytes : Nat → Nat → List Byte
  | 0, _ => []
  | n + 1, x => BitVec.ofNat 8 x :: leBytes n (x / 256)

/-- Bytes of a word, least significant first. -/
def wordBytes (w : Word) : List Byte := leBytes 4 w.toNat

/-- The words of a byte string, four bytes each. -/
def bytesWords : Nat → List Byte → List Word
  | 0, _ => []
  | n + 1, bs => BitVec.ofNat 32 (leNat (bs.take 4)) :: bytesWords n (bs.drop 4)

/-- The lanes of a mask, ascending. -/
def lanesOf (m : Mask) : List Nat := (List.range 64).filter fun l => m.getLsbD l

/-- The mask of a list of lanes. -/
def maskOf (ls : List Nat) : Mask := ls.foldl (fun m l => m ||| (1#64 <<< l)) 0

/-- The number of 1 bits below bit n. -/
def popN (n x : Nat) : Nat := (List.range n).foldl (fun c i => c + b2n (x.testBit i)) 0

/-- Leading zero bits of a w-bit value (R138). -/
def clzN (w x : Nat) : Nat := if x = 0 then w else w - 1 - Nat.log2 x

/-- Bit i moves to bit w - 1 - i (R138). -/
def brevN (w x : Nat) : Nat := (List.range w).foldl (fun r i => r + b2n (x.testBit i) <<< (w - 1 - i)) 0

/-- Byte i of a line. -/
def lineByte (x : Line) (i : Nat) : Byte := BitVec.ofNat 8 (x.toNat >>> (8 * i))

/-- A line with byte i replaced. -/
def lineSet (x : Line) (i : Nat) (b : Byte) : Line :=
  (x &&& ~~~(0xFF#512 <<< (8 * i))) ||| (b.zeroExtend 512 <<< (8 * i))

/-- The bit mask of the bytes that a byte mask names. -/
def byteBits (m : Mask) : Line :=
  (lanesOf m).foldl (fun r i => r ||| (0xFF#512 <<< (8 * i))) 0

/-- The bytes of `new` that the byte mask names, laid over `old`. -/
def lineMerge (old new : Line) (m : Mask) : Line := (old &&& ~~~(byteBits m)) ||| (new &&& byteBits m)

/-- The 64 bytes of a line, lowest address first. -/
def lineBytes (x : Line) : List Byte := leBytes 64 x.toNat

/-- A line from up to 64 bytes. -/
def lineOf (bs : List Byte) : Line := BitVec.ofNat 512 (leNat (bs.take 64))

/-- The byte mask of n bytes from byte i of a line. -/
def byteSpan (i n : Nat) : Mask := BitVec.ofNat 64 ((2 ^ n - 1) <<< i)

/-- The pieces (line number, first byte in it, count) into which the line boundaries split n bytes from address a (R180). -/
def splitLines : Nat → Nat → Nat → List (Nat × Nat × Nat)
  | 0, _, _ => []
  | fuel + 1, a, n =>
    if n = 0 then [] else
    if n ≤ 64 - a % 64 then [(a / 64, a % 64, n)]
    else (a / 64, a % 64, 64 - a % 64) :: splitLines fuel (a + (64 - a % 64)) (n - (64 - a % 64))

/-- The pieces of an access of n bytes at a. -/
def pieces (a n : Nat) : List (Nat × Nat × Nat) := splitLines (n / 64 + 2) a n

/-- The least element of a list of causes (R62). -/
def minCause : List Nat → Option Nat
  | [] => none
  | c :: cs => match minCause cs with
    | none => some c
    | some k => some (min c k)

/-- Insert into a list ordered by a key, after the entries of an equal key. -/
def insertBy {α : Type} (key : α → Nat) (x : α) : List α → List α
  | [] => [x]
  | y :: ys => if key x < key y then x :: y :: ys else y :: insertBy key x ys

/-- Sort by a key; entries of equal keys keep their order. -/
def sortBy {α : Type} (key : α → Nat) : List α → List α
  | [] => []
  | x :: xs => insertBack key x (sortBy key xs)
where
  /-- Insert before the entries of an equal key. -/
  insertBack {α : Type} (key : α → Nat) (x : α) : List α → List α
    | [] => [x]
    | y :: ys => if key x ≤ key y then x :: y :: ys else y :: insertBack key x ys

/-- CRC-32C: Castagnoli polynomial, initial value 0xFFFF_FFFF, final complement (R367). -/
def crc32cByte (c : Nat) (b : Byte) : Nat :=
  (List.range 8).foldl (fun c _ => if c % 2 = 1 then (c >>> 1) ^^^ 0x82F63B78 else c >>> 1) (c ^^^ b.toNat)

/-- CRC-32C of a byte string (R367, R428). -/
def crc32c (bs : List Byte) : Word := BitVec.ofNat 32 ((bs.foldl crc32cByte 0xFFFFFFFF) ^^^ 0xFFFFFFFF)

end Sys2Proof.Machine
end

