-- ==== Sys2Proof/Syntax.lean ====
section
/-! DEFINITION. The abstract syntax of JXA 1: operands, modifiers, the full and the pair form, and the ONE inductive
`Instr` with one constructor for each row of spec/opcode_table.json. Rows that are steps of an engine, the host, the fabric
or the die link ("What each step holds") are constructors whose arguments name the operation they act on or carry what
arrives from outside the package. -/

namespace Sys2Proof

/-! ## Operands (R22 to R24) -/

/-- The read-only specials of R24, in code order from 976. -/
inductive Special where
  | zero | lane | tid | ply | plyw | skein | core | quad | die | dev | part | clklo | clkhi | ctxid | nplies | nskein | slot
  deriving DecidableEq, Repr

/-- A 10-bit operand code (R22). `fp i` is the inline constant of code 960 + i (R23); `reserved` keeps the code. -/
inductive Operand where
  | v (n : Nat)
  | s (n : Nat)
  | int (n : Nat)
  | fp (i : Nat)
  | special (x : Special)
  | imm
  | reserved (code : Nat)
  deriving DecidableEq, Repr

/-! ## Modifiers (R40) -/

/-- Type codes TY of R40. -/
inductive Ty where
  | f32 | bf16 | f16 | e4m3 | e5m2 | e2m1 | slub4 | e8m0 | s32 | n32 | s16 | n16 | s8 | n8 | s64 | n64
  deriving DecidableEq, Repr

/-- Rounding modes RM of R40 (R71). -/
inductive Rm where
  | rne | rz | ru | rd | rna | sr
  deriving DecidableEq, Repr

/-- Compare codes CMP of R40. -/
inductive Cmp where
  | eq | ne | lt | le | gt | ge | un | or
  deriving DecidableEq, Repr

/-- Order codes ORD of R40. -/
inductive Ord where
  | weak | strong | acq | rel | ar
  deriving DecidableEq, Repr

/-- Scope codes of R40, which are also the barrier levels of R21. -/
inductive Scope where
  | core | quad | die | pkg | pod
  deriving DecidableEq, Repr

/-- The six counter classes of R18, in the code order of WAITC (R41). -/
inductive Cls where
  | ld | st | cpy | mma | gth | net
  deriving DecidableEq, Repr

/-! ## The two forms -/

/-- The guard fields GE, GI and GV (R35, R36). -/
structure Guard where
  en  : Bool
  inv : Bool
  reg : Nat
  deriving DecidableEq, Repr

/-- The fields of a full form after MAJ and FN (R35). M keeps its bits: its layout is the class's (R41). -/
structure Full where
  g  : Guard
  d  : Operand
  a  : Operand
  b  : Operand
  wd : Bool
  wa : Bool
  wb : Bool
  h  : BitVec 8
  m  : Word
  deriving DecidableEq, Repr

/-- Scalar pair opcodes SOP, in code order (R57). -/
inductive SOp where
  | nop | iadd | iaddI | isub | isubI | imul | imin | imax | and | or | xor | andn | shlI | shrI | sarI | shl | shr | mov
  | moviI | icmpEq | icmpNe | icmpLt | icmpLe | popc | clz | iaddw | iaddwI | shlwI | fadd | fmul | fmin | fmax
  deriving DecidableEq, Repr

/-- Vector pair opcodes VOP, in code order (R58). -/
inductive VOp where
  | nop | fadd | fmul | ffma | fmin | fmax | iadd | isub | imul | imad | imin | imax | and | or | xor | andn | shl | shr | sar
  | mov | fcmpLt | fcmpLe | fcmpEq | icmpLt | icmpEq | cvtF32S32 | cvtS32F32 | frcp | frsq | fex2 | popc | iabs
  deriving DecidableEq, Repr

/-- The fields of a pair form (R37). The G field and the register fields keep their codes. -/
structure Pair where
  g     : BitVec 5
  sop   : SOp
  sd    : BitVec 6
  sa    : BitVec 6
  sb    : BitVec 6
  vop   : VOp
  vd    : BitVec 9
  va    : BitVec 9
  vb    : BitVec 9
  reuse : Bool
  yld   : Bool
  deriving DecidableEq, Repr

/-! ## What reaches the package from outside -/

/-- What a memory-side access asks of the translation (R326, R331). -/
inductive AccKind where
  | read | write | fetch
  deriving DecidableEq, Repr

/-- A reply to a request sent to another package (R338, R359), or port 23's refusal (R344). -/
inductive RemoteReply where
  | data (bytes : List Byte)
  | poisoned
  | ack
  | nack (cause : Nat)
  | aunsup
  deriving DecidableEq, Repr

/-- A PCIe completion for a device access to host memory (R441). -/
inductive HostReply where
  | data (bytes : List Byte)
  | error
  | poisoned
  deriving DecidableEq, Repr

/-- A host AtomicOp to BAR4 (R440): width in bytes and operands. -/
inductive HostAtomic where
  | fetchAdd (z v : Nat)
  | swap (z v : Nat)
  | cas (z cmp v : Nat)
  deriving DecidableEq, Repr

/-- The operation of an inbound pod access (R337, R358). -/
inductive PodOp where
  | read (n : Nat)
  | write (bytes : List (Option Byte))
  | strongWrite (bytes : List Byte)
  | atomic (red : Bool) (op : Nat) (ty : Ty) (operands : List DWord)
  | cas (ty : Ty) (pairs : List (DWord × DWord))
  deriving DecidableEq, Repr

/-- An access arriving through the pod window (R337): initiator, its request number, pod context identifier and offset. -/
structure PodAccess where
  dev   : Nat
  req   : Nat
  ctxid : Nat
  off   : Nat
  op    : PodOp
  deriving DecidableEq, Repr

/-- A collective start packet from the member of rank `src`, package `dev`, which awaits its acknowledgement by number (R377). -/
structure StartPkt where
  ctxid : Nat
  group : Nat
  trick : Nat
  src   : Nat
  dev   : Nat
  req   : Nat
  sig   : Word
  deriving DecidableEq, Repr

/-- The data one collective packet carries (R369, R379, R381). `nth` counts a SEND among those of its sender with one peer and TAG, in
operation order. `exps` gives a member's exponent of each block of 64 elements
(none where the block has no finite nonzero element), `owner` says that its sender owns a reduction, and `spec` its special elements (0 none, 1 NaN,
2 +inf, 3 -inf, 4 -0). -/
inductive EngData where
  | send (tag nth : Nat) (bytes : List Byte)
  | mcast (tag nth : Nat) (bytes : List Byte)
  | exps (tag len owner : Nat) (exps : List (Option Int)) (spec : List Nat)
  | emax (tag : Nat) (exps : List (Option Int))
  | quanta (tag : Nat) (q : List Int)
  | vals (tag len owner : Nat) (bytes : List Byte)
  | owner (tag len owner : Nat)
  deriving DecidableEq, Repr

/-- A collective data packet from the member of rank `src`, package `dev`, which awaits its acknowledgement by number (R377). -/
structure EngPkt where
  ctxid : Nat
  group : Nat
  trick : Nat
  src   : Nat
  dev   : Nat
  req   : Nat
  data  : EngData
  deriving DecidableEq, Repr

/-- What a multicast packet brings to each member: the words of MCST and their offset (R362), or a start packet or data of a collective
call (R371, R377). -/
inductive McLoad where
  | store (off : Nat) (words : List Word)
  | start (p : StartPkt)
  | eng (p : EngPkt)
  deriving DecidableEq, Repr

/-- A multicast packet (R361, R362): the device that issued it, the switch that awaits its acknowledgement and the number it awaits it
by, the group, the context, and what it brings. -/
structure McstPkt where
  dev   : Nat
  up    : Nat
  req   : Nat
  group : Nat
  ctxid : Nat
  load  : McLoad
  deriving DecidableEq, Repr

/-- An abort of a trick (R384); `late` marks the answer of R377. -/
structure AbortPkt where
  ctxid : Nat
  group : Nat
  trick : Nat
  src   : Nat
  late  : Bool
  deriving DecidableEq, Repr

/-- Where a two-sided message comes from: a rank of the pod and its package, or a scale-out address and job identifier (R391,
R406). -/
inductive MsgFrom where
  | rank (r dev : Nat)
  | peer (ip : Nat) (job : Nat)
  deriving DecidableEq, Repr

/-- What a two-sided message brings besides its header: an eager payload; nothing, its payload staying with the sender (R398); the
loss of its source (R404); the notice that its SEND failed on the way, so that no later message waits behind it (R404); or a scale-out peer's RMA read of
a payload that stays here, for its receive (R398, R406). -/
inductive MsgBody where
  | eager (bytes : List Byte)
  | header
  | lost
  | void
  | pull (recv : Nat)
  deriving DecidableEq, Repr

/-- A two-sided message (R395). `send` is the sender's number for it. -/
structure MsgIn where
  ctxid   : Nat
  ep      : Nat
  src     : MsgFrom
  tag     : DWord
  len     : Nat
  msn     : Nat
  send    : Nat
  body    : MsgBody
  deriving DecidableEq, Repr

/-- The answer to a pull (R398): the payload, the sender's fault (R404), or no answer in time (R406). -/
inductive PullReply where
  | payload (bytes : List Byte)
  | failed
  deriving DecidableEq, Repr

/-- The destination's answer to a SEND (R395, R398, R404): landed; queued with its payload; pulled to the end; kept without its payload,
which it will pull; refused; or that a pull by the scale-out network met a fault of the source. -/
inductive SendReply where
  | landed
  | queued
  | pulled
  | kept
  | refused
  | fault
  deriving DecidableEq, Repr

/-- Traffic classes of the fabric (R354). -/
inductive FabCls where
  | mem | rsp | eng | ctl
  deriving DecidableEq, Repr

/-- What a fabric packet carries (R354). -/
inductive FabBody where
  | access (a : PodAccess)
  | reply (req : Nat) (r : RemoteReply)
  | mcst (p : McstPkt)
  | start (p : StartPkt)
  | eng (p : EngPkt)
  | abort (p : AbortPkt)
  | msg (m : MsgIn)
  | hold (send : Nat)
  | sendDone (send : Nat) (r : SendReply)
  | pull (send recv len : Nat)
  | pulled (recv : Nat) (r : PullReply)
  | podBar (ctxid phase : Nat)
  deriving DecidableEq, Repr

/-- A fabric packet: class, source device and agent, destination device, hop and flow sequence number (R354, R356). -/
structure FabPkt where
  cls   : FabCls
  src   : Nat
  agent : Nat
  dst   : Nat
  hop   : Nat
  seq   : Nat
  body  : FabBody
  deriving DecidableEq, Repr

/-- The three die-link ports of each Reust die (R426), with the die they belong to. -/
inductive DiePort where
  | a (die : Nat)
  | b0 (die : Nat)
  | b1 (die : Nat)
  deriving DecidableEq, Repr

/-- A die-link message: its header slot and its further slots (R429). -/
structure DlMsg where
  hdr   : BitVec 128
  slots : List (BitVec 128)
  deriving DecidableEq, Repr

/-- A firmware image as the boot ROM reads it, with the body length that its header names (R447). -/
structure FwImage where
  version : Nat
  body    : List Byte
  key     : List Byte
  sig     : List Byte
  len     : Nat := body.length
  deriving DecidableEq, Repr

/-- The registers that REGISTER_WRITE reaches: those a host or firmware write sets and that have no row of their own. -/
inductive HostReg where
  | ctxstat (slot : Nat)
  | ctxsave (slot : Nat)
  | telbase (slot : Nat)
  | portStatus (port : Nat)
  | mcastGroup (i : Nat)
  | route (clique : Nat)
  | detour (a b : Nat)
  | port23 (i : Nat)
  | port23Ctx
  | ckctl
  | ckTarget (i : Nat) (hi : Bool)
  | fwctl
  | devidx
  | apbase
  | apasid
  | asidTable
  | podMap
  | frameOwners
  | winFrame
  | msixMask (i : Nat)
  | coreFreq
  | phys (addr : Nat)
  deriving DecidableEq, Repr

/-- A link-level replay at a port (R343): `again` says that it is the replay of the flit that failed last. -/
structure ReplayAt where
  port  : Nat
  again : Bool
  deriving DecidableEq, Repr

/-- What a port's training tells (R344, R345, R348): the peer's port; that this end transmits on lanes 0 to 3, the peer being its mirror; that training
has ended; and the most lanes each way that a standard-mode partner has. -/
structure PeerEnd where
  pport : Nat
  low   : Bool
  ended : Bool
  width : Nat := 4
  deriving DecidableEq, Repr

/-! ## The instructions and steps -/

/-- One constructor for each row of spec/opcode_table.json. -/
inductive Instr where
  /-- NOP (R50). -/
  | nop (f : Full)
  /-- BRA (R117). -/
  | bra (f : Full)
  /-- JMP (R118). -/
  | jmp (f : Full)
  /-- JMPR (R118). -/
  | jmpr (f : Full)
  /-- CALL (R119). -/
  | call (f : Full)
  /-- CALLI (R219). -/
  | calli (f : Full)
  /-- RET (R222). -/
  | ret (f : Full)
  /-- REFORM (R120). -/
  | reform (f : Full)
  /-- EXIT (R121). -/
  | exit (f : Full)
  /-- BAR (R123). -/
  | bar (f : Full)
  /-- BARARR (R123). -/
  | bararr (f : Full)
  /-- BARWT (R123). -/
  | barwt (f : Full)
  /-- WAITC (R125). -/
  | waitc (f : Full)
  /-- YIELD (R126). -/
  | yield (f : Full)
  /-- SLEEP (R126). -/
  | sleep (f : Full)
  /-- SLEEP_EXPIRY (R126). -/
  | sleepExpiry (ply : Nat)
  /-- JOIN_WINDOW_EXPIRY (R39). -/
  | joinWindowExpiry (ply : Nat)
  /-- STARVATION_LIMIT (R87). -/
  | starvationLimit (ply : Nat)
  /-- TRAP (R127). -/
  | trap (f : Full)
  /-- BKPT (R127). -/
  | bkpt (f : Full)
  /-- ERET (R227). -/
  | eret (f : Full)
  /-- CSRR (R129). -/
  | csrr (f : Full)
  /-- CSRW (R129). -/
  | csrw (f : Full)
  /-- PAIR (R38). -/
  | pair (p : Pair)
  /-- IADD (R136). -/
  | iadd (f : Full)
  /-- ISUB (R136). -/
  | isub (f : Full)
  /-- IADDW (R136). -/
  | iaddw (f : Full)
  /-- ISUBW (R136). -/
  | isubw (f : Full)
  /-- IMUL (R136). -/
  | imul (f : Full)
  /-- IMULH (R136). -/
  | imulh (f : Full)
  /-- IMAD (R136). -/
  | imad (f : Full)
  /-- IMADW (R136). -/
  | imadw (f : Full)
  /-- IMIN (R136). -/
  | imin (f : Full)
  /-- IMAX (R136). -/
  | imax (f : Full)
  /-- IABS (R136). -/
  | iabs (f : Full)
  /-- ICMP (R137). -/
  | icmp (f : Full)
  /-- ICMPW (R137). -/
  | icmpw (f : Full)
  /-- SEL (R137). -/
  | sel (f : Full)
  /-- AND (R138). -/
  | and (f : Full)
  /-- OR (R138). -/
  | or (f : Full)
  /-- XOR (R138). -/
  | xor (f : Full)
  /-- ANDN (R138). -/
  | andn (f : Full)
  /-- SHL (R138). -/
  | shl (f : Full)
  /-- SHR (R138). -/
  | shr (f : Full)
  /-- SAR (R138). -/
  | sar (f : Full)
  /-- SHLW (R138). -/
  | shlw (f : Full)
  /-- SHRW (R138). -/
  | shrw (f : Full)
  /-- ROTL (R138). -/
  | rotl (f : Full)
  /-- POPC (R138). -/
  | popc (f : Full)
  /-- CLZ (R138). -/
  | clz (f : Full)
  /-- BREV (R138). -/
  | brev (f : Full)
  /-- BFX (R139). -/
  | bfx (f : Full)
  /-- BFI (R139). -/
  | bfi (f : Full)
  /-- BPICK (R139). -/
  | bpick (f : Full)
  /-- MOV (R140). -/
  | mov (f : Full)
  /-- MOVI (R140). -/
  | movi (f : Full)
  /-- LEA (R141). -/
  | lea (f : Full)
  /-- FADD (R142). -/
  | fadd (f : Full)
  /-- FMUL (R142). -/
  | fmul (f : Full)
  /-- FFMA (R142). -/
  | ffma (f : Full)
  /-- FSCALE (R142). -/
  | fscale (f : Full)
  /-- FMIN (R143). -/
  | fmin (f : Full)
  /-- FMAX (R143). -/
  | fmax (f : Full)
  /-- FCMP (R143). -/
  | fcmp (f : Full)
  /-- FCLASS (R144). -/
  | fclass (f : Full)
  /-- FRND (R144). -/
  | frnd (f : Full)
  /-- FRCP (R145). -/
  | frcp (f : Full)
  /-- FRSQ (R145). -/
  | frsq (f : Full)
  /-- FSQRT (R145). -/
  | fsqrt (f : Full)
  /-- FEX2 (R145). -/
  | fex2 (f : Full)
  /-- FLG2 (R145). -/
  | flg2 (f : Full)
  /-- FSIN (R145). -/
  | fsin (f : Full)
  /-- FCOS (R145). -/
  | fcos (f : Full)
  /-- FTANH (R145). -/
  | ftanh (f : Full)
  /-- HADD2 (R146). -/
  | hadd2 (f : Full)
  /-- HMUL2 (R146). -/
  | hmul2 (f : Full)
  /-- HFMA2 (R146). -/
  | hfma2 (f : Full)
  /-- HMNMX2 (R146). -/
  | hmnmx2 (f : Full)
  /-- CVT (R147). -/
  | cvt (f : Full)
  /-- CVTS (R148). -/
  | cvts (f : Full)
  /-- PACK4 (R149). -/
  | pack4 (f : Full)
  /-- UNPK4 (R149). -/
  | unpk4 (f : Full)
  /-- PACK8 (R149). -/
  | pack8 (f : Full)
  /-- UNPK8 (R149). -/
  | unpk8 (f : Full)
  /-- RNG (R150). -/
  | rng (f : Full)
  /-- SHFL (R152). -/
  | shfl (f : Full)
  /-- BCST (R153). -/
  | bcst (f : Full)
  /-- BALLOT (R154). -/
  | ballot (f : Full)
  /-- VOTE (R154). -/
  | vote (f : Full)
  /-- MATCH (R154). -/
  | matchLanes (f : Full)
  /-- ACTMASK (R154). -/
  | actmask (f : Full)
  /-- REDUX (R155). -/
  | redux (f : Full)
  /-- SCAN (R155). -/
  | scan (f : Full)
  /-- LD (R181). -/
  | ld (f : Full)
  /-- LOAD_DATA_ARRIVAL (R181). -/
  | loadDataArrival (op lane : Nat)
  /-- ST (R182). -/
  | st (f : Full)
  /-- STORE_COMPLETION (R183). -/
  | storeCompletion (op : Nat)
  /-- ATOM (R186). -/
  | atom (f : Full)
  /-- ATOMCAS (R186). -/
  | atomcas (f : Full)
  /-- RED (R186). -/
  | red (f : Full)
  /-- ATOMIC_AT_HOME (R186). -/
  | atomicAtHome (op loc : Nat)
  /-- PREF (R184). -/
  | pref (f : Full)
  /-- SPILL (R192). -/
  | spill (f : Full)
  /-- FILL (R192). -/
  | fill (f : Full)
  /-- FENCE (R204). -/
  | fence (f : Full)
  /-- SUBS (R166). -/
  | subs (f : Full)
  /-- UNSUBS (R167). -/
  | unsubs (f : Full)
  /-- SEGSTAT (R169). -/
  | segstat (f : Full)
  /-- REPLICA_UPDATE (R162). -/
  | replicaUpdate (replica : Nat)
  /-- SYNC_MARKER_RETURN (R165). -/
  | syncMarkerReturn (replica : Nat)
  /-- PERMISSION_PROBE_REPLY (R171). -/
  | permissionProbeReply (core line : Nat)
  /-- PROMOTION_REQUEST (R206). -/
  | promotionRequest (op core : Nat)
  /-- PROMOTION_COMPLETE (R206). -/
  | promotionComplete (op : Nat)
  /-- WC_AGEING_DRAIN (R209). -/
  | wcAgeingDrain (core : Nat)
  /-- REMOTE_ACK (R359). -/
  | remoteAck (req : Nat) (r : RemoteReply)
  /-- FABRIC_TIMEOUT (R360). -/
  | fabricTimeout (req : Nat)
  /-- CPY (R244). -/
  | cpy (f : Full)
  /-- TCPY (R245). -/
  | tcpy (f : Full)
  /-- TGATH (R246). -/
  | tgath (f : Full)
  /-- TSCAT (R246). -/
  | tscat (f : Full)
  /-- CPYF (R244). -/
  | cpyf (f : Full)
  /-- COPY_PROBE_DONE (R243). -/
  | copyProbeDone (op : Nat)
  /-- COPY_DATA_LANDS (R241). -/
  | copyDataLands (op sectors : Nat)
  /-- COPY_COMPLETE (R228). -/
  | copyComplete (op : Nat)
  /-- TIDLD (R238). -/
  | tidld (f : Full)
  /-- TIDINV (R239). -/
  | tidinv (f : Full)
  /-- TBINIT (R252). -/
  | tbinit (f : Full)
  /-- TBEXP (R253). -/
  | tbexp (f : Full)
  /-- TBARR (R253). -/
  | tbarr (f : Full)
  /-- TBWAIT (R254). -/
  | tbwait (f : Full)
  /-- TBTEST (R254). -/
  | tbtest (f : Full)
  /-- BARRIER_UPDATE (R251). -/
  | barrierUpdate (place count : Nat)
  /-- MMA_AREG (R273). -/
  | mmaAreg (f : Full)
  /-- MMA_ALS (R273). -/
  | mmaAls (f : Full)
  /-- MMA_AACC (R273). -/
  | mmaAacc (f : Full)
  /-- MMAZ_AREG (R273). -/
  | mmazAreg (f : Full)
  /-- MMAZ_ALS (R273). -/
  | mmazAls (f : Full)
  /-- MMAZ_AACC (R273). -/
  | mmazAacc (f : Full)
  /-- ACCALLOC (R260). -/
  | accalloc (f : Full)
  /-- ACCALLOC_TRY (R260). -/
  | accallocTry (f : Full)
  /-- TILE_GRANT (R261). -/
  | tileGrant (part : Nat)
  /-- ACC_DEADLOCK_TIMEOUT (R262). -/
  | accDeadlockTimeout (part : Nat)
  /-- ACCFREE (R263). -/
  | accfree (f : Full)
  /-- ACCZERO (R277). -/
  | acczero (f : Full)
  /-- ACCLD (R278). -/
  | accld (f : Full)
  /-- ACCST (R280). -/
  | accst (f : Full)
  /-- ACCMOV (R283). -/
  | accmov (f : Full)
  /-- ACCFILL (R283). -/
  | accfill (f : Full)
  /-- ACCRMAX (R284). -/
  | accrmax (f : Full)
  /-- ACCRSUM (R284). -/
  | accrsum (f : Full)
  /-- ACCRSCL (R284). -/
  | accrscl (f : Full)
  /-- ACCMAP_ADD (R284). -/
  | accmapAdd (f : Full)
  /-- ACCMAP_MUL (R284). -/
  | accmapMul (f : Full)
  /-- ACCMAP_EX2 (R284). -/
  | accmapEx2 (f : Full)
  /-- ACCMAP_RELU (R284). -/
  | accmapRelu (f : Full)
  /-- ACCMAP_RND (R284). -/
  | accmapRnd (f : Full)
  /-- MATRIX_OP_COMPLETE (R268). -/
  | matrixOpComplete (op : Nat)
  /-- LENT_REGISTER_READ (R276). -/
  | lentRegisterRead (op : Nat)
  /-- DRAW (R305). -/
  | draw (f : Full)
  /-- DRAWT (R306). -/
  | drawt (f : Full)
  /-- DEAL (R307). -/
  | deal (f : Full)
  /-- DEAL_TRY (R307). -/
  | dealTry (f : Full)
  /-- DECKST (R308). -/
  | deckst (f : Full)
  /-- DECK_REQUEST (R301). -/
  | deckRequest (slot deck : Nat)
  /-- DECK_PAYLOAD_ARRIVAL (R305). -/
  | deckPayloadArrival (op : Nat)
  /-- GATE_RETEST (R301). -/
  | gateRetest (slot deck : Nat)
  /-- HOST_DEAL (R303). -/
  | hostDeal (slot deck : Nat) (bytes : List Byte)
  /-- DROPS_READ (R303). -/
  | dropsRead (slot deck : Nat)
  /-- MCST (R362). -/
  | mcst (f : Full)
  /-- MCST_DELIVERY (R362). -/
  | mcstDelivery (p : McstPkt)
  /-- RFENCE (R364). -/
  | rfence (f : Full)
  /-- RFENCE_ONE (R364). -/
  | rfenceOne (f : Full)
  /-- CGLOAD_GRAPH (R374). -/
  | cgloadGraph (f : Full)
  /-- CGLOAD_GROUP (R374). -/
  | cgloadGroup (f : Full)
  /-- CGRUN (R375). -/
  | cgrun (f : Full)
  /-- CGSTAT (R388). -/
  | cgstat (f : Full)
  /-- CGABORT (R386). -/
  | cgabort (f : Full)
  /-- CGTRIG (R387). -/
  | cgtrig (f : Full)
  /-- TILE_TRIGGER (R382). -/
  | tileTrigger (op : Nat)
  /-- START_PACKET_ARRIVAL (R377). -/
  | startPacketArrival (p : StartPkt)
  /-- CHUNK_OP_START (R369). -/
  | chunkOpStart (call idx : Nat)
  /-- CHUNK_OP_COMPLETE (R369). -/
  | chunkOpComplete (call idx : Nat)
  /-- ENGINE_DATA_ARRIVAL (R369). -/
  | engineDataArrival (p : EngPkt)
  /-- ABORT_PACKET_ARRIVAL (R384). -/
  | abortPacketArrival (p : AbortPkt)
  /-- ENGINE_PACKET_TIMEOUT (R378). -/
  | enginePacketTimeout (call : Nat)
  /-- SEND (R395). -/
  | send (f : Full)
  /-- RPOST (R396). -/
  | rpost (f : Full)
  /-- RCANCEL (R402). -/
  | rcancel (f : Full)
  /-- RPROBE (R402). -/
  | rprobe (f : Full)
  /-- RCLAIM (R401). -/
  | rclaim (f : Full)
  /-- RSTAT (R403). -/
  | rstat (f : Full)
  /-- RSTAT_OPEN (R403). -/
  | rstatOpen (f : Full)
  /-- MESSAGE_ARRIVAL (R397). -/
  | messageArrival (m : MsgIn)
  /-- PAYLOAD_PULL (R398). -/
  | payloadPull (recv : Nat) (r : PullReply)
  /-- MESSAGE_HOLD (R398). -/
  | messageHold (send : Nat)
  /-- SEND_COMPLETE (R395). -/
  | sendComplete (send : Nat) (r : SendReply)
  /-- BOBBIN_DRAW (R98). -/
  | bobbinDraw (part : Nat)
  /-- LAUNCH_PACKET_WRITE (R290). -/
  | launchPacketWrite (slot : Nat) (bytes : List Byte)
  /-- SKEIN_PLACEMENT (R292). -/
  | skeinPlacement (core : Nat)
  /-- PREEMPT (R311). -/
  | preempt (slot : Nat)
  /-- STOP (R321). -/
  | stop (slot : Nat)
  /-- RESTORE (R315). -/
  | restore (slot : Nat)
  /-- RELEASE (R288). -/
  | release (slot : Nat)
  /-- CORE_SAVE_END (R311). -/
  | coreSaveEnd (slot core : Nat)
  /-- SKEIN_RESTORE (R315). -/
  | skeinRestore (slot skein : Nat)
  /-- QUOTA_WRITE (R297). -/
  | quotaWrite (slot core : Nat) (v : DWord)
  /-- INTCFG_WRITE (R415). -/
  | intcfgWrite (slot : Nat) (v : Word)
  /-- REGISTER_WRITE (R6). -/
  | registerWrite (r : HostReg) (v : DWord)
  /-- RESOLVE_RETRY (R333). -/
  | resolveRetry (slice rid : Nat)
  /-- RESOLVE_FAIL (R333). -/
  | resolveFail (slice rid : Nat)
  /-- WALK_COMPLETE (R329). -/
  | walkComplete (asid page : Nat) (kind : AccKind)
  /-- DIE_LINK_REQ_TIMEOUT (R431). -/
  | dieLinkReqTimeout (tag : Nat)
  /-- INSTRUCTION_LINE_ARRIVAL (R86). -/
  | instructionLineArrival (core line : Nat)
  /-- SEGMENT_TRANSIT_END (R166). -/
  | segmentTransitEnd (seg : Nat)
  /-- INBOUND_POD_ACCESS (R337). -/
  | inboundPodAccess (p : PodAccess)
  /-- SHOOTDOWN_REQUEST (R340). -/
  | shootdownRequest (bytes : List Byte)
  /-- SHOOTDOWN_EXECUTE (R341). -/
  | shootdownExecute
  /-- FLIT_REPLAY (R343); `again` says that it is the flit whose replay has just failed. -/
  | flitReplay (port : ReplayAt)
  /-- PORT_FAIL (R355). -/
  | portFail (port : Nat)
  /-- LANE_FAIL (R346). -/
  | laneFail (port lane : Nat)
  /-- LANE_TURN (R347). -/
  | laneTurn (port lane : Nat)
  /-- RETRAIN_DONE (R346). -/
  | retrainDone (port : Nat)
  /-- PORT_UP (R357): training goes on, or has ended (`ended`), with the peer that it learnt (R348) and whether this end transmits on lanes 0 to 3
  (`low`, R345). -/
  | portUp (port pdev : Nat) (pport : PeerEnd)
  /-- PACKET_FORWARD (R353). -/
  | packetForward (p : FabPkt)
  /-- FABCFG_WRITE (R349). -/
  | fabcfgWrite (v : Word)
  /-- PORT_STATUS_READ (R348). -/
  | portStatusRead (port : Nat)
  /-- CHECKPOINT_GO (R424). -/
  | checkpointGo (v : DWord)
  /-- CHECKPOINT_END (R424). -/
  | checkpointEnd
  /-- FLIT_RECEIVE (R428). -/
  | flitReceive (port : DiePort) (module : Nat) (slots : List (BitVec 128))
  /-- RD (R430). -/
  | rd (port : DiePort) (m : DlMsg)
  /-- WR (R430). -/
  | wr (port : DiePort) (m : DlMsg)
  /-- DL_ATOM (R430). -/
  | dlAtom (port : DiePort) (m : DlMsg)
  /-- PROBEW (R430). -/
  | probew (port : DiePort) (m : DlMsg)
  /-- SPRD (R430). -/
  | sprd (port : DiePort) (m : DlMsg)
  /-- SPWR (R430). -/
  | spwr (port : DiePort) (m : DlMsg)
  /-- TBUPD (R430). -/
  | tbupd (port : DiePort) (m : DlMsg)
  /-- PROMO (R433). -/
  | promo (port : DiePort) (m : DlMsg)
  /-- SHOOT (R433). -/
  | shoot (port : DiePort) (m : DlMsg)
  /-- ACK (R430). -/
  | ack (port : DiePort) (m : DlMsg)
  /-- NACK (R430). -/
  | nack (port : DiePort) (m : DlMsg)
  /-- PACK (R430). -/
  | pack (port : DiePort) (m : DlMsg)
  /-- SACK (R430). -/
  | sack (port : DiePort) (m : DlMsg)
  /-- RDATA (R430). -/
  | rdata (port : DiePort) (m : DlMsg)
  /-- MFAIL (R430). -/
  | mfail (port : DiePort) (m : DlMsg)
  /-- IDENT (R435). -/
  | ident (port : DiePort) (m : DlMsg)
  /-- CAP (R435). -/
  | cap (port : DiePort) (m : DlMsg)
  /-- DISCOVERY_TIMEOUT (R434). -/
  | discoveryTimeout (port : DiePort)
  /-- MODULE_FAIL (R427). -/
  | moduleFail (port : DiePort) (module : Nat)
  /-- MODULE_TRAINED (R434). -/
  | moduleTrained (port : DiePort) (module : Nat)
  /-- APERTURE_READ (R440). -/
  | apertureRead (off len : Nat)
  /-- APERTURE_WRITE (R440). -/
  | apertureWrite (off : Nat) (bytes : List Byte)
  /-- APERTURE_ATOMIC (R440). -/
  | apertureAtomic (off : Nat) (op : HostAtomic)
  /-- APERR_READ (R451). -/
  | aperrRead
  /-- HOST_COMPLETION (R441). -/
  | hostCompletion (req : Nat) (r : HostReply)
  /-- THROTTLE (R14). -/
  | throttle (core : Nat)
  /-- THERMAL_STOP (R445). -/
  | thermalStop
  /-- THERMAL_RESUME (R445). -/
  | thermalResume
  /-- PWRCTL_WRITE (R446). -/
  | pwrctlWrite (v : DWord)
  /-- RESET (R447). -/
  | reset (img : FwImage)
  /-- REDUCED_SERVICE_EXIT (R449). -/
  | reducedServiceExit
  /-- ATTESTATION_REPORT (R448). -/
  | attestationReport (nonce : List Byte)
  /-- HOST_COMPLETION_TIMEOUT (R441). -/
  | hostCompletionTimeout (req : Nat)
  /-- MODULE_DEGRADE (R426). -/
  | moduleDegrade (port : DiePort) (module : Nat) (trainsX32 : Bool)
  /-- THROTTLE_END (R14). -/
  | throttleEnd (core : Nat)
  deriving DecidableEq, Repr

end Sys2Proof
end

