-- ==== Sys2Proof/WellFormed.lean ====
section
/-! DEFINITION. Well-formed terms: every field holds a value that its bits can hold (R22, R35, R37). Whether the encoding is
legal (R60) is the machine's question, and it answers with a trap: see Machine/Legal.lean. -/

namespace Sys2Proof

/-- An operand names a code of R22, and one code only. -/
def Operand.wf : Operand → Bool
  | .v n => n < 768
  | .s n => n < 128
  | .int n => n < 64
  | .fp i => i < 12
  | .special _ => true
  | .imm => true
  | .reserved c => (972 ≤ c && c ≤ 975) || (993 ≤ c && c ≤ 1022)

/-- The guard register is one of v0 to v31 (R35). -/
def Guard.wf (g : Guard) : Bool := g.reg < 32

/-- The fields of a full form fit their bits (R35). -/
def Full.wf (f : Full) : Bool := f.g.wf && f.d.wf && f.a.wf && f.b.wf

/-- The full-form fields of an instruction row; a PAIR and the steps of the engines and of the outside have none. -/
def Instr.full? : Instr → Option Full
  | .nop f => some f
  | .bra f => some f
  | .jmp f => some f
  | .jmpr f => some f
  | .call f => some f
  | .calli f => some f
  | .ret f => some f
  | .reform f => some f
  | .exit f => some f
  | .bar f => some f
  | .bararr f => some f
  | .barwt f => some f
  | .waitc f => some f
  | .yield f => some f
  | .sleep f => some f
  | .trap f => some f
  | .bkpt f => some f
  | .eret f => some f
  | .csrr f => some f
  | .csrw f => some f
  | .iadd f => some f
  | .isub f => some f
  | .iaddw f => some f
  | .isubw f => some f
  | .imul f => some f
  | .imulh f => some f
  | .imad f => some f
  | .imadw f => some f
  | .imin f => some f
  | .imax f => some f
  | .iabs f => some f
  | .icmp f => some f
  | .icmpw f => some f
  | .sel f => some f
  | .and f => some f
  | .or f => some f
  | .xor f => some f
  | .andn f => some f
  | .shl f => some f
  | .shr f => some f
  | .sar f => some f
  | .shlw f => some f
  | .shrw f => some f
  | .rotl f => some f
  | .popc f => some f
  | .clz f => some f
  | .brev f => some f
  | .bfx f => some f
  | .bfi f => some f
  | .bpick f => some f
  | .mov f => some f
  | .movi f => some f
  | .lea f => some f
  | .fadd f => some f
  | .fmul f => some f
  | .ffma f => some f
  | .fscale f => some f
  | .fmin f => some f
  | .fmax f => some f
  | .fcmp f => some f
  | .fclass f => some f
  | .frnd f => some f
  | .frcp f => some f
  | .frsq f => some f
  | .fsqrt f => some f
  | .fex2 f => some f
  | .flg2 f => some f
  | .fsin f => some f
  | .fcos f => some f
  | .ftanh f => some f
  | .hadd2 f => some f
  | .hmul2 f => some f
  | .hfma2 f => some f
  | .hmnmx2 f => some f
  | .cvt f => some f
  | .cvts f => some f
  | .pack4 f => some f
  | .unpk4 f => some f
  | .pack8 f => some f
  | .unpk8 f => some f
  | .rng f => some f
  | .shfl f => some f
  | .bcst f => some f
  | .ballot f => some f
  | .vote f => some f
  | .matchLanes f => some f
  | .actmask f => some f
  | .redux f => some f
  | .scan f => some f
  | .ld f => some f
  | .st f => some f
  | .atom f => some f
  | .atomcas f => some f
  | .red f => some f
  | .pref f => some f
  | .spill f => some f
  | .fill f => some f
  | .fence f => some f
  | .subs f => some f
  | .unsubs f => some f
  | .segstat f => some f
  | .cpy f => some f
  | .tcpy f => some f
  | .tgath f => some f
  | .tscat f => some f
  | .cpyf f => some f
  | .tidld f => some f
  | .tidinv f => some f
  | .tbinit f => some f
  | .tbexp f => some f
  | .tbarr f => some f
  | .tbwait f => some f
  | .tbtest f => some f
  | .mmaAreg f => some f
  | .mmaAls f => some f
  | .mmaAacc f => some f
  | .mmazAreg f => some f
  | .mmazAls f => some f
  | .mmazAacc f => some f
  | .accalloc f => some f
  | .accallocTry f => some f
  | .accfree f => some f
  | .acczero f => some f
  | .accld f => some f
  | .accst f => some f
  | .accmov f => some f
  | .accfill f => some f
  | .accrmax f => some f
  | .accrsum f => some f
  | .accrscl f => some f
  | .accmapAdd f => some f
  | .accmapMul f => some f
  | .accmapEx2 f => some f
  | .accmapRelu f => some f
  | .accmapRnd f => some f
  | .draw f => some f
  | .drawt f => some f
  | .deal f => some f
  | .dealTry f => some f
  | .deckst f => some f
  | .mcst f => some f
  | .rfence f => some f
  | .rfenceOne f => some f
  | .cgloadGraph f => some f
  | .cgloadGroup f => some f
  | .cgrun f => some f
  | .cgstat f => some f
  | .cgabort f => some f
  | .cgtrig f => some f
  | .send f => some f
  | .rpost f => some f
  | .rcancel f => some f
  | .rprobe f => some f
  | .rclaim f => some f
  | .rstat f => some f
  | .rstatOpen f => some f
  | _ => none

/-- The pair-form fields of PAIR. -/
def Instr.pair? : Instr → Option Pair
  | .pair p => some p
  | _ => none

/-- The row is an instruction with an encoding, not a step of an engine or of the outside. -/
def Instr.coded (i : Instr) : Bool := i.full?.isSome || i.pair?.isSome

/-- Rows that share one major opcode and function are told apart by M[24]: TRY of ACCALLOC (R265) and DEAL (R304), ONE of RFENCE
(R364), KIND of CGLOAD (R372), OPEN of RSTAT (R392). That bit agrees with the row. -/
def Instr.splitOk : Instr → Bool
  | .accalloc f => !f.m.getLsbD 24
  | .accallocTry f => f.m.getLsbD 24
  | .deal f => !f.m.getLsbD 24
  | .dealTry f => f.m.getLsbD 24
  | .rfence f => !f.m.getLsbD 24
  | .rfenceOne f => f.m.getLsbD 24
  | .cgloadGraph f => !f.m.getLsbD 24
  | .cgloadGroup f => f.m.getLsbD 24
  | .rstat f => !f.m.getLsbD 24
  | .rstatOpen f => f.m.getLsbD 24
  | _ => true

/-- A well-formed instruction: its full-form fields fit their bits and M[24] agrees with the row. The fields of a pair are bit vectors and always fit. -/
def Instr.wf (i : Instr) : Bool :=
  match i.full? with
  | some f => f.wf && i.splitOk
  | none => true

end Sys2Proof
end

