-- ==== Sys2Proof/Decode.lean ====
section
/-! DEFINITION. Decoding of parcels into instructions (R34 to R41, R48 to R58), total on any bytes and rejecting by name, and
after it the encoder. The decoder takes the fields apart; whether their values are legal (R60) is decided at issue, by
Machine/Legal.lean, in the order of causes of R62. -/

namespace Sys2Proof

/-- Why no instruction was read: too few bytes, reserved frame bits (cause 0x01 of R62), unassigned MAJ (0x02) or FN (0x03). -/
inductive DecErr where
  | short | frame | maj | fn
  deriving DecidableEq, Repr

/-! ## Codes of the fields -/

/-- The operand code of a special (R24). -/
def specialCode : Special → Nat
  | .zero => 976 | .lane => 977 | .tid => 978 | .ply => 979 | .plyw => 980 | .skein => 981 | .core => 982 | .quad => 983
  | .die => 984 | .dev => 985 | .part => 986 | .clklo => 987 | .clkhi => 988 | .ctxid => 989 | .nplies => 990 | .nskein => 991
  | .slot => 992

/-- The special at an offset from code 976 (R24). -/
def specialOf (c : Nat) : Option Special :=
  [.zero, .lane, .tid, .ply, .plyw, .skein, .core, .quad, .die, .dev, .part, .clklo, .clkhi, .ctxid, .nplies, .nskein, .slot][c]?

/-- The operand of a 10-bit code (R22). -/
def operandOf (c : Nat) : Operand :=
  if c < 768 then .v c
  else if c < 896 then .s (c - 768)
  else if c < 960 then .int (c - 896)
  else if c < 972 then .fp (c - 960)
  else if c = 1023 then .imm
  else match specialOf (c - 976) with
    | some x => if 976 ≤ c then .special x else .reserved c
    | none => .reserved c

/-- The 10-bit code of an operand (R22). -/
def operandCode : Operand → Nat
  | .v n => n
  | .s n => 768 + n
  | .int n => 896 + n
  | .fp i => 960 + i
  | .special x => specialCode x
  | .imm => 1023
  | .reserved c => c

/-- The type of a TY code (R40). -/
def tyOf (c : Nat) : Option Ty :=
  if c < 8 then [.f32, .bf16, .f16, .e4m3, .e5m2, .e2m1, .slub4, .e8m0][c]?
  else if 16 ≤ c then [.s32, .n32, .s16, .n16, .s8, .n8, .s64, .n64][c - 16]?
  else none

/-- The rounding mode of a code (R40). -/
def rmOf (c : Nat) : Option Rm := [.rne, .rz, .ru, .rd, .rna, .sr][c]?

/-- The comparison of a code (R40). -/
def cmpOf (c : Nat) : Option Cmp := [.eq, .ne, .lt, .le, .gt, .ge, .un, .or][c]?

/-- The order of a code (R40). -/
def ordOf (c : Nat) : Option Ord := [.weak, .strong, .acq, .rel, .ar][c]?

/-- The scope of a code (R40). -/
def scopeOf (c : Nat) : Option Scope := [.core, .quad, .die, .pkg, .pod][c]?

/-- The counter class of a code (R41). -/
def clsOf (c : Nat) : Option Cls := [.ld, .st, .cpy, .mma, .gth, .net][c]?

/-- The code of a scalar pair opcode (R57). -/
def sopCode : SOp → Nat
  | .nop => 0 | .iadd => 1 | .iaddI => 2 | .isub => 3 | .isubI => 4 | .imul => 5 | .imin => 6 | .imax => 7
  | .and => 8 | .or => 9 | .xor => 10 | .andn => 11 | .shlI => 12 | .shrI => 13 | .sarI => 14 | .shl => 15
  | .shr => 16 | .mov => 17 | .moviI => 18 | .icmpEq => 19 | .icmpNe => 20 | .icmpLt => 21 | .icmpLe => 22 | .popc => 23
  | .clz => 24 | .iaddw => 25 | .iaddwI => 26 | .shlwI => 27 | .fadd => 28 | .fmul => 29 | .fmin => 30 | .fmax => 31

/-- The scalar pair opcode of a code (R57). -/
def sopOf (c : Nat) : Option SOp :=
  [.nop, .iadd, .iaddI, .isub, .isubI, .imul, .imin, .imax, .and, .or, .xor, .andn, .shlI, .shrI, .sarI, .shl, .shr, .mov, .moviI, .icmpEq, .icmpNe, .icmpLt, .icmpLe, .popc, .clz, .iaddw, .iaddwI, .shlwI, .fadd, .fmul, .fmin, .fmax][c]?

/-- The code of a vector pair opcode (R58). -/
def vopCode : VOp → Nat
  | .nop => 0 | .fadd => 1 | .fmul => 2 | .ffma => 3 | .fmin => 4 | .fmax => 5 | .iadd => 6 | .isub => 7
  | .imul => 8 | .imad => 9 | .imin => 10 | .imax => 11 | .and => 12 | .or => 13 | .xor => 14 | .andn => 15
  | .shl => 16 | .shr => 17 | .sar => 18 | .mov => 19 | .fcmpLt => 20 | .fcmpLe => 21 | .fcmpEq => 22 | .icmpLt => 23
  | .icmpEq => 24 | .cvtF32S32 => 25 | .cvtS32F32 => 26 | .frcp => 27 | .frsq => 28 | .fex2 => 29 | .popc => 30 | .iabs => 31

/-- The vector pair opcode of a code (R58). -/
def vopOf (c : Nat) : Option VOp :=
  [.nop, .fadd, .fmul, .ffma, .fmin, .fmax, .iadd, .isub, .imul, .imad, .imin, .imax, .and, .or, .xor, .andn, .shl, .shr, .sar, .mov, .fcmpLt, .fcmpLe, .fcmpEq, .icmpLt, .icmpEq, .cvtF32S32, .cvtS32F32, .frcp, .frsq, .fex2, .popc, .iabs][c]?

/-! ## The full-form opcode tables -/

/-- One assigned opcode: its major opcode, its function, and the instruction its fields make. -/
structure Op where
  maj  : Nat
  fn   : Nat
  make : Full → Instr

/-- Major opcode, function and constructor of the rows of R50. -/
def opsControl : List Op :=
  [⟨0x00, 0, .nop⟩,
   ⟨0x01, 0, .bra⟩,
   ⟨0x02, 0, .jmp⟩,
   ⟨0x03, 0, .jmpr⟩,
   ⟨0x04, 0, .call⟩,
   ⟨0x05, 0, .calli⟩,
   ⟨0x06, 0, .ret⟩,
   ⟨0x07, 0, .reform⟩,
   ⟨0x08, 0, .exit⟩,
   ⟨0x10, 0, .bar⟩,
   ⟨0x11, 0, .bararr⟩,
   ⟨0x12, 0, .barwt⟩,
   ⟨0x13, 0, .waitc⟩,
   ⟨0x14, 0, .yield⟩,
   ⟨0x15, 0, .sleep⟩,
   ⟨0x18, 0, .trap⟩,
   ⟨0x19, 0, .eret⟩,
   ⟨0x1A, 0, .csrr⟩,
   ⟨0x1B, 0, .csrw⟩,
   ⟨0x1C, 0, .bkpt⟩]

/-- Major opcode, function and constructor of the rows of R51. -/
def opsInteger : List Op :=
  [⟨0x20, 0, .iadd⟩,
   ⟨0x21, 0, .isub⟩,
   ⟨0x22, 0, .iaddw⟩,
   ⟨0x23, 0, .isubw⟩,
   ⟨0x24, 0, .imul⟩,
   ⟨0x25, 0, .imulh⟩,
   ⟨0x26, 0, .imad⟩,
   ⟨0x27, 0, .imadw⟩,
   ⟨0x28, 0, .imin⟩,
   ⟨0x29, 0, .imax⟩,
   ⟨0x2A, 0, .iabs⟩,
   ⟨0x2B, 0, .icmp⟩,
   ⟨0x2C, 0, .icmpw⟩,
   ⟨0x2D, 0, .sel⟩,
   ⟨0x2E, 0, .and⟩,
   ⟨0x2F, 0, .or⟩,
   ⟨0x30, 0, .xor⟩,
   ⟨0x31, 0, .andn⟩,
   ⟨0x32, 0, .shl⟩,
   ⟨0x33, 0, .shr⟩,
   ⟨0x34, 0, .sar⟩,
   ⟨0x35, 0, .shlw⟩,
   ⟨0x36, 0, .shrw⟩,
   ⟨0x37, 0, .rotl⟩,
   ⟨0x38, 0, .bfx⟩,
   ⟨0x39, 0, .bfi⟩,
   ⟨0x3A, 0, .popc⟩,
   ⟨0x3B, 0, .clz⟩,
   ⟨0x3C, 0, .brev⟩,
   ⟨0x3D, 0, .bpick⟩,
   ⟨0x3E, 0, .mov⟩,
   ⟨0x3F, 0, .movi⟩,
   ⟨0x40, 0, .lea⟩]

/-- Major opcode, function and constructor of the rows of R52. -/
def opsFloat : List Op :=
  [⟨0x50, 0, .fadd⟩,
   ⟨0x51, 0, .fmul⟩,
   ⟨0x52, 0, .ffma⟩,
   ⟨0x53, 0, .fmin⟩,
   ⟨0x54, 0, .fmax⟩,
   ⟨0x55, 0, .fcmp⟩,
   ⟨0x56, 0, .fclass⟩,
   ⟨0x57, 0, .frnd⟩,
   ⟨0x58, 0, .frcp⟩,
   ⟨0x58, 1, .frsq⟩,
   ⟨0x58, 2, .fsqrt⟩,
   ⟨0x58, 3, .fex2⟩,
   ⟨0x58, 4, .flg2⟩,
   ⟨0x58, 5, .fsin⟩,
   ⟨0x58, 6, .fcos⟩,
   ⟨0x58, 7, .ftanh⟩,
   ⟨0x59, 0, .fscale⟩,
   ⟨0x5A, 0, .hadd2⟩,
   ⟨0x5B, 0, .hmul2⟩,
   ⟨0x5C, 0, .hfma2⟩,
   ⟨0x5D, 0, .hmnmx2⟩,
   ⟨0x60, 0, .cvt⟩,
   ⟨0x61, 0, .cvts⟩,
   ⟨0x62, 0, .pack4⟩,
   ⟨0x63, 0, .unpk4⟩,
   ⟨0x64, 0, .pack8⟩,
   ⟨0x65, 0, .unpk8⟩,
   ⟨0x66, 0, .rng⟩]

/-- Major opcode, function and constructor of the rows of R53. -/
def opsLane : List Op :=
  [⟨0x80, 0, .shfl⟩,
   ⟨0x81, 0, .bcst⟩,
   ⟨0x82, 0, .ballot⟩,
   ⟨0x83, 0, .vote⟩,
   ⟨0x84, 0, .redux⟩,
   ⟨0x85, 0, .scan⟩,
   ⟨0x86, 0, .matchLanes⟩,
   ⟨0x87, 0, .actmask⟩]

/-- Major opcode, function and constructor of the rows of R54. -/
def opsLoadStore : List Op :=
  [⟨0x90, 0, .ld⟩,
   ⟨0x91, 0, .st⟩,
   ⟨0x92, 0, .atom⟩,
   ⟨0x93, 0, .atomcas⟩,
   ⟨0x94, 0, .red⟩,
   ⟨0x95, 0, .pref⟩,
   ⟨0x96, 0, .spill⟩,
   ⟨0x97, 0, .fill⟩,
   ⟨0x98, 0, .fence⟩,
   ⟨0x99, 0, .subs⟩,
   ⟨0x9A, 0, .unsubs⟩,
   ⟨0x9B, 0, .segstat⟩]

/-- Major opcode, function and constructor of the rows of R55. -/
def opsCopy : List Op :=
  [⟨0xB0, 0, .cpy⟩,
   ⟨0xB1, 0, .tcpy⟩,
   ⟨0xB2, 0, .tgath⟩,
   ⟨0xB3, 0, .tscat⟩,
   ⟨0xB4, 0, .cpyf⟩,
   ⟨0xB5, 0, .tidld⟩,
   ⟨0xB6, 0, .tidinv⟩,
   ⟨0xB8, 0, .tbinit⟩,
   ⟨0xB9, 0, .tbexp⟩,
   ⟨0xBA, 0, .tbarr⟩,
   ⟨0xBB, 0, .tbwait⟩,
   ⟨0xBC, 0, .tbtest⟩]

/-- Major opcode, function and constructor of the rows of R55, R56. -/
def opsMatrix : List Op :=
  [⟨0xC0, 0, .mmaAreg⟩,
   ⟨0xC0, 1, .mmaAls⟩,
   ⟨0xC0, 2, .mmaAacc⟩,
   ⟨0xC1, 0, .mmazAreg⟩,
   ⟨0xC1, 1, .mmazAls⟩,
   ⟨0xC1, 2, .mmazAacc⟩,
   ⟨0xC3, 0, .accfree⟩,
   ⟨0xC4, 0, .acczero⟩,
   ⟨0xC5, 0, .accld⟩,
   ⟨0xC6, 0, .accst⟩,
   ⟨0xC7, 0, .accmov⟩,
   ⟨0xC8, 0, .accfill⟩,
   ⟨0xC9, 0, .accrmax⟩,
   ⟨0xCA, 0, .accrsum⟩,
   ⟨0xCB, 0, .accrscl⟩,
   ⟨0xCC, 0, .accmapAdd⟩,
   ⟨0xCC, 1, .accmapMul⟩,
   ⟨0xCC, 2, .accmapEx2⟩,
   ⟨0xCC, 3, .accmapRelu⟩,
   ⟨0xCC, 4, .accmapRnd⟩]

/-- Major opcode, function and constructor of the rows of R55. -/
def opsWork : List Op :=
  [⟨0xD0, 0, .draw⟩,
   ⟨0xD1, 0, .drawt⟩,
   ⟨0xD3, 0, .deckst⟩,
   ⟨0xD8, 0, .mcst⟩]

/-- Major opcode, function and constructor of the rows of R55. -/
def opsCollective : List Op :=
  [⟨0xE1, 0, .cgrun⟩,
   ⟨0xE2, 0, .cgstat⟩,
   ⟨0xE3, 0, .cgabort⟩,
   ⟨0xE4, 0, .cgtrig⟩,
   ⟨0xE8, 0, .send⟩,
   ⟨0xE9, 0, .rpost⟩,
   ⟨0xEA, 0, .rcancel⟩,
   ⟨0xEB, 0, .rprobe⟩,
   ⟨0xEC, 0, .rclaim⟩]

/-- The rows that share one major opcode and function and are told apart by M[24]: TRY of ACCALLOC (R265) and DEAL (R304),
ONE of RFENCE (R364), KIND of CGLOAD (R372), OPEN of RSTAT (R392). -/
def opsSplit : List Op :=
  [⟨0xC2, 0, fun f => if f.m.getLsbD 24 then .accallocTry f else .accalloc f⟩,
   ⟨0xD2, 0, fun f => if f.m.getLsbD 24 then .dealTry f else .deal f⟩,
   ⟨0xD9, 0, fun f => if f.m.getLsbD 24 then .rfenceOne f else .rfence f⟩,
   ⟨0xE0, 0, fun f => if f.m.getLsbD 24 then .cgloadGroup f else .cgloadGraph f⟩,
   ⟨0xED, 0, fun f => if f.m.getLsbD 24 then .rstatOpen f else .rstat f⟩]

/-- Every assigned pair of a major opcode and a function (R49 to R56). -/
def ops : List Op :=
  opsControl ++ opsInteger ++ opsFloat ++ opsLane ++ opsLoadStore ++ opsCopy ++ opsMatrix ++ opsWork ++ opsCollective ++ opsSplit

/-! ## Decoding -/

/-- The fields of a full form from its three parcels (R35). -/
def fullFields (p0 p1 p2 : Nat) : Full :=
  { g := ⟨p0 / 2 ^ 15 % 2 = 1, p0 / 2 ^ 14 % 2 = 1, p0 / 2 ^ 9 % 32⟩
    d := operandOf (p0 % 512 * 2 + p1 / 2 ^ 31 % 2)
    a := operandOf (p1 / 2 ^ 21 % 1024)
    b := operandOf (p1 / 2 ^ 11 % 1024)
    wd := p1 / 2 ^ 10 % 2 = 1
    wa := p1 / 2 ^ 9 % 2 = 1
    wb := p1 / 2 ^ 8 % 2 = 1
    h := BitVec.ofNat 8 p1
    m := BitVec.ofNat 32 p2 }

/-- The fields of a pair from its two parcels (R37). -/
def pairFields (p0 p1 : Nat) : Pair :=
  { g := BitVec.ofNat 5 (p0 / 2 ^ 25)
    sop := (sopOf (p0 / 2 ^ 20 % 32)).getD .nop
    sd := BitVec.ofNat 6 (p0 / 2 ^ 14)
    sa := BitVec.ofNat 6 (p0 / 2 ^ 8)
    sb := BitVec.ofNat 6 (p0 / 2 ^ 2)
    vop := (vopOf (p0 % 4 * 8 + p1 / 2 ^ 29 % 8)).getD .nop
    vd := BitVec.ofNat 9 (p1 / 2 ^ 20)
    va := BitVec.ofNat 9 (p1 / 2 ^ 11)
    vb := BitVec.ofNat 9 (p1 / 2 ^ 2)
    reuse := p1 / 2 % 2 = 1
    yld := p1 % 2 = 1 }

/-- The row of a major opcode and a function; a miss names the cause of R62. -/
def lookupOp (maj fn : Nat) : Except DecErr Op :=
  match ops.find? fun r => r.maj == maj && r.fn == fn with
  | some r => .ok r
  | none => .error (if ops.any fun r => r.maj == maj then .fn else .maj)

/-- The instruction whose first parcels are p0, p1 and p2, and its size in bytes (R34). -/
def decodeParcels (p0 p1 p2 : Nat) : Except DecErr (Instr × Nat) :=
  match p0 / 2 ^ 30 % 4 with
  | 3 => match lookupOp (p0 / 2 ^ 22 % 256) (p0 / 2 ^ 16 % 64) with
    | .ok r => .ok (r.make (fullFields p0 p1 p2), 12)
    | .error e => .error e
  | 2 => .ok (.pair (pairFields p0 p1), 8)
  | _ => .error .frame

/-- The size of the form that a first parcel selects; 4 for a reserved frame (R34). -/
def formSize (p0 : Nat) : Nat :=
  match p0 / 2 ^ 30 % 4 with
  | 3 => 12
  | 2 => 8
  | _ => 4

/-- The number in the first four bytes of a string (R34: parcels are little-endian). -/
def parcelAt (bs : List Byte) (i : Nat) : Nat := Machine.leNat ((bs.drop (4 * i)).take 4)

/-- Reads one instruction from the front of a byte string, and gives the bytes that follow it. -/
def decode (bs : List Byte) : Except DecErr (Instr × List Byte) :=
  if bs.length < 4 then .error .short
  else if bs.length < formSize (parcelAt bs 0) then .error .short
  else match decodeParcels (parcelAt bs 0) (parcelAt bs 1) (parcelAt bs 2) with
    | .ok (i, n) => .ok (i, bs.drop n)
    | .error e => .error e

/-- The TRAPSUB of an encoding that is no instruction (R62). A short read is a fetch outside the window. -/
def decErrCause : DecErr → Nat
  | .short => 1
  | .frame => 1
  | .maj => 2
  | .fn => 3

/-- The instruction that the decoder reads from an instruction whose parcels, the first in the low 32 bits of w and the later
ones above it, are laid out little-endian from the lowest address; bits above nbits are 0. -/
def decodeTableWord (nbits w : Nat) : Option Instr :=
  match decode (Machine.leBytes 12 (w % 2 ^ nbits)) with
  | .ok (i, _) => some i
  | .error _ => none

/-! ## Encoding -/

/-- Major opcode, function and fields of a full-form row (R50 to R56). -/
def fullCode : Instr → Option (Nat × Nat × Full)
  | .nop f => some (0x00, 0, f)
  | .bra f => some (0x01, 0, f)
  | .jmp f => some (0x02, 0, f)
  | .jmpr f => some (0x03, 0, f)
  | .call f => some (0x04, 0, f)
  | .calli f => some (0x05, 0, f)
  | .ret f => some (0x06, 0, f)
  | .reform f => some (0x07, 0, f)
  | .exit f => some (0x08, 0, f)
  | .bar f => some (0x10, 0, f)
  | .bararr f => some (0x11, 0, f)
  | .barwt f => some (0x12, 0, f)
  | .waitc f => some (0x13, 0, f)
  | .yield f => some (0x14, 0, f)
  | .sleep f => some (0x15, 0, f)
  | .trap f => some (0x18, 0, f)
  | .eret f => some (0x19, 0, f)
  | .csrr f => some (0x1A, 0, f)
  | .csrw f => some (0x1B, 0, f)
  | .bkpt f => some (0x1C, 0, f)
  | .iadd f => some (0x20, 0, f)
  | .isub f => some (0x21, 0, f)
  | .iaddw f => some (0x22, 0, f)
  | .isubw f => some (0x23, 0, f)
  | .imul f => some (0x24, 0, f)
  | .imulh f => some (0x25, 0, f)
  | .imad f => some (0x26, 0, f)
  | .imadw f => some (0x27, 0, f)
  | .imin f => some (0x28, 0, f)
  | .imax f => some (0x29, 0, f)
  | .iabs f => some (0x2A, 0, f)
  | .icmp f => some (0x2B, 0, f)
  | .icmpw f => some (0x2C, 0, f)
  | .sel f => some (0x2D, 0, f)
  | .and f => some (0x2E, 0, f)
  | .or f => some (0x2F, 0, f)
  | .xor f => some (0x30, 0, f)
  | .andn f => some (0x31, 0, f)
  | .shl f => some (0x32, 0, f)
  | .shr f => some (0x33, 0, f)
  | .sar f => some (0x34, 0, f)
  | .shlw f => some (0x35, 0, f)
  | .shrw f => some (0x36, 0, f)
  | .rotl f => some (0x37, 0, f)
  | .bfx f => some (0x38, 0, f)
  | .bfi f => some (0x39, 0, f)
  | .popc f => some (0x3A, 0, f)
  | .clz f => some (0x3B, 0, f)
  | .brev f => some (0x3C, 0, f)
  | .bpick f => some (0x3D, 0, f)
  | .mov f => some (0x3E, 0, f)
  | .movi f => some (0x3F, 0, f)
  | .lea f => some (0x40, 0, f)
  | .fadd f => some (0x50, 0, f)
  | .fmul f => some (0x51, 0, f)
  | .ffma f => some (0x52, 0, f)
  | .fmin f => some (0x53, 0, f)
  | .fmax f => some (0x54, 0, f)
  | .fcmp f => some (0x55, 0, f)
  | .fclass f => some (0x56, 0, f)
  | .frnd f => some (0x57, 0, f)
  | .frcp f => some (0x58, 0, f)
  | .frsq f => some (0x58, 1, f)
  | .fsqrt f => some (0x58, 2, f)
  | .fex2 f => some (0x58, 3, f)
  | .flg2 f => some (0x58, 4, f)
  | .fsin f => some (0x58, 5, f)
  | .fcos f => some (0x58, 6, f)
  | .ftanh f => some (0x58, 7, f)
  | .fscale f => some (0x59, 0, f)
  | .hadd2 f => some (0x5A, 0, f)
  | .hmul2 f => some (0x5B, 0, f)
  | .hfma2 f => some (0x5C, 0, f)
  | .hmnmx2 f => some (0x5D, 0, f)
  | .cvt f => some (0x60, 0, f)
  | .cvts f => some (0x61, 0, f)
  | .pack4 f => some (0x62, 0, f)
  | .unpk4 f => some (0x63, 0, f)
  | .pack8 f => some (0x64, 0, f)
  | .unpk8 f => some (0x65, 0, f)
  | .rng f => some (0x66, 0, f)
  | .shfl f => some (0x80, 0, f)
  | .bcst f => some (0x81, 0, f)
  | .ballot f => some (0x82, 0, f)
  | .vote f => some (0x83, 0, f)
  | .redux f => some (0x84, 0, f)
  | .scan f => some (0x85, 0, f)
  | .matchLanes f => some (0x86, 0, f)
  | .actmask f => some (0x87, 0, f)
  | .ld f => some (0x90, 0, f)
  | .st f => some (0x91, 0, f)
  | .atom f => some (0x92, 0, f)
  | .atomcas f => some (0x93, 0, f)
  | .red f => some (0x94, 0, f)
  | .pref f => some (0x95, 0, f)
  | .spill f => some (0x96, 0, f)
  | .fill f => some (0x97, 0, f)
  | .fence f => some (0x98, 0, f)
  | .subs f => some (0x99, 0, f)
  | .unsubs f => some (0x9A, 0, f)
  | .segstat f => some (0x9B, 0, f)
  | .cpy f => some (0xB0, 0, f)
  | .tcpy f => some (0xB1, 0, f)
  | .tgath f => some (0xB2, 0, f)
  | .tscat f => some (0xB3, 0, f)
  | .cpyf f => some (0xB4, 0, f)
  | .tidld f => some (0xB5, 0, f)
  | .tidinv f => some (0xB6, 0, f)
  | .tbinit f => some (0xB8, 0, f)
  | .tbexp f => some (0xB9, 0, f)
  | .tbarr f => some (0xBA, 0, f)
  | .tbwait f => some (0xBB, 0, f)
  | .tbtest f => some (0xBC, 0, f)
  | .mmaAreg f => some (0xC0, 0, f)
  | .mmaAls f => some (0xC0, 1, f)
  | .mmaAacc f => some (0xC0, 2, f)
  | .mmazAreg f => some (0xC1, 0, f)
  | .mmazAls f => some (0xC1, 1, f)
  | .mmazAacc f => some (0xC1, 2, f)
  | .accfree f => some (0xC3, 0, f)
  | .acczero f => some (0xC4, 0, f)
  | .accld f => some (0xC5, 0, f)
  | .accst f => some (0xC6, 0, f)
  | .accmov f => some (0xC7, 0, f)
  | .accfill f => some (0xC8, 0, f)
  | .accrmax f => some (0xC9, 0, f)
  | .accrsum f => some (0xCA, 0, f)
  | .accrscl f => some (0xCB, 0, f)
  | .accmapAdd f => some (0xCC, 0, f)
  | .accmapMul f => some (0xCC, 1, f)
  | .accmapEx2 f => some (0xCC, 2, f)
  | .accmapRelu f => some (0xCC, 3, f)
  | .accmapRnd f => some (0xCC, 4, f)
  | .draw f => some (0xD0, 0, f)
  | .drawt f => some (0xD1, 0, f)
  | .deckst f => some (0xD3, 0, f)
  | .mcst f => some (0xD8, 0, f)
  | .cgrun f => some (0xE1, 0, f)
  | .cgstat f => some (0xE2, 0, f)
  | .cgabort f => some (0xE3, 0, f)
  | .cgtrig f => some (0xE4, 0, f)
  | .send f => some (0xE8, 0, f)
  | .rpost f => some (0xE9, 0, f)
  | .rcancel f => some (0xEA, 0, f)
  | .rprobe f => some (0xEB, 0, f)
  | .rclaim f => some (0xEC, 0, f)
  | .accalloc f => some (0xC2, 0, f)
  | .accallocTry f => some (0xC2, 0, f)
  | .deal f => some (0xD2, 0, f)
  | .dealTry f => some (0xD2, 0, f)
  | .rfence f => some (0xD9, 0, f)
  | .rfenceOne f => some (0xD9, 0, f)
  | .cgloadGraph f => some (0xE0, 0, f)
  | .cgloadGroup f => some (0xE0, 0, f)
  | .rstat f => some (0xED, 0, f)
  | .rstatOpen f => some (0xED, 0, f)
  | _ => none

/-- The parcels of a full form (R35). -/
def fullParcels (maj fn : Nat) (f : Full) : List Nat :=
  let n (b : Bool) : Nat := if b then 1 else 0
  [3 * 2 ^ 30 + maj * 2 ^ 22 + fn * 2 ^ 16 + n f.g.en * 2 ^ 15 + n f.g.inv * 2 ^ 14 + f.g.reg * 2 ^ 9 + operandCode f.d / 2,
   operandCode f.d % 2 * 2 ^ 31 + operandCode f.a * 2 ^ 21 + operandCode f.b * 2 ^ 11 + n f.wd * 2 ^ 10 + n f.wa * 2 ^ 9
     + n f.wb * 2 ^ 8 + f.h.toNat,
   f.m.toNat]

/-- The parcels of a pair (R37). -/
def pairParcels (p : Pair) : List Nat :=
  let n (b : Bool) : Nat := if b then 1 else 0
  [2 * 2 ^ 30 + p.g.toNat * 2 ^ 25 + sopCode p.sop * 2 ^ 20 + p.sd.toNat * 2 ^ 14 + p.sa.toNat * 2 ^ 8 + p.sb.toNat * 2 ^ 2
     + vopCode p.vop / 8,
   vopCode p.vop % 8 * 2 ^ 29 + p.vd.toNat * 2 ^ 20 + p.va.toNat * 2 ^ 11 + p.vb.toNat * 2 ^ 2 + n p.reuse * 2 + n p.yld]

/-- The parcels of an instruction; a step that is no instruction has none. A row that M[24] selects is encoded with the M its
fields carry, so it must carry that bit (`Instr.splitOk`). -/
def encodeParcels (i : Instr) : List Nat :=
  match fullCode i with
  | some (maj, fn, f) => fullParcels maj fn f
  | none => match i with
    | .pair p => pairParcels p
    | _ => []

/-- The bytes of an instruction, the first parcel at the lowest address (R34). -/
def encode (i : Instr) : List Byte := (encodeParcels i).flatMap (Machine.leBytes 4)

end Sys2Proof
end

