-- ==== Sys2Proof/Config.lean ====
section
/-! DEFINITION. What the spec leaves to an implementation, and the free values: constants without a body, so that no proof
can see which value they take. Each is named in a log entry (notes/assumptions). -/

namespace Sys2Proof.Config

/-- Distance, in codes, of FEX2's result from the correctly rounded one: taken where the result keeps the bound of R78. -/
opaque fex2Err : Word → Int
/-- The same for FLG2 (R78). -/
opaque flg2Err : Word → Int
/-- The same for FSIN (R78). -/
opaque fsinErr : Word → Int
/-- The same for FCOS (R78). -/
opaque fcosErr : Word → Int
/-- The same for FTANH (R78). -/
opaque ftanhErr : Word → Int
/-- The same for the GELU of ACCST (R280). -/
opaque geluErr : Word → Int

/-- A byte whose value the spec does not fix; the argument is the counter State.free (R384, R320). -/
opaque freeByte : Nat → Byte
/-- A choice the spec leaves to the engine, taken modulo the number of choices; the argument is State.free (R396, R398, R244). -/
opaque freeNat : Nat → Nat
/-- The hash that spreads flows over the ports of a gang, taken modulo their number (R352). -/
opaque flowHash : Nat → Nat
/-- At a clock, the link between two other members of the clique is up (R355): this package does not see it. Log entry 65. -/
opaque farLink : Nat → Nat → Nat → Bool

/-- The devices whose packages run a pod context, by its identifier: firmware arranges them outside the package (R122, R315). -/
opaque podMembers : Nat → List Nat

/-- The credits that a Reust die gives its die-link partner, by class (R435). -/
opaque dlCredit : Nat → Nat
/-- The part number that a Reust die sends in IDENT (R435). -/
opaque diePart : Nat
/-- The identity that a Reust die sends in IDENT (R435). -/
opaque dieIdent : Nat → DWord

/-- The SHA-256 of a byte string (R447, R448): a function named, but not defined, by the spec. -/
opaque sha256 : List Byte → BitVec 256
/-- Whether an LMS signature verifies over a digest under a public key (R447). -/
opaque lmsVerify : List Byte → List Byte → BitVec 256 → Bool
/-- The signature of the device's attestation key at a leaf index over a report (R448). -/
opaque lmsSign : Nat → List Byte → List Byte
/-- The fused root hash of R447. -/
opaque rootHash : BitVec 256
/-- The fused minimum firmware version of R447. -/
opaque minVersion : Nat
/-- The fused device identity of R448. -/
opaque deviceId : List Byte

end Sys2Proof.Config
end

