-- ==== Sys2Proof/Machine/Float.lean ====
section
/-! DEFINITION. Number formats and arithmetic rules (R63 to R80): exact values, the one rounding function, conversions,
special functions, SLUB4, stochastic rounding and the FPX flags. -/

namespace Sys2Proof.Machine

/-- FPX flags as the low bits of FPX (R79): NV 1, DZ 2, OF 4, UF 8, NX 16. -/
abbrev Flags := BitVec 5

/-- Invalid. -/
def flagNV : Flags := 1
/-- Divide-by-zero. -/
def flagDZ : Flags := 2
/-- Overflow. -/
def flagOF : Flags := 4
/-- Underflow. -/
def flagUF : Flags := 8
/-- Inexact. -/
def flagNX : Flags := 16

/-! ## Formats (R63) -/

/-- A floating-point format with a sign: exponent and mantissa bits, bias, its infinity and canonical NaN codes where it has
them, and its largest finite code. -/
structure Fmt where
  eb     : Nat
  mb     : Nat
  bias   : Nat
  inf    : Option Nat
  nan    : Option Nat
  maxFin : Nat
  deriving DecidableEq, Repr

/-- The format of a floating-point type (R63); E8M0 and SLUB4 have rules of their own. -/
def fmtOf : Ty → Option Fmt
  | .f32 => some ⟨8, 23, 127, some 0x7F800000, some 0x7FC00000, 0x7F7FFFFF⟩
  | .f16 => some ⟨5, 10, 15, some 0x7C00, some 0x7E00, 0x7BFF⟩
  | .bf16 => some ⟨8, 7, 127, some 0x7F80, some 0x7FC0, 0x7F7F⟩
  | .e4m3 => some ⟨4, 3, 7, none, some 0x7F, 0x7E⟩
  | .e5m2 => some ⟨5, 2, 15, some 0x7C, some 0x7E, 0x7B⟩
  | .e2m1 => some ⟨2, 1, 1, none, none, 0x7⟩
  | _ => none

/-- Bits of one element of a type (R65, R66). -/
def tyBits : Ty → Nat
  | .f32 => 32 | .bf16 => 16 | .f16 => 16 | .e4m3 => 8 | .e5m2 => 8 | .e2m1 => 4 | .slub4 => 4 | .e8m0 => 8
  | .s32 => 32 | .n32 => 32 | .s16 => 16 | .n16 => 16 | .s8 => 8 | .n8 => 8 | .s64 => 64 | .n64 => 64

/-- The type is one of the integer types of R66. -/
def tyInt : Ty → Bool
  | .s32 => true | .n32 => true | .s16 => true | .n16 => true | .s8 => true | .n8 => true | .s64 => true | .n64 => true
  | _ => false

/-- The type is a signed integer type. -/
def tySigned : Ty → Bool
  | .s32 => true | .s16 => true | .s8 => true | .s64 => true | _ => false

/-- The type occupies a register pair (R26, R66). -/
def ty64 : Ty → Bool
  | .s64 => true | .n64 => true | _ => false

/-! ## Exact values -/

/-- An exact value: NaN, an infinity, or ± num/den × 2^e, a zero keeping its sign (R64). -/
inductive FVal where
  | nan
  | inf (neg : Bool)
  | fin (neg : Bool) (num den : Nat) (e : Int)
  deriving DecidableEq, Repr

/-- The value 1. -/
def FVal.one : FVal := .fin false 1 1 0

/-- The value ± 0. -/
def FVal.zero (neg : Bool) : FVal := .fin neg 0 1 0

/-- The value of an integer. -/
def FVal.ofInt (x : Int) : FVal := .fin (x < 0) x.natAbs 1 0

/-- The value a code of a format stands for (R63). -/
def decodeFmt (f : Fmt) (code : Nat) : FVal :=
  let c := code % 2 ^ (1 + f.eb + f.mb)
  let neg := c.testBit (f.eb + f.mb)
  let mag := c % 2 ^ (f.eb + f.mb)
  let ex := mag / 2 ^ f.mb
  let man := mag % 2 ^ f.mb
  match f.inf with
  | some i =>
    if mag = i then .inf neg
    else if i < mag then .nan
    else if ex = 0 then .fin neg man 1 (1 - (f.bias : Int) - f.mb)
    else .fin neg (2 ^ f.mb + man) 1 ((ex : Int) - f.bias - f.mb)
  | none =>
    if f.maxFin < mag then .nan
    else if ex = 0 then .fin neg man 1 (1 - (f.bias : Int) - f.mb)
    else .fin neg (2 ^ f.mb + man) 1 ((ex : Int) - f.bias - f.mb)

/-- The value of an E8M0 code (R63): 2^(e - 127), and 0xFF is NaN. -/
def decodeE8M0 (c : Nat) : FVal :=
  if c % 256 = 255 then .nan else .fin false 1 1 (((c % 256 : Nat) : Int) - 127)

/-- The value of an element of a floating-point type; SLUB4 elements decode in pairs (R68) and are not read here. -/
def decodeF (ty : Ty) (c : Nat) : FVal :=
  match ty with
  | .e8m0 => decodeE8M0 c
  | t => match fmtOf t with
    | some f => decodeFmt f c
    | none => .nan

/-- FP32 value of a word. -/
def f32 (w : Nat) : FVal := decodeF .f32 w

/-- The value of an operand of integer type TY (R66): Ext as an exact integer. -/
def extInt (ty : Ty) (x : Nat) : Int :=
  if tySigned ty then sextInt (tyBits ty) x else ((x % 2 ^ tyBits ty : Nat) : Int)

/-! ## Exact arithmetic -/

/-- Negation. -/
def FVal.neg : FVal → FVal
  | .nan => .nan
  | .inf n => .inf (!n)
  | .fin n a d e => .fin (!n) a d e

/-- Magnitude. -/
def FVal.abs : FVal → FVal
  | .nan => .nan
  | .inf _ => .inf false
  | .fin _ a d e => .fin false a d e

/-- Signed numerators of two finite values over a common denominator and exponent. -/
def commonInt (n1 : Bool) (a1 d1 : Nat) (e1 : Int) (n2 : Bool) (a2 d2 : Nat) (e2 : Int) : Int × Int × Nat × Int :=
  let e := min e1 e2
  let x := a1 * d2 * 2 ^ (e1 - e).toNat
  let y := a2 * d1 * 2 ^ (e2 - e).toNat
  (if n1 then -(x : Int) else x, if n2 then -(y : Int) else y, d1 * d2, e)

/-- Exact sum; `rd` gives the sign of a zero sum of opposite signs (R64). Invalid for infinities of opposite signs (R142). -/
def FVal.add (rd : Bool) : FVal → FVal → FVal × Flags
  | .nan, _ => (.nan, 0)
  | _, .nan => (.nan, 0)
  | .inf a, .inf b => if a = b then (.inf a, 0) else (.nan, flagNV)
  | .inf a, .fin .. => (.inf a, 0)
  | .fin .., .inf b => (.inf b, 0)
  | .fin n1 a1 d1 e1, .fin n2 a2 d2 e2 =>
    if a1 = 0 ∧ a2 = 0 then (.zero (if n1 = n2 then n1 else rd), 0)
    else if a1 = 0 then (.fin n2 a2 d2 e2, 0)
    else if a2 = 0 then (.fin n1 a1 d1 e1, 0)
    else
      let (x, y, d, e) := commonInt n1 a1 d1 e1 n2 a2 d2 e2
      if x + y = 0 then (.zero rd, 0) else (.fin (x + y < 0) (x + y).natAbs d e, 0)

/-- Exact product; invalid for 0 × ∞ (R142). -/
def FVal.mul : FVal → FVal → FVal × Flags
  | .nan, _ => (.nan, 0)
  | _, .nan => (.nan, 0)
  | .inf a, .inf b => (.inf (a != b), 0)
  | .inf a, .fin n x _ _ => if x = 0 then (.nan, flagNV) else (.inf (a != n), 0)
  | .fin n x _ _, .inf b => if x = 0 then (.nan, flagNV) else (.inf (n != b), 0)
  | .fin n1 a1 d1 e1, .fin n2 a2 d2 e2 => (.fin (n1 != n2) (a1 * a2) (d1 * d2) (e1 + e2), 0)

/-- Exact quotient (R77, R78): divide-by-zero for a finite nonzero dividend over zero, invalid for 0/0 and ∞/∞. -/
def FVal.div : FVal → FVal → FVal × Flags
  | .nan, _ => (.nan, 0)
  | _, .nan => (.nan, 0)
  | .inf _, .inf _ => (.nan, flagNV)
  | .inf a, .fin n _ _ _ => (.inf (a != n), 0)
  | .fin n _ _ _, .inf b => (.zero (n != b), 0)
  | .fin n1 a1 d1 e1, .fin n2 a2 d2 e2 =>
    if a2 = 0 then (if a1 = 0 then (.nan, flagNV) else (.inf (n1 != n2), flagDZ))
    else (.fin (n1 != n2) (a1 * d2) (d1 * a2) (e1 - e2), 0)

/-- The value is a NaN. -/
def FVal.isNan : FVal → Bool
  | .nan => true | _ => false

/-- The value is a zero. -/
def FVal.isZero : FVal → Bool
  | .fin _ a _ _ => a = 0 | _ => false

/-- The sign bit of the value. -/
def FVal.sign : FVal → Bool
  | .nan => false | .inf n => n | .fin n _ _ _ => n

/-- Order of two numbers: -1, 0 or 1; zeros are equal. NaN operands are excluded by the callers. -/
def FVal.cmp : FVal → FVal → Int
  | .inf a, .inf b => if a = b then 0 else if a then -1 else 1
  | .inf a, _ => if a then -1 else 1
  | _, .inf b => if b then 1 else -1
  | .fin n1 a1 d1 e1, .fin n2 a2 d2 e2 =>
    if a1 = 0 ∧ a2 = 0 then 0
    else if a1 = 0 then (if n2 then 1 else -1)
    else if a2 = 0 then (if n1 then -1 else 1)
    else
      let (x, y, _, _) := commonInt n1 a1 d1 e1 n2 a2 d2 e2
      if x < y then -1 else if x = y then 0 else 1
  | _, _ => 0

/-! ## Rounding (R71, R72, R75) -/

/-- floor(log2(num/den)) for nonzero num and den. -/
def log2Q (num den : Nat) : Int :=
  let l : Int := (Nat.log2 num : Int) - (Nat.log2 den : Int)
  let ge := if 0 ≤ l then decide (den * 2 ^ l.toNat ≤ num) else decide (den ≤ num * 2 ^ (-l).toNat)
  if ge then l else l - 1

/-- Whether the kept magnitude is increased by one unit: quotient n, remainder r of divisor d (R71, R72). -/
def roundUp (rm : Rm) (neg : Bool) (w n r d : Nat) : Bool :=
  match rm with
  | .rne => decide (d < 2 * r) || (decide (2 * r = d) && decide (n % 2 = 1))
  | .rna => decide (d ≤ 2 * r)
  | .rz => false
  | .ru => decide (r ≠ 0) && !neg
  | .rd => decide (r ≠ 0) && neg
  | .sr => decide (65536 ≤ r * 65536 / d + w)

/-- The code that an overflow writes, without its sign, by mode and format (R75). -/
def overflowCode (f : Fmt) (rm : Rm) (sat neg : Bool) : Nat :=
  let big := match f.inf with
    | some i => i
    | none => match f.nan with
      | some n => n
      | none => f.maxFin
  if sat then f.maxFin else
  match rm with
  | .rz => f.maxFin
  | .ru => if neg then f.maxFin else big
  | .rd => if neg then big else f.maxFin
  | _ => big

/-- A code with its sign bit; the canonical NaN carries no sign (R64). -/
def withSign (f : Fmt) (neg : Bool) (c : Nat) : Nat :=
  if f.nan = some c then c else c + (if neg then 2 ^ (f.eb + f.mb) else 0)

/-- Rounds a nonzero magnitude num/den × 2^e into a format (R71 to R75). w is the random word of `.sr`. Underflow is judged on the code
delivered at subnormal spacing, not on rounding with unbounded exponent (DEDUCED, log entry 119). -/
def roundFin (f : Fmt) (rm : Rm) (sat : Bool) (w : Nat) (neg : Bool) (num den : Nat) (e : Int) : Nat × Flags :=
  let ex := log2Q num den + e
  let emin : Int := 1 - (f.bias : Int)
  if ex < emin - f.mb - 24 then
    -- far below the smallest subnormal: nothing is kept and the discarded part is below 2^-16 unit
    let n := if roundUp rm neg w 0 1 (2 ^ 24) then 1 else 0
    (withSign f neg n, flagUF ||| flagNX)
  else
    let u := max (ex - f.mb) (emin - f.mb)
    let k := e - u
    let nn := if 0 ≤ k then num * 2 ^ k.toNat else num
    let dd := if 0 ≤ k then den else den * 2 ^ (-k).toNat
    let n := nn / dd
    let r := nn % dd
    let n' := if roundUp rm neg w n r dd then n + 1 else n
    let be := u + f.mb + f.bias
    if be > 2 ^ f.eb then
      (withSign f neg (overflowCode f rm sat neg), flagOF ||| flagNX)
    else
      let code := (be - 1).toNat * 2 ^ f.mb + n'
      if f.maxFin < code then (withSign f neg (overflowCode f rm sat neg), flagOF ||| flagNX)
      else
        (withSign f neg code,
          (if r ≠ 0 then flagNX else 0) ||| (if r ≠ 0 ∧ code < 2 ^ f.mb then flagUF else 0))

/-- The written code of an infinite result or input (R75). -/
def roundInf (f : Fmt) (sat neg : Bool) : Nat × Flags :=
  match f.inf with
  | some i => if sat then (withSign f neg f.maxFin, flagOF ||| flagNX) else (withSign f neg i, 0)
  | none => match f.nan with
    | some n => if sat then (withSign f neg f.maxFin, flagOF ||| flagNX) else (n, flagOF ||| flagNX)
    | none => (withSign f neg f.maxFin, flagOF ||| flagNX)

/-- Rounds into E8M0 (R75, R76): only positive values have a code. -/
def roundE8M0 (rm : Rm) (w : Nat) : FVal → Nat × Flags
  | .nan => (0xFF, flagNV)
  | .inf true => (0xFF, flagNV)
  | .inf false => (0xFE, flagOF ||| flagNX)
  | .fin neg num den e =>
    if neg ∨ num = 0 then (0xFF, flagNV) else
    let l := log2Q num den
    let ex := l + e
    -- f = num/den/2^l - 1 = r/d
    let nn := if 0 ≤ l then num else num * 2 ^ (-l).toNat
    let dd := if 0 ≤ l then den * 2 ^ l.toNat else den
    let r := nn - dd
    let up := match rm with
      | .rz => false
      | .rd => false
      | .ru => decide (r ≠ 0)
      | .sr => decide (65536 ≤ r * 65536 / dd + w)
      | _ => decide (dd ≤ 2 * r)
    let ex' := if up then ex + 1 else ex
    let nx : Flags := if r ≠ 0 then flagNX else 0
    if ex' < -127 then (0, flagUF ||| flagNX)
    else if 127 < ex' then (0xFE, flagOF ||| flagNX)
    else ((ex' + 127).toNat, nx)

/-- Rnd of R111: rounds a value into a floating-point type with one rounding, and the flags that R71 to R76 name. -/
def rnd (ty : Ty) (rm : Rm) (sat : Bool) (w : Nat) (x : FVal) : Nat × Flags :=
  match ty with
  | .e8m0 => roundE8M0 rm w x
  | t => match fmtOf t with
    | none => (0, 0)
    | some f => match x with
      | .nan => match f.nan with
        | some n => (n, 0)
        | none => (0, flagNV)
      | .inf neg => roundInf f sat neg
      | .fin neg num den e => if num = 0 then (withSign f neg 0, 0) else roundFin f rm sat w neg num den e

/-- An exact value rounded to an integer in a mode, with inexactness (R76, R144). -/
def roundInt (rm : Rm) (neg : Bool) (num den : Nat) (e : Int) : Int × Bool :=
  if num = 0 then (0, false)
  else if log2Q num den + e < -20 then
    let n : Nat := if roundUp rm neg 0 0 1 (2 ^ 20) then 1 else 0
    (if neg then -(n : Int) else n, true)
  else
    let nn := if 0 ≤ e then num * 2 ^ e.toNat else num
    let dd := if 0 ≤ e then den else den * 2 ^ (-e).toNat
    let n := nn / dd
    let r := nn % dd
    let n' := if roundUp rm neg 0 n r dd then n + 1 else n
    (if neg then -(n' : Int) else n', decide (r ≠ 0))

/-- Least and greatest value of an integer type (R66). -/
def intRange (ty : Ty) : Int × Int :=
  let w := tyBits ty
  if tySigned ty then (-((2 ^ (w - 1) : Nat) : Int), ((2 ^ (w - 1) : Nat) : Int) - 1) else (0, ((2 ^ w : Nat) : Int) - 1)

/-- A conversion of a floating-point value to an integer type: rounded, then always clamped; a clamped result or a NaN raises
invalid (R76), and a clamped one, which differs from the exact value, inexact (R71). -/
def floatToInt (ty : Ty) (rm : Rm) (x : FVal) : Int × Flags :=
  let (lo, hi) := intRange ty
  match x with
  | .nan => (0, flagNV)
  | .inf neg => (if neg then lo else hi, flagNV ||| flagNX)
  | .fin neg num den e =>
    if num ≠ 0 ∧ 70 < log2Q num den + e then (if neg then lo else hi, flagNV ||| flagNX)
    else
      let (v, nx) := roundInt rm neg num den e
      if v < lo then (lo, flagNV ||| flagNX) else if hi < v then (hi, flagNV ||| flagNX) else (v, if nx then flagNX else 0)

/-- An integer written in type TY, wrapped or clamped, then extended to the register width as R66 states. -/
def intWrite (ty : Ty) (sat : Bool) (x : Int) : Nat :=
  let w := tyBits ty
  let (lo, hi) := intRange ty
  let c := if sat then (if x < lo then lo else if hi < x then hi else x) else x
  let n := wrapNat w c
  wrapNat (if ty64 ty then 64 else 32) (extInt ty n)

/-! ## Minimum, maximum, compare, class (R143, R144) -/

/-- FMIN and FMAX on codes of one format (R143): -0 below +0; one NaN gives the other operand; two give the canonical NaN. -/
def fminmax (f : Fmt) (mx : Bool) (a b : Nat) : Nat :=
  let x := decodeFmt f a
  let y := decodeFmt f b
  match x.isNan, y.isNan with
  | true, true => f.nan.getD 0
  | true, false => b
  | false, true => a
  | false, false =>
    let less := if x.isZero && y.isZero then x.sign && !y.sign else x.cmp y < 0
    if mx then (if less then b else a) else (if less then a else if x.isZero && y.isZero && x.sign == y.sign then a
      else if x.cmp y = 0 && !(x.isZero && y.isZero) then a else b)

/-- FCMP (R143). -/
def fcmpVal (c : Cmp) (x y : FVal) : Bool :=
  let un := x.isNan || y.isNan
  match c with
  | .un => un
  | .or => !un
  | .ne => un || x.cmp y != 0
  | .eq => !un && x.cmp y == 0
  | .lt => !un && x.cmp y < 0
  | .le => !un && x.cmp y ≤ 0
  | .gt => !un && 0 < x.cmp y
  | .ge => !un && 0 ≤ x.cmp y

/-- ICMP's relations on exact integers (R137). -/
def icmpVal (c : Cmp) (x y : Int) : Bool :=
  match c with
  | .eq => x == y | .ne => x != y | .lt => x < y | .le => x ≤ y | .gt => y < x | .ge => y ≤ x | _ => false

/-- FCLASS's mask (R144). -/
def fclass (w : Nat) : Nat :=
  match f32 w with
  | .nan => 0x100
  | .inf true => 0x001
  | .inf false => 0x080
  | .fin neg num _ _ =>
    if num = 0 then (if neg then 0x008 else 0x010)
    else if num < 2 ^ 23 then (if neg then 0x004 else 0x020)
    else (if neg then 0x002 else 0x040)

/-- FRND: an FP32 value rounded to an integral value in the mode (R144). -/
def frnd (rm : Rm) (w : Nat) : Nat × Flags :=
  match f32 w with
  | .nan => (0x7FC00000, 0)
  | .inf _ => (w, 0)
  | .fin neg num den e =>
    let (v, nx) := roundInt rm neg num den e
    let r := rnd .f32 .rne false 0 (if v = 0 then .zero neg else .fin neg v.natAbs 1 0)
    (r.1, if nx then flagNX else 0)

/-! ## Roots and reciprocals (R78) -/

/-- Integer square root by bits: the largest r whose square is at most n, from bit i downward. -/
def isqrtFrom (n : Nat) : Nat → Nat → Nat
  | 0, r => r
  | i + 1, r => let t := r + 2 ^ i; isqrtFrom n i (if t * t ≤ n then t else r)

/-- Integer square root. -/
def isqrt (n : Nat) : Nat := isqrtFrom n (Nat.log2 n / 2 + 1) 0

/-- A value strictly between r and r + 1 units of 2^e where `exact` is false, and r units where it is true. -/
def between (r : Nat) (exact : Bool) (e : Int) : FVal := .fin false (2 * r + b2n (!exact)) 1 (e - 1)

/-- Square root of m × 2^e to 60 fraction bits, for m below 2^24: enough for one correct rounding to FP32. -/
def sqrtVal (m : Nat) (e : Int) : FVal :=
  let odd := e % 2 ≠ 0
  let n := (if odd then 2 * m else m) * 2 ^ 120
  let e2 := (if odd then e - 1 else e) / 2
  let r := isqrt n
  between r (r * r = n) (e2 - 60)

/-- Reciprocal square root of m × 2^e, likewise. -/
def rsqrtVal (m : Nat) (e : Int) : FVal :=
  let odd := e % 2 ≠ 0
  let m2 := if odd then 2 * m else m
  let e2 := (if odd then e - 1 else e) / 2
  let r := isqrt (2 ^ 160 / m2)
  between r (r * r * m2 = 2 ^ 160) (-e2 - 80)

/-- FRCP (R78): 1/x. -/
def frcpVal (x : FVal) : FVal × Flags := FVal.one.div x

/-- FSQRT (R78). -/
def fsqrtVal : FVal → FVal × Flags
  | .nan => (.nan, 0)
  | .inf neg => if neg then (.nan, flagNV) else (.inf false, 0)
  | .fin neg num _ e => if num = 0 then (.zero neg, 0) else if neg then (.nan, flagNV) else (sqrtVal num e, 0)

/-- FRSQ (R78): ±0 gives ±∞ with divide-by-zero. -/
def frsqVal : FVal → FVal × Flags
  | .nan => (.nan, 0)
  | .inf neg => if neg then (.nan, flagNV) else (.zero false, 0)
  | .fin neg num _ e => if num = 0 then (.inf neg, flagDZ) else if neg then (.nan, flagNV) else (rsqrtVal num e, 0)

/-! ## Functions of bounded accuracy (R78) -/

/-- π/2 in units of 2^-400. -/
def halfPi400 : Nat := 0x3243f6a8885a308d313198a2e03707344a4093822299f31d0082efa98ec4e6c89452821e638d01377be5466cf34e90c6cc0ac / 2

/-- ln 2 in units of 2^-256. -/
def ln2_256 : Nat := 0xb17217f7d1cf79abc9e3b39803f2f6af40f343267298b62d8a0d175b8baafa2b

/-- Fixed point: units of 2^-256. -/
def fxOne : Nat := 2 ^ 256

/-- Σ y^k/k! from term k on, y and t in fixed point; t is y^k/k!. -/
def expSeries (y : Nat) : Nat → Nat → Nat → Nat
  | 0, _, _ => 0
  | fuel + 1, k, t => t + expSeries y fuel (k + 1) (t * y / fxOne / (k + 1))

/-- exp of a fixed-point y in [0, 1). -/
def expFx (y : Nat) : Nat := expSeries y 60 0 fxOne

/-- Alternating series of sine (k = 1) or cosine (k = 0): t - t y²/((k+1)(k+2)) + ... -/
def trigSeries (y2 : Nat) : Nat → Nat → Int → Int
  | 0, _, _ => 0
  | fuel + 1, k, t => t + trigSeries y2 fuel (k + 2) (-(t * (y2 : Int) / (fxOne : Int) / (((k + 1) * (k + 2) : Nat) : Int)))

/-- Sine of a fixed-point y in [0, π/2]. -/
def sinFx (y : Nat) : Int := trigSeries (y * y / fxOne) 50 1 (y : Int)

/-- Cosine of a fixed-point y in [0, π/2]. -/
def cosFx (y : Nat) : Int := trigSeries (y * y / fxOne) 50 0 (fxOne : Int)

/-- A fixed-point number as an exact value. -/
def fxVal (x : Int) : FVal := .fin (x < 0) x.natAbs 1 (-256)

/-- num × 2^e in fixed point, rounded down. -/
def toFx (num : Nat) (e : Int) : Nat := if 0 ≤ e + 256 then num * 2 ^ (e + 256).toNat else num / 2 ^ (-(e + 256)).toNat

/-- 2^x for a finite x of magnitude below 2^12. -/
def exp2Near (neg : Bool) (num : Nat) (e : Int) : FVal :=
  let x : Int := if neg then -(toFx num e : Int) else toFx num e
  let n := x / (fxOne : Int)
  let fr := (x % (fxOne : Int)).toNat
  .fin false (expFx (fr * ln2_256 / fxOne)) 1 (n - 256)

/-- Bits of log2 of a fixed-point m in [1, 2), most significant first, by repeated squaring. -/
def log2Bits : Nat → Nat → Nat → Nat
  | 0, _, acc => acc
  | fuel + 1, m, acc =>
    let q := m * m / fxOne
    if 2 * fxOne ≤ q then log2Bits fuel (q / 2) (2 * acc + 1) else log2Bits fuel q (2 * acc)

/-- log2 of m × 2^e (m not 0), to 100 fraction bits. -/
def log2Near (m : Nat) (e : Int) : FVal :=
  let l := Nat.log2 m
  let fr := log2Bits 100 (m * 2 ^ (256 - l)) 0
  let ex := e + l
  let v : Int := ex * ((2 ^ 100 : Nat) : Int) + fr
  .fin (v < 0) v.natAbs 1 (-100)

/-- Quadrant and remainder of |x| by π/2, x = num × 2^e (R78: full-range argument reduction). -/
def trigReduce (num : Nat) (e : Int) : Nat × Nat :=
  let x := toFx num e * 2 ^ 144
  (x / halfPi400 % 4, x % halfPi400 / 2 ^ 144)

/-- Sine of num × 2^e. -/
def sinNear (neg : Bool) (num : Nat) (e : Int) : FVal :=
  let (q, r) := trigReduce num e
  let s := match q with
    | 0 => sinFx r
    | 1 => cosFx r
    | 2 => -(sinFx r)
    | _ => -(cosFx r)
  fxVal (if neg then -s else s)

/-- Cosine of num × 2^e. -/
def cosNear (num : Nat) (e : Int) : FVal :=
  let (q, r) := trigReduce num e
  fxVal (match q with
    | 0 => cosFx r
    | 1 => -(sinFx r)
    | 2 => -(cosFx r)
    | _ => sinFx r)

/-- tanh of num × 2^e below 9.5, as (E - 1)/(E + 1) with E = exp(2x). -/
def tanhNear (neg : Bool) (num : Nat) (e : Int) : FVal :=
  let y := toFx num (e + 1)
  let n := y / ln2_256
  let r := expFx (y % ln2_256)
  let ee := r * 2 ^ n
  .fin neg (ee - fxOne) (ee + fxOne) 0

/-- The exponent of the unit in the last place of an FP32 code. -/
def ulpExp (code : Nat) : Int := (max 1 (code / 2 ^ 23 % 256) : Nat) - 150

/-- Two values are at most d apart. -/
def FVal.within (x y d : FVal) : Bool := (x.add false y.neg).1.abs.cmp d ≤ 0

/-- A code is a result of bounded accuracy (R78): finite, and within b units in the last place of the correctly rounded code `r`, or 2^-24
where `absolute`, of the exact value. -/
def nearOk (b : Nat) (absolute : Bool) (x : FVal) (r c : Nat) : Bool :=
  c / 2 ^ 23 % 256 < 255 &&
    ((f32 c).within x (.fin false b 1 (ulpExp r)) || (absolute && (f32 c).within x (.fin false 1 1 (-24))))

/-- The flags of an inexact FP32 code (R71, R78): underflow is judged on the code delivered. -/
def nearFlags (c : Nat) : Flags :=
  flagNX ||| (if c % 2 ^ 31 < 2 ^ 23 then flagUF else 0) ||| (if c % 2 ^ 31 = 0x7F800000 then flagOF else 0)

/-- A result of bounded accuracy for an exact value (R78): the code `err` away from the correctly rounded one where that keeps the
bound, else the correctly rounded code. -/
def nearVal (b : Nat) (absolute sat : Bool) (err : Int) (x : FVal) : Nat × Flags :=
  let r := rnd .f32 .rne sat 0 x
  let c := wrapNat 32 ((r.1 : Int) + err)
  if nearOk b absolute x r.1 c then (c, nearFlags c) else (r.1, r.2 ||| nearFlags r.1)

/-- FEX2 on an FP32 code (R78). -/
def fex2 (sat : Bool) (w : Nat) : Nat × Flags :=
  match f32 w with
  | .nan => (0x7FC00000, 0)
  | .inf true => (0, 0)
  | .inf false => rnd .f32 .rne sat 0 (.inf false)
  | .fin neg num den e =>
    if num = 0 then (0x3F800000, 0)
    else if 7 ≤ log2Q num den + e ∧ !neg then rnd .f32 .rne sat 0 (.fin false 1 1 128)
    else if 8 ≤ log2Q num den + e then rnd .f32 .rne sat 0 (.fin false 1 1 (-400))
    else
      let (v, nx) := roundInt .rz neg num den e
      if !nx then rnd .f32 .rne sat 0 (.fin false 1 1 v)
      else
        nearVal 1 false sat (Config.fex2Err (BitVec.ofNat 32 w)) (exp2Near neg num e)

/-- FLG2 on an FP32 code (R78). -/
def flg2 (w : Nat) : Nat × Flags :=
  match f32 w with
  | .nan => (0x7FC00000, 0)
  | .inf true => (0x7FC00000, flagNV)
  | .inf false => (0x7F800000, 0)
  | .fin neg num _ e =>
    if num = 0 then (0xFF800000, flagDZ)
    else if neg then (0x7FC00000, flagNV)
    else if num = 2 ^ Nat.log2 num then rnd .f32 .rne false 0 (.ofInt (e + Nat.log2 num))
    else nearVal 1 false false (Config.flg2Err (BitVec.ofNat 32 w)) (log2Near num e)

/-- FSIN on an FP32 code (R78). -/
def fsin (w : Nat) : Nat × Flags :=
  match f32 w with
  | .nan => (0x7FC00000, 0)
  | .inf _ => (0x7FC00000, flagNV)
  | .fin neg num _ e =>
    if num = 0 then (w, 0)
    else nearVal 2 true false (Config.fsinErr (BitVec.ofNat 32 w)) (sinNear neg num e)

/-- FCOS on an FP32 code (R78). -/
def fcos (w : Nat) : Nat × Flags :=
  match f32 w with
  | .nan => (0x7FC00000, 0)
  | .inf _ => (0x7FC00000, flagNV)
  | .fin _ num _ e =>
    if num = 0 then (0x3F800000, 0)
    else nearVal 2 true false (Config.fcosErr (BitVec.ofNat 32 w)) (cosNear num e)

/-- FTANH on an FP32 code (R78): ±1 from 9.5 on. -/
def ftanh (w : Nat) : Nat × Flags :=
  match f32 w with
  | .nan => (0x7FC00000, 0)
  | .inf neg => (if neg then 0xBF800000 else 0x3F800000, 0)
  | .fin neg num den e =>
    if num = 0 then (w, 0)
    else if 0 ≤ (FVal.fin false num den e).cmp (.fin false 19 2 0) then (if neg then 0xBF800000 else 0x3F800000, 0)
    else nearVal 2 false false (Config.ftanhErr (BitVec.ofNat 32 w)) (tanhNear neg num e)

/-- GeluTanh of ACCST on an FP32 code (R280): ±0 stays, NaN stays; within 4 ulp or 2^-24. -/
def gelu (w : Nat) : Nat :=
  match f32 w with
  | .nan => 0x7FC00000
  | .inf neg => if neg then 0 else w
  | .fin neg num den e =>
    if num = 0 then w
    else if 0 ≤ (FVal.fin false num den e).cmp (.fin false 16 1 0) then (if neg then 0 else w)
    else
      let y : FVal := .fin neg num den e
      let y3 := (y.mul ((y.mul y).1)).1
      let inner := (y.add false ((y3.mul (.fin false 44715 1000000 0)).1)).1
      let arg := (inner.mul (.fin false 79788456 100000000 0)).1
      let th := match arg with
        | .fin n a d ex => if 0 ≤ (FVal.fin false a d ex).cmp (.fin false 40 1 0) then (if n then FVal.neg .one else .one)
          else tanhNear n (toFx a ex / d) (-256)
        | x => x
      let v := (((FVal.one.add false th).1.mul y).1.mul (.fin false 1 2 0)).1
      (nearVal 4 true false (Config.geluErr (BitVec.ofNat 32 w)) v).1

/-! ## SLUB4 (R68, R69) -/

/-- SlubVal of R68. -/
def slubVal (c : Nat) : Int :=
  let e : Nat := c % 8 + 3
  let m : Int := Int.ofNat (2 ^ e)
  if bit c 3 then -m else m

/-- Slub4Pair of R68: the integers of nibbles 2k and 2k + 1. -/
def slub4Pair (a b : Nat) : Int × Int :=
  if a % 16 = 8 ∧ b % 16 = 8 then (0, 0)
  else if a % 16 = 8 then (slubVal b, 0)
  else if b % 16 = 8 then (0, slubVal a)
  else (sextInt 4 a, sextInt 4 b)

/-- The set V of R69 in ascending order. -/
def slubSet : List Int :=
  [-1024, -512, -256, -128, -64, -32, -16, -7, -6, -5, -4, -3, -2, -1, 0, 1, 2, 3, 4, 5, 6, 7, 8, 16, 32, 64, 128, 256, 512, 1024]

/-- An integer of V is a slub. -/
def isSlub (x : Int) : Bool := 7 < x.natAbs

/-- Rounds a finite t of magnitude at most 1,024 to V (R69): the two neighbours are compared exactly. -/
def slubRound (rm : Rm) (t : FVal) : Int :=
  let lo := (slubSet.filter fun v => (FVal.ofInt v).cmp t ≤ 0).getLast?.getD (-1024)
  let hi := (slubSet.find? fun v => 0 ≤ (FVal.ofInt v).cmp t).getD 1024
  if lo = hi then lo else
  match rm with
  | .ru => hi
  | .rd => lo
  | .rz => if t.sign then hi else lo
  | _ =>
    -- nearest: compare 2t with lo + hi
    let c := ((t.mul (.ofInt 2)).1).cmp (.ofInt (lo + hi))
    if c < 0 then lo else if 0 < c then hi
    else if isSlub lo || isSlub hi then (if hi.natAbs < lo.natAbs then lo else hi)
    else match rm with
      | .rna => if hi.natAbs < lo.natAbs then lo else hi
      | _ => if lo % 2 = 0 then lo else hi

/-- One scaled input on the way into SLUB4 (R69 steps 1 and 2, R75, R76): its rounded value and flags. A magnitude above 1,024 raises
overflow and inexact, also where nearest rounding would give 1,024 (DEDUCED, log entry 120). -/
def slubIn (rm : Rm) : FVal → Int × Flags
  | .nan => (0, flagNV)
  | .inf neg => (if neg then -1024 else 1024, flagOF ||| flagNX)
  | .fin neg num den e =>
    let t : FVal := .fin neg num den e
    if num ≠ 0 ∧ 0 < (FVal.fin false num den e).cmp (.ofInt 1024) then (if neg then -1024 else 1024, flagOF ||| flagNX)
    else
      let v := slubRound rm t
      (v, if (FVal.ofInt v).cmp t = 0 then 0 else flagNX)

/-- The nibble code of a slub value: its sign and exponent field (R68). -/
def slubCode (v : Int) : Nat := (if v < 0 then 8 else 0) + (Nat.log2 v.natAbs - 3)

/-- One pair into nibbles (R69 step 3): kept slub marked in its own slot, the neighbour lost; losing a neighbour is inexact. -/
def slub4EncodePair (rm : Rm) (t0 t1 : FVal) : Nat × Nat × Flags :=
  let (a, fa) := slubIn rm t0
  let (b, fb) := slubIn rm t1
  let fl := fa ||| fb
  match isSlub a, isSlub b with
  | false, false => (wrapNat 4 a, wrapNat 4 b, fl)
  | true, false => (8, slubCode a, fl ||| (if t1.isZero || t1.isNan then 0 else flagNX))
  | false, true => (slubCode b, 8, fl ||| (if t0.isZero || t0.isNan then 0 else flagNX))
  | true, true => if a.natAbs < b.natAbs then (slubCode b, 8, fl ||| flagNX) else (8, slubCode a, fl ||| flagNX)

/-! ## Random words (R73) -/

/-- SrWord of R73. -/
def srWord (seed ctr skein tid k : Nat) : Nat :=
  let h0 := ((ctr % 2 ^ 32) <<< 32) ||| ((skein % 2 ^ 18) <<< 14) ||| (tid <<< 3) ||| k
  let h1 := (h0 + seed * 0x9E3779B97F4A7C15) % 2 ^ 64
  let h2 := ((h1 ^^^ (h1 >>> 30)) * 0xBF58476D1CE4E5B9) % 2 ^ 64
  let h3 := ((h2 ^^^ (h2 >>> 27)) * 0x94D049BB133111EB) % 2 ^ 64
  let h4 := h3 ^^^ (h3 >>> 31)
  h4 / 2 ^ 48

/-! ## Elements and inline constants (R23, R65) -/

/-- Elements of a type in one register (R65). -/
def perReg (ty : Ty) : Nat := 32 / tyBits ty

/-- Element i of a packed register. -/
def elem (ty : Ty) (w : Nat) (i : Nat) : Nat := (w >>> (tyBits ty * i)) % 2 ^ tyBits ty

/-- The FP32 patterns of the inline constants (R23). -/
def inlineFp : Nat → Nat
  | 0 => 0x00000000 | 1 => 0x3F000000 | 2 => 0x3F800000 | 3 => 0x40000000 | 4 => 0x40800000 | 5 => 0xBF000000
  | 6 => 0xBF800000 | 7 => 0xC0000000 | 8 => 0xC0800000 | 9 => 0x3F317218 | 10 => 0x3FB8AA3B | 11 => 0x40490FDB
  | _ => 0

/-- An inline constant as an instruction of element type `ty` reads it: FP32 pattern, or the rounded value in every element of
a packed floating-point type (R23). -/
def inlineFor (ty : Ty) (i : Nat) : Nat :=
  let p := inlineFp i
  let rep (b : Nat) (n : Nat) : Nat := (List.range n).foldl (fun r k => r + b <<< (32 / n * k)) 0
  match ty with
  | .bf16 => rep (rnd .bf16 .rne false 0 (f32 p)).1 2
  | .f16 => rep (rnd .f16 .rne false 0 (f32 p)).1 2
  | .e4m3 => rep (rnd .e4m3 .rne false 0 (f32 p)).1 4
  | .e5m2 => rep (rnd .e5m2 .rne false 0 (f32 p)).1 4
  | .e8m0 => rep (rnd .e8m0 .rne false 0 (f32 p)).1 4
  | .e2m1 => rep (rnd .e2m1 .rne false 0 (f32 p)).1 8
  | _ => p

/-- imm16 as R42 widens it for a type; 64-bit types give 64 bits. -/
def widenImm (ty : Ty) (i : Nat) : Nat :=
  let x := i % 2 ^ 16
  match ty with
  | .s8 => wrapNat 32 (sextInt 16 x) | .s16 => wrapNat 32 (sextInt 16 x) | .s32 => wrapNat 32 (sextInt 16 x)
  | .s64 => wrapNat 64 (sextInt 16 x) | .n64 => wrapNat 64 (sextInt 16 x)
  | .f32 => x <<< 16
  | .bf16 => x + x <<< 16 | .f16 => x + x <<< 16
  | _ => x

end Sys2Proof.Machine
end

