-- ==== Sys2Proof/Machine/Legal.lean ====
section
/-! DEFINITION. Which encodings are legal (R25 to R28, R35, R36, R38, R40 to R42, R60 to R62), and the form of every
instruction: what each operand position accepts, how many registers it names, and the causes its M field raises. A form also
says which registers the instruction reads, in the checking order of R32, and which it writes. -/

namespace Sys2Proof.Machine

/-! ## Operand positions -/

/-- How an instruction uses an operand position; `own` is read with a state check of the instruction's own (BCST, R153). -/
inductive Use where
  | r | w | rw | own
  deriving DecidableEq, Repr

/-- The kinds of operand a position can accept (R22). `sp` is a special other than `zero`. -/
inductive Kind where
  | v | s | int | fp | zero | sp | imm
  deriving DecidableEq, Repr

/-- An operand position: its use, the kinds it accepts, whether it is a 64-bit pair (R26), the number of consecutive elements,
and whether that number is for each tile row the lane owns (R257). -/
structure Slot where
  use   : Use
  kinds : List Kind
  pair  : Bool := false
  n     : Nat := 1
  rows  : Bool := false
  deriving DecidableEq, Repr

/-- A further register range that is read (R32 step 5), without a mode bit (DESIGN CHOICE, log entry 139). -/
structure More where
  op : Operand
  n  : Nat
  deriving DecidableEq, Repr

/-- The form of one instruction word. -/
structure Form where
  d      : Option Slot := none
  a      : Option Slot := none
  b      : Option Slot := none
  more   : List More := []
  causes : List Nat := []
  dFirst : Bool := false
  guard  : Bool := true
  deriving DecidableEq, Repr

/-- The kind of an operand; a reserved code has none. -/
def kindOf : Operand → Option Kind
  | .v _ => some .v
  | .s _ => some .s
  | .int _ => some .int
  | .fp _ => some .fp
  | .special .zero => some .zero
  | .special _ => some .sp
  | .imm => some .imm
  | .reserved _ => none

/-- The operand names a register. -/
def isReg : Operand → Bool
  | .v _ => true
  | .s _ => true
  | _ => false

/-- The operand is read per lane: a v register, `lane` or `tid` (R24, R27). -/
def perLane : Operand → Bool
  | .v _ => true
  | .special .lane => true
  | .special .tid => true
  | _ => false

/-- Registers a position covers, for ply width W: J = 64 / W rows a lane (R257). -/
def slotRegs (W : Nat) (sl : Slot) : Nat :=
  sl.n * (if sl.pair then 2 else 1) * (if sl.rows then 64 / W else 1)

/-- The position reads its operand. -/
def slotReads (sl : Slot) : Bool :=
  match sl.use with
  | .r => true
  | .rw => true
  | _ => false

/-- The position writes its operand. -/
def slotWrites (sl : Slot) : Bool :=
  match sl.use with
  | .w => true
  | .rw => true
  | _ => false

/-- Causes of a register range: past the allocation 0x06, past s127 0x05 (R25, R62). -/
def rangeCauses (alloc : Nat) (o : Operand) (n : Nat) : List Nat :=
  match o with
  | .v i => if alloc < i + n then [6] else []
  | .s i => if 128 < i + n then [5] else []
  | _ => []

/-- Causes of the operand in one position (R25, R26, R35, R62). A position a form does not use must hold 0; a reserved code or IMM there
is 0x05 all the same (R25, R42, R266), and a v register past the allocation 0x06. -/
def slotCauses (alloc W : Nat) (sl : Option Slot) (o : Operand) (mode : Bool) : List Nat :=
  match sl with
  | none =>
    (if o ≠ .v 0 ∨ mode then [8] else []) ++ (if o ≠ .v 0 then rangeCauses alloc o 1 else []) ++
    (match kindOf o with
     | none => [5]
     | some .imm => [5]
     | _ => [])
  | some sl =>
    (match kindOf o with
     | none => [5]
     | some k =>
       if !sl.kinds.contains k then [5]
       else match o with
         | .v i => (if sl.pair && i % 2 = 1 then [5] else []) ++ rangeCauses alloc o (slotRegs W sl)
         | .s i => (if sl.pair && i % 2 = 1 then [5] else []) ++ rangeCauses alloc o (slotRegs W sl)
         | .special x => if sl.pair && k = .sp && x ≠ .clklo then [5] else []
         | _ => [])
    ++ (if mode && !((slotReads sl || sl.use == .own) && isReg o) then [8] else [])

/-- Causes of D that no form accepts: a reserved code, IMM, an inline constant or a special other than `zero` (R25). -/
def destCauses (o : Operand) : List Nat :=
  match kindOf o with
  | some .v => []
  | some .s => []
  | some .zero => []
  | _ => [5]

/-- Causes of the guard fields (R36, R62), and of those of a form that takes no guard (R115, R128). -/
def guardCauses (used : Bool) (g : Guard) : List Nat :=
  (if !g.en && (g.inv || g.reg ≠ 0) then [4] else []) ++
  (if !used && (g.en || g.inv || g.reg ≠ 0) then [8] else [])

/-- Every cause that a full form's encoding decides, for an allocation and a ply width (R60, R62). -/
def formCauses (alloc W : Nat) (fm : Form) (f : Full) : List Nat :=
  guardCauses fm.guard f.g ++
  (if f.h.toNat % 4 ≠ 0 then [8] else []) ++
  destCauses f.d ++ slotCauses alloc W fm.d f.d f.wd ++ slotCauses alloc W fm.a f.a f.wa ++ slotCauses alloc W fm.b f.b f.wb ++
  (if f.a = .imm ∧ f.b = .imm then [5] else []) ++
  (fm.more.flatMap fun x => (if isReg x.op then [] else [5]) ++ rangeCauses alloc x.op x.n) ++
  fm.causes

/-! ## Registers read and written -/

/-- A register range to check (R32), with its mode bit. -/
structure RegRead where
  op   : Operand
  n    : Nat
  mode : Bool
  deriving DecidableEq, Repr

/-- The register i places after the one that an operand names. -/
def regAfter (o : Operand) (i : Nat) : Operand := match o with
  | .v n => .v (n + i)
  | .s n => .s (n + i)
  | x => x

/-- The check of the register or pair that a position names. -/
def slotRead (sl : Option Slot) (o : Operand) (mode : Bool) : List RegRead :=
  match sl with
  | none => []
  | some sl => if slotReads sl && isReg o then [⟨o, if sl.pair then 2 else 1, mode⟩] else []

/-- The check of the further consecutive registers of a position (R32 step 5), under its mode bit (DESIGN CHOICE, log entry 139). -/
def slotRest (W : Nat) (sl : Option Slot) (o : Operand) (mode : Bool) : List RegRead :=
  match sl with
  | none => []
  | some sl =>
    let k := if sl.pair then 2 else 1
    if slotReads sl && isReg o && k < slotRegs W sl then [⟨regAfter o k, slotRegs W sl - k, mode⟩] else []

/-- The registers checked after the guard, in the order of R32: A, B and D, then the further registers; engine forms check D first
(R237, R266, R373, R393). -/
def formReads (W : Nat) (fm : Form) (f : Full) : List RegRead :=
  let d := slotRead fm.d f.d f.wd
  let ab := slotRead fm.a f.a f.wa ++ slotRead fm.b f.b f.wb
  (if fm.dFirst then d ++ ab else ab ++ d) ++
  slotRest W fm.a f.a f.wa ++ slotRest W fm.b f.b f.wb ++ slotRest W fm.d f.d f.wd ++ fm.more.map fun x => ⟨x.op, x.n, false⟩

/-- The registers the instruction writes, for the wait on lent registers (R86, R276). -/
def formWrites (W : Nat) (fm : Form) (f : Full) : List (Operand × Nat) :=
  match fm.d with
  | none => []
  | some sl => if slotWrites sl && isReg f.d then [(f.d, slotRegs W sl)] else []

/-! ## Fields of M (R41) -/

/-- Bits [hi:lo] of M. -/
def mf (f : Full) (hi lo : Nat) : Nat := fld f.m.toNat hi lo
/-- Bit i of M. -/
def mb (f : Full) (i : Nat) : Bool := f.m.getLsbD i
/-- TY. -/
def mTy (f : Full) : Option Ty := tyOf (mf f 31 27)
/-- TY, where a legal encoding has one. -/
def mTyD (f : Full) : Ty := (mTy f).getD .s32
/-- TY2. -/
def mTy2 (f : Full) : Option Ty := tyOf (mf f 22 18)
/-- RM. -/
def mRm (f : Full) : Rm := (rmOf (mf f 26 24)).getD .rne
/-- CMP. -/
def mCmp (f : Full) : Cmp := (cmpOf (mf f 26 24)).getD .eq
/-- SAT of the arithmetic classes. -/
def mSat (f : Full) : Bool := mb f 23
/-- EX of the arithmetic classes. -/
def mEx (f : Full) : Bool := mb f 17
/-- AUX16. -/
def mAux (f : Full) : Nat := mf f 15 0
/-- ORD of the load-store class. -/
def mOrd (f : Full) : Ord := (ordOf (mf f 26 24)).getD .weak
/-- SCOPE of the load-store class. -/
def mScope (f : Full) : Scope := (scopeOf (mf f 23 21)).getD .core
/-- RP of the load-store class. -/
def mRp (f : Full) : Bool := mb f 20
/-- Consecutive registers: 1, 2 or 4. -/
def mCount (f : Full) : Nat := match mf f 19 18 with
  | 0 => 1 | 1 => 2 | 2 => 4 | _ => 1
/-- X12 of the engine layout. -/
def mX (f : Full) : Nat := mf f 23 12
/-- Y12 of the engine layout. -/
def mY (f : Full) : Nat := mf f 11 0

/-- 7 unless a condition holds. -/
def need7 (c : Bool) : List Nat := if c then [] else [7]
/-- 8 unless a condition holds. -/
def need8 (c : Bool) : List Nat := if c then [] else [8]
/-- M has no bit outside a mask (R35). -/
def onlyBits (f : Full) (mask : Nat) : List Nat := need8 (f.m.toNat &&& (0xFFFFFFFF - mask) == 0)

/-! ## Position patterns -/

/-- A 32-bit source of the arithmetic classes. -/
def src : Slot := { use := .r, kinds := [.v, .s, .int, .fp, .zero, .sp, .imm] }
/-- A 64-bit source (R26). -/
def src64 : Slot := { use := .r, kinds := [.v, .s, .int, .sp, .imm], pair := true }
/-- A source where AUX16 is used, so that IMM is not accepted (R42). -/
def srcN : Slot := { src with kinds := [.v, .s, .int, .fp, .zero, .sp] }
/-- The same for 64 bits. -/
def srcN64 : Slot := { src64 with kinds := [.v, .s, .int, .sp] }
/-- A destination (R25). -/
def dst : Slot := { use := .w, kinds := [.v, .s, .zero] }
/-- A 64-bit destination. -/
def dst64 : Slot := { dst with pair := true }
/-- A destination that is also read. -/
def dstR : Slot := { dst with use := .rw }
/-- A 64-bit destination that is also read. -/
def dstR64 : Slot := { dst64 with use := .rw }
/-- A v register read. -/
def vSrc : Slot := { use := .r, kinds := [.v] }
/-- A v register written, or `zero`, which discards (R25). -/
def vDst : Slot := { use := .w, kinds := [.v, .zero] }
/-- n consecutive v registers read for each owned row (R257). -/
def vRows (n : Nat) : Slot := { use := .r, kinds := [.v], n := n, rows := true }
/-- n consecutive v registers written for each owned row, or `zero`, which discards (R25). -/
def vRowsW (n : Nat) : Slot := { use := .w, kinds := [.v, .zero], n := n, rows := true }
/-- n consecutive s registers read. -/
def sBlock (n : Nat) : Slot := { use := .r, kinds := [.s], n := n }
/-- n consecutive s registers written. -/
def sBlockW (n : Nat) : Slot := { use := .w, kinds := [.s], n := n }
/-- An s pair read. -/
def sPair : Slot := { use := .r, kinds := [.s], pair := true }
/-- An s pair written. -/
def sPairW : Slot := { use := .w, kinds := [.s], pair := true }
/-- An s or v pair read: an address pair (R178). -/
def addrPair : Slot := { use := .r, kinds := [.v, .s], pair := true }
/-- An s register or `zero`, written. -/
def sOrZeroW : Slot := { use := .w, kinds := [.s, .zero] }
/-- An s register, an inline integer or `zero`, read. -/
def sIntZero : Slot := { use := .r, kinds := [.s, .int, .zero] }

/-- A slot, widened to a pair for a 64-bit type (R26). -/
def widen (w : Bool) (narrow wide : Slot) : Slot := if w then wide else narrow

/-- TY is a 64-bit type. -/
def ty64' (f : Full) : Bool :=
  match mTy f with
  | some .s64 => true
  | some .n64 => true
  | _ => false

/-! ## Arithmetic classes, MAJ 0x20 to 0x8F -/

/-- The types of 8 to 32 bits of R135. -/
def tys832 : List Ty := [.s8, .n8, .s16, .n16, .s32, .n32]
/-- `.s32` and `.n32`. -/
def tys32 : List Ty := [.s32, .n32]
/-- `.s64` and `.n64`. -/
def tys64 : List Ty := [.s64, .n64]
/-- The types of SEL, MOV and the lane exchanges. -/
def tysMove : List Ty := [.s32, .n32, .f32, .s64, .n64]

/-- What an arithmetic form accepts in M besides its operands (R113). -/
structure AluM where
  tys   : List Ty
  modes : List Nat := [0]
  sat   : Bool := false
  ex    : Bool := false
  ty2   : Option (List Ty) := none
  aux   : Bool := false
  deriving DecidableEq, Repr

/-- Causes of M in the arithmetic classes (R40 to R42, R113). -/
def aluCauses (x : AluM) (f : Full) : List Nat :=
  need7 (match mTy f with
    | some t => x.tys.contains t
    | none => false) ++
  need7 (x.modes.contains (mf f 26 24)) ++
  need7 (x.sat || !mSat f) ++ need7 (x.ex || !mEx f) ++ need8 (!mb f 16) ++
  (match x.ty2 with
   | none => need8 (mf f 22 18 = 0) ++ need7 (mTy2 f).isSome
   | some ts => need7 (match mTy2 f with
     | some t => ts.contains t
     | none => false)) ++
  need8 (x.aux || mAux f = 0 || f.a = .imm || f.b = .imm)

/-- An arithmetic instruction whose D names an s register reads nothing per lane (R27, R112). -/
def scalarCauses (f : Full) (srcs : List Operand) : List Nat :=
  match f.d with
  | .s _ => if srcs.any perLane then [5] else []
  | _ => []

/-- Form `D, A, B` (R135, R142). -/
def form3 (x : AluM) (d a b : Slot) (f : Full) : Form :=
  { d := some d, a := some a, b := some b, causes := aluCauses x f ++ scalarCauses f [f.a, f.b] }

/-- Form `D, A`. -/
def form2 (x : AluM) (d a : Slot) (f : Full) : Form :=
  { d := some d, a := some a, causes := aluCauses x f ++ scalarCauses f [f.a] }

/-- The immediate of this instruction is the whole of M (R42). -/
def wholeImm (f : Full) : Bool := f.a = .imm || f.b = .imm

/-- IADD, ISUB, IMUL (R135). -/
def formIntArith (f : Full) : Form := form3 { tys := tys832, sat := true } dst src src f
/-- IMAD (R135). -/
def formImad (f : Full) : Form := form3 { tys := tys832, sat := true } dstR src src f
/-- IADDW, ISUBW (R135). -/
def formIntWide (f : Full) : Form := form3 { tys := tys64, sat := true } dst64 src64 src64 f
/-- IMULH (R135). -/
def formImulh (f : Full) : Form := form3 { tys := tys32 } dst src src f
/-- IMADW (R135). -/
def formImadw (f : Full) : Form := form3 { tys := tys32, sat := true } dstR64 src src f
/-- IMIN, IMAX (R135). -/
def formIminmax (f : Full) : Form := form3 { tys := tys832 } dst src src f
/-- IABS (R135). -/
def formIabs (f : Full) : Form := form2 { tys := [.s8, .s16, .s32], sat := true } dst src f
/-- ICMP (R135): `.un` and `.or` are refused. -/
def formIcmp (f : Full) : Form := form3 { tys := tys832, modes := [0, 1, 2, 3, 4, 5] } dst src src f
/-- ICMPW (R135). -/
def formIcmpw (f : Full) : Form := form3 { tys := tys64, modes := [0, 1, 2, 3, 4, 5] } dst src64 src64 f
/-- The operand C of SEL (R137). -/
def selC (f : Full) : Operand := operandOf (mf f 9 0)
/-- SEL (R135, R137). -/
def formSel (f : Full) : Form :=
  let w := ty64' f
  { d := some (widen w dst dst64), a := some (widen w srcN srcN64), b := some (widen w srcN srcN64), more := [⟨selC f, 1⟩],
    causes := aluCauses { tys := tysMove, aux := true } f ++ need8 (mf f 15 10 = 0)
      ++ scalarCauses f [f.a, f.b, selC f] }
/-- AND, OR, XOR, ANDN: with IMM, M is the whole immediate (R42, R135). -/
def formLogic (f : Full) : Form :=
  if wholeImm f then { d := some dst, a := some src, b := some src, causes := scalarCauses f [f.a, f.b] }
  else form3 { tys := tys32 } dst src src f
/-- SHL, SHR, SAR, ROTL (R135). -/
def formShift (f : Full) : Form := form3 { tys := tys32 } dst src src f
/-- SHLW, SHRW (R135). -/
def formShiftWide (f : Full) : Form := form3 { tys := tys32 } dst64 src64 src f
/-- POPC, CLZ, BREV (R135). -/
def formCount (f : Full) : Form := form2 { tys := tys32 } dst src f
/-- Position and width of BFX and BFI (R139). -/
def bfCauses (f : Full) : List Nat := need8 (mf f 15 11 = 0) ++ need7 (1 ≤ mf f 10 5 && mf f 10 5 ≤ 32)
/-- BFX (R139). -/
def formBfx (f : Full) : Form :=
  let fm := form2 { tys := tys32, aux := true } dst srcN f
  { fm with causes := fm.causes ++ bfCauses f }
/-- BFI (R139). -/
def formBfi (f : Full) : Form :=
  let fm := form2 { tys := tys32, aux := true } dstR srcN f
  { fm with causes := fm.causes ++ bfCauses f }
/-- BPICK (R139). -/
def formBpick (f : Full) : Form := form3 { tys := tys32, ex := true, aux := true } dst srcN srcN f
/-- MOV (R140). -/
def formMov (f : Full) : Form :=
  if wholeImm f then { d := some dst, a := some src, causes := scalarCauses f [f.a] }
  else
    let w := ty64' f
    form2 { tys := tysMove } (widen w dst dst64) (widen w src src64) f
/-- MOVI (R140). -/
def formMovi (f : Full) : Form :=
  let a : Slot := { use := .r, kinds := [.int, .fp, .imm] }
  if wholeImm f then { d := some dst, a := some a } else form2 { tys := [.s32] } dst a f
/-- LEA (R141). -/
def formLea (f : Full) : Form :=
  if mEx f then form2 { tys := tys32, ex := true } dst64 { use := .r, kinds := [.imm], pair := true } f
  else
    let fm := form3 { tys := tys32, ex := true, aux := true } dst64 srcN64 srcN f
    { fm with causes := fm.causes ++ need8 (mf f 15 3 = 0) }
/-- Every rounding mode. -/
def modesAll : List Nat := [0, 1, 2, 3, 4, 5]
/-- Every rounding mode but `.sr`. -/
def modesNoSr : List Nat := [0, 1, 2, 3, 4]
/-- FADD, FMUL (R142). -/
def formFarith (f : Full) : Form := form3 { tys := [.f32], modes := modesAll, sat := true } dst src src f
/-- FFMA (R142). -/
def formFfma (f : Full) : Form := form3 { tys := [.f32], modes := modesAll, sat := true } dstR src src f
/-- FSCALE (R142). -/
def formFscale (f : Full) : Form := form3 { tys := [.f32], modes := modesNoSr, sat := true } dst src src f
/-- FMIN, FMAX (R142). -/
def formFminmax (f : Full) : Form := form3 { tys := [.f32] } dst src src f
/-- FCMP (R143). -/
def formFcmp (f : Full) : Form := form3 { tys := [.f32], modes := [0, 1, 2, 3, 4, 5, 6, 7] } dst src src f
/-- FCLASS (R144). -/
def formFclass (f : Full) : Form := form2 { tys := [.f32] } dst src f
/-- FRND (R144). -/
def formFrnd (f : Full) : Form := form2 { tys := [.f32], modes := modesNoSr } dst src f
/-- FRCP, FRSQ, FSQRT (R78, R145). -/
def formFroot (f : Full) : Form := form2 { tys := [.f32], modes := modesNoSr, sat := true } dst src f
/-- FEX2 (R78, R145). -/
def formFex2 (f : Full) : Form := form2 { tys := [.f32], sat := true } dst src f
/-- FLG2, FSIN, FCOS, FTANH (R78, R145). -/
def formFtrans (f : Full) : Form := form2 { tys := [.f32] } dst src f
/-- HADD2, HMUL2 (R146). -/
def formHarith (f : Full) : Form := form3 { tys := [.bf16, .f16], modes := modesAll, sat := true } dst src src f
/-- HFMA2 (R146). -/
def formHfma2 (f : Full) : Form := form3 { tys := [.bf16, .f16], modes := modesAll, sat := true } dstR src src f
/-- HMNMX2 (R146). -/
def formHmnmx2 (f : Full) : Form := form3 { tys := [.bf16, .f16], ex := true } dst src src f
/-- The types of CVT: all but SLUB4 (R147). -/
def tysCvt : List Ty := [.f32, .bf16, .f16, .e4m3, .e5m2, .e2m1, .e8m0, .s32, .n32, .s16, .n16, .s8, .n8, .s64, .n64]
/-- TY is an integer type. -/
def tyIsInt (t : Option Ty) : Bool := match t with
  | some .s32 => true | some .n32 => true | some .s16 => true | some .n16 => true
  | some .s8 => true | some .n8 => true | some .s64 => true | some .n64 => true | _ => false
/-- TY2 is a 64-bit type. -/
def ty64s (f : Full) : Bool := match mTy2 f with
  | some .s64 => true | some .n64 => true | _ => false
/-- CVT (R147). -/
def formCvt (f : Full) : Form :=
  let fm := form2 { tys := tysCvt, modes := modesAll, sat := true, ty2 := some tysCvt }
    (widen (ty64' f) dst dst64) (widen (ty64s f) src src64) f
  { fm with causes := fm.causes ++ need7 (!(tyIsInt (mTy f) && mf f 26 24 = 5)) }
/-- Elements per register of a CVTS destination (R65, R148). -/
def cvtsN (f : Full) : Nat := match mTy f with
  | some .bf16 => 2 | some .f16 => 2 | some .e4m3 => 4 | some .e5m2 => 4 | some .e2m1 => 8 | some .slub4 => 8 | _ => 1
/-- CVTS (R148). -/
def formCvts (f : Full) : Form :=
  let blk := mTy f = some .e2m1 || mTy f = some .slub4
  { d := some dst, a := some { use := .r, kinds := [.v, .s], n := cvtsN f }, b := if blk then some srcN else none,
    causes := aluCauses { tys := [.bf16, .f16, .e4m3, .e5m2, .e2m1, .slub4], modes := modesAll, sat := true, ex := true,
                          ty2 := some [.f32], aux := true } f
      ++ need8 (mf f 15 12 = 0) ++ need7 (!(mTy f = some .slub4 && mf f 26 24 = 5))
      ++ scalarCauses f (if blk then [f.a, f.b] else [f.a]) }
/-- PACK4, PACK8: n consecutive sources (R149). -/
def formPack (tys : List Ty) (n : Nat) (f : Full) : Form :=
  form2 { tys := tys } dst { use := .r, kinds := [.v, .s], n := n } f
/-- UNPK4, UNPK8: n consecutive destinations (R149). -/
def formUnpk (tys : List Ty) (n : Nat) (f : Full) : Form := form2 { tys := tys } { dst with n := n } src f
/-- The types of PACK4 and UNPK4 (R149). -/
def tysPack4 : List Ty := [.e4m3, .e5m2, .e8m0, .s8, .n8]
/-- The types of PACK8 and UNPK8 (R149). -/
def tysPack8 : List Ty := [.e2m1, .slub4]
/-- RNG (R150). -/
def formRng (f : Full) : Form :=
  { d := some vDst, causes := aluCauses { tys := [.n32, .f32] } f }

/-- SHFL (R151, R152): a segment width that is no power of two up to 64 is 0x07. -/
def formShfl (f : Full) : Form :=
  let w := ty64' f
  let k := mf f 6 0
  { d := some { vDst with pair := w }, a := some { vSrc with pair := w }, b := some srcN,
    causes := aluCauses { tys := tysMove, modes := [0, 1, 2, 3], aux := true } f ++ need8 (mf f 15 7 = 0)
      ++ need7 ([0, 1, 2, 4, 8, 16, 32, 64].contains k) }
/-- BCST (R151, R153): A is read in the source lane only; B is an s register, an inline integer or IMM. -/
def formBcst (f : Full) : Form :=
  let w := ty64' f
  { d := some { vDst with pair := w }, a := some { use := .own, kinds := [.v], pair := w }, 
    b := some { use := .r, kinds := [.s, .int, .imm] }, causes := aluCauses { tys := tysMove } f }
/-- BALLOT (R151). -/
def formBallot (f : Full) : Form := { d := some dst64, a := some vSrc, causes := aluCauses { tys := tys32 } f }
/-- VOTE (R151). -/
def formVote (f : Full) : Form :=
  { d := some dst, a := some { vSrc with pair := ty64' f }, causes := aluCauses { tys := tysMove, modes := [0, 1, 2] } f }
/-- Types and operations of REDUX and SCAN (R151, R155). -/
def reduxCauses (ex : Bool) (f : Full) : List Nat :=
  aluCauses { tys := tysMove, modes := [0, 1, 2, 3, 4, 5], ex := ex } f
    ++ need7 (!(mTy f = some .f32 && 2 < mf f 26 24))
/-- REDUX (R151, R155). -/
def formRedux (f : Full) : Form :=
  let w := ty64' f
  { d := some { dst with pair := w }, a := some { vSrc with pair := w }, causes := reduxCauses false f }
/-- SCAN (R151, R155). -/
def formScan (f : Full) : Form :=
  let w := ty64' f
  { d := some { vDst with pair := w }, a := some { vSrc with pair := w }, causes := reduxCauses true f }
/-- MATCH (R151). -/
def formMatch (f : Full) : Form :=
  { d := some { vDst with pair := true }, a := some { vSrc with pair := ty64' f }, causes := aluCauses { tys := tysMove } f }
/-- ACTMASK (R151). -/
def formActmask (f : Full) : Form := { d := some dst64, causes := aluCauses { tys := tys32 } f }

/-! ## Control, barriers and waits, system (MAJ 0x00 to 0x1F) -/

/-- A form without operands whose M may hold the bits of a mask. -/
def formM (mask : Nat) (f : Full) : Form := { causes := onlyBits f mask }
/-- NOP, EXIT, YIELD, BKPT (R115, R126, R127). -/
def formBare (f : Full) : Form := formM 0 f
/-- BRA (R115). -/
def formBra (f : Full) : Form := formM 0xFFFFFFFF f
/-- JMP, CALL (R115): no guard. -/
def formJump (f : Full) : Form := { formM 0xFFFFFFFF f with guard := false }
/-- JMPR (R115, R118). -/
def formJmpr (f : Full) : Form := { a := some sPair, causes := onlyBits f 0, guard := false }
/-- RET, ERET (R115, R128). -/
def formRet (f : Full) : Form := { formM 0 f with guard := false }
/-- CALLI, REFORM (R115). -/
def formCalli (f : Full) : Form := { a := some addrPair, causes := onlyBits f 0 }
/-- Level and count of a barrier (R41, R122, R123). -/
def barCauses (f : Full) : List Nat :=
  onlyBits f 0xE000FFFF ++ need7 ((scopeOf (mf f 31 29)).isSome) ++ need7 (!(mf f 31 29 = 4 && mf f 15 0 ≠ 0))
/-- BAR (R123). -/
def formBar (f : Full) : Form := { causes := barCauses f }
/-- BARARR (R123). -/
def formBararr (f : Full) : Form := { d := some (sBlockW 1), causes := barCauses f }
/-- BARWT (R123). -/
def formBarwt (f : Full) : Form := { a := some (sBlock 1), causes := barCauses f }
/-- WAITC (R41, R125). -/
def formWaitc (f : Full) : Form := { causes := onlyBits f 0xE000003F ++ need7 ((clsOf (mf f 31 29)).isSome) }
/-- SLEEP (R41). -/
def formSleep (f : Full) : Form := formM 0xFFFF f
/-- TRAP (R127). -/
def formTrap (f : Full) : Form := formM 0xFF f
/-- The assigned CSR numbers: width 64 and held per lane (R130). -/
def csrKind (n : Nat) : Option (Bool × Bool) :=
  if [0x000, 0x001, 0x002, 0x016, 0x017, 0x030, 0x034].contains n then some (false, false)
  else if [0x010, 0x012, 0x018, 0x020, 0x022, 0x024, 0x026, 0x032, 0x080].contains n then some (true, false)
  else if n = 0x014 then some (true, true)
  else none
/-- CSRR (R129). -/
def formCsrr (f : Full) : Form :=
  { d := match csrKind (mf f 11 0) with
      | some (_, true) => some { use := .w, kinds := [.v], pair := true }
      | some (w, false) => some { dst with pair := w }
      | none => some dst
    causes := onlyBits f 0xFFF ++ need7 (csrKind (mf f 11 0)).isSome }
/-- CSRW (R129); `zero` is accepted also where the CSR is 64 bits wide (DESIGN CHOICE, log entry 140). -/
def formCsrw (f : Full) : Form :=
  { a := some { sIntZero with pair := match csrKind (mf f 11 0) with
      | some (w, _) => w
      | none => false }
    causes := onlyBits f 0xFFF ++ need7 (csrKind (mf f 11 0)).isSome }

/-! ## Load-store (R178, R179, R185, R192, R203) -/

/-- The types of LD and ST (R179). -/
def tysMem : List Ty := [.s8, .n8, .s16, .n16, .s32, .n32, .f32, .s64, .n64]
/-- The types of the atomics (R185). -/
def tysAtom : List Ty := [.s32, .n32, .s64, .n64, .f32]
/-- Types accepted by an atomic operation code (R185). -/
def atomTys (op : Nat) : List Ty :=
  match op with
  | 0 => [.s32, .n32, .s64, .n64] | 1 => [.f32] | 2 => tysAtom | 3 => tysAtom
  | 4 => [.s32, .n32, .s64, .n64] | 5 => [.s32, .n32, .s64, .n64] | 6 => [.s32, .n32, .s64, .n64]
  | 7 => tysAtom | 8 => [.n32, .n64] | 9 => [.n32, .n64] | _ => []
/-- TY in a list. -/
def tyIn (f : Full) (ts : List Ty) : List Nat := need7 (match mTy f with
  | some t => ts.contains t
  | none => false)
/-- 7 for a reserved code in a field that the class layout of R41 gives TY, ORD, SCOPE, the count or the atomic operation, also where the
instruction does not use the field (R40, R60, R185). -/
def lsReserved (f : Full) : List Nat :=
  need7 ((mTy f).isSome && (ordOf (mf f 26 24)).isSome && (scopeOf (mf f 23 21)).isSome && mf f 19 18 ≠ 3 && mf f 17 14 ≤ 9)
/-- Order codes accepted, `.rp` only with `.acq` where it is allowed, and a defined scope (R179). -/
def ordCauses (orders : List Nat) (rpOk : Bool) (f : Full) : List Nat :=
  need7 (orders.contains (mf f 26 24)) ++ need7 (!mRp f || (rpOk && mf f 26 24 = 2)) ++ need7 (scopeOf (mf f 23 21)).isSome
/-- LD and ST move 1, 2 or 4 elements, a strong access one (R179). -/
def countCauses (f : Full) : List Nat :=
  need7 (mf f 19 18 ≠ 3) ++ need7 (mf f 26 24 = 0 || mf f 19 18 = 0) ++ need8 (mf f 17 14 = 0)
/-- A scalar access has a uniform address (R27, R178). -/
def scalarMem (x : Operand) (rest : List Operand) : List Nat :=
  match x with
  | .s _ => if rest.any perLane then [5] else []
  | _ => []
/-- LD (R178, R179). -/
def formLd (f : Full) : Form :=
  { d := some { dst with pair := ty64' f, n := mCount f }, a := some addrPair,
    causes := lsReserved f ++ tyIn f tysMem ++ ordCauses [0, 1, 2] true f ++ countCauses f ++ need8 (mf f 13 12 = 0) ++ scalarMem f.d [f.a] }
/-- TY is a 32-bit type. -/
def tyIs32 (f : Full) : Bool := match mTy f with
  | some .s32 => true | some .n32 => true | some .f32 => true | _ => false
/-- The data operand of ST and RED: an inline integer or `zero` only for a single 32-bit element (R178). -/
def dataSlot (f : Full) (n : Nat) : Slot :=
  { use := .r, kinds := if tyIs32 f && n == 1 then [.v, .s, .int, .zero] else [.v, .s], pair := ty64' f, n := n }
/-- ST (R178, R179). -/
def formSt (f : Full) : Form :=
  { a := some addrPair, b := some (dataSlot f (mCount f)),
    causes := lsReserved f ++ tyIn f tysMem ++ ordCauses [0, 1, 3] false f ++ countCauses f ++ need8 (mf f 13 12 = 0) ++ scalarMem f.b [f.a] }
/-- Fields shared by the atomics. -/
def atomCauses (orders : List Nat) (rpOk : Bool) (f : Full) : List Nat :=
  ordCauses orders rpOk f ++ need8 (mf f 19 18 = 0) ++ need7 (mf f 19 18 ≠ 3) ++ need8 (mf f 13 12 = 0)
/-- An atomic's operand in B is a register (R178). -/
def atomB (f : Full) : Slot := { use := .r, kinds := [.v, .s], pair := ty64' f }
/-- ATOM (R178, R179, R185); R206 names `.rp` with `.acq` of ATOM and ATOMCAS. -/
def formAtom (f : Full) : Form :=
  { d := some { dst with pair := ty64' f }, a := some addrPair, b := some (atomB f),
    causes := tyIn f tysAtom ++ tyIn f (atomTys (mf f 17 14)) ++ atomCauses [0, 1, 2, 3, 4] true f ++ scalarMem f.d [f.a, f.b] }
/-- ATOMCAS (R178, R179, R185). -/
def formAtomcas (f : Full) : Form :=
  { d := some { dstR with pair := ty64' f }, a := some addrPair, b := some (atomB f),
    causes := lsReserved f ++ tyIn f tysAtom ++ need8 (mf f 17 14 = 0) ++ atomCauses [0, 1, 2, 3, 4] true f ++ scalarMem f.d [f.a, f.b] }
/-- RED (R178, R179, R185). -/
def formRed (f : Full) : Form :=
  { a := some addrPair, b := some (dataSlot f 1),
    causes := tyIn f tysAtom ++ tyIn f (atomTys (mf f 17 14)) ++ atomCauses [0, 1, 3] false f ++ scalarMem f.b [f.a] }
/-- PREF (R184). -/
def formPref (f : Full) : Form :=
  { a := some addrPair, causes := onlyBits f 0x00E00FFF ++ lsReserved f ++ need7 ([0, 2, 3].contains (mf f 23 21)) }
/-- SPILL (R192). -/
def formSpill (f : Full) : Form :=
  { a := some { vSrc with n := mCount f }, causes := onlyBits f 0x000C0FFF ++ lsReserved f }
/-- FILL (R192). -/
def formFill (f : Full) : Form :=
  { d := some { vDst with n := mCount f }, causes := onlyBits f 0x000C0FFF ++ lsReserved f }
/-- FENCE (R203). -/
def formFence (f : Full) : Form := { causes := onlyBits f 0x07F00000 ++ ordCauses [2, 3, 4] true f }
/-- SUBS (R166). -/
def formSubs (f : Full) : Form := { d := some (sBlockW 1), a := some sPair, b := some sPair, causes := onlyBits f 0 ++ lsReserved f }
/-- UNSUBS (R167). -/
def formUnsubs (f : Full) : Form := { d := some (sBlockW 1), a := some sPair, causes := onlyBits f 0 ++ lsReserved f }
/-- SEGSTAT (R169). -/
def formSegstat (f : Full) : Form := { d := some sPairW, a := some sPair, causes := onlyBits f 0 ++ lsReserved f }

/-! ## Engines (R236, R237, R265, R266, R304, R362, R364, R372, R373, R392, R393) -/

/-- NB of R236. -/
def mNb (f : Full) : Bool := mb f 24
/-- The barrier pair of a copy; with NB it is left out and D holds 0 (R236). -/
def copyD (f : Full) : Option Slot := if mNb f then none else some sPair
/-- CPY (R236, R237). -/
def formCpy (f : Full) : Form :=
  { d := copyD f, a := some sPair, b := some sPair, dFirst := true,
    causes := onlyBits f 0x01FFFFFF ++ need7 (mf f 23 0 ≠ 0) }
/-- TCPY (R236). -/
def formTcpy (f : Full) : Form :=
  { d := copyD f, a := some (sBlock 16), dFirst := true, causes := onlyBits f 0x01FFFFFF }
/-- TGATH, TSCAT (R236). -/
def formTgath (f : Full) : Form :=
  { d := copyD f, a := some vSrc, b := some (sBlock 4), dFirst := true, causes := onlyBits f 0x01FFFFFF }
/-- CPYF (R236, R237). -/
def formCpyf (f : Full) : Form :=
  { d := some sPair, a := some sPair, b := some { use := .r, kinds := [.s, .int, .zero, .fp] }, dFirst := true,
    causes := onlyBits f 0x01FFFFFF ++ need7 (!mNb f) ++ need7 (mf f 23 0 ≠ 0) }
/-- The entries of TIDLD and TIDINV (R237). -/
def tidCauses (f : Full) : List Nat := onlyBits f 0x00FFFFFF ++ need7 (mX f + mY f + 1 ≤ 4096)
/-- TIDLD (R236). -/
def formTidld (f : Full) : Form := { d := some sOrZeroW, a := some sPair, dFirst := true, causes := tidCauses f }
/-- TIDINV (R236). -/
def formTidinv (f : Full) : Form := { dFirst := true, causes := tidCauses f }
/-- TBINIT, TBEXP (R236). -/
def formTbinit (f : Full) : Form := { a := some sPair, b := some sIntZero, dFirst := true, causes := onlyBits f 0 }
/-- TBARR, TBWAIT (R236). -/
def formTbarr (f : Full) : Form := { formTbinit f with d := some sOrZeroW }
/-- TBTEST (R25, R236). -/
def formTbtest (f : Full) : Form := { formTbinit f with d := some sOrZeroW }

/-- Format codes FM and scale of an MMA (R266). -/
def fmCauses (f : Full) : List Nat :=
  let fm := mf f 31 29
  need7 (fm ≠ 7) ++ need7 (!(mb f 28 && (fm = 2 || fm = 3 || fm = 6))) ++ need7 (!(!mb f 28 && (fm = 4 || fm = 5)))
/-- Elements of a format code in one register (R65, R275). -/
def fmPer (fm : Nat) : Nat := match fm with
  | 0 => 4 | 1 => 4 | 2 => 2 | 3 => 2 | 4 => 8 | 5 => 8 | _ => 1
/-- K of an MMA (R265). -/
def mmaK (f : Full) : Nat := 16 * (mf f 5 0 + 1)
/-- Registers of one row block: RB data and NS scale registers (R275). -/
def areaRegs (f : Full) : Nat := mmaK f / fmPer (mf f 31 29) + (if mb f 28 then (mmaK f + 127) / 128 else 0)
/-- MMA and MMAZ `.areg` (R265, R275); a reserved FM gives no range of registers past the one that A names. -/
def formMmaAreg (f : Full) : Form :=
  { a := some (if mf f 31 29 = 7 then vSrc else vRows (areaRegs f)), b := some sPair, dFirst := true, causes := onlyBits f 0xF000F03F ++ fmCauses f }
/-- MMA and MMAZ `.als` (R265). -/
def formMmaAls (f : Full) : Form :=
  { a := some sPair, b := some sPair, dFirst := true, causes := onlyBits f 0xF000F03F ++ fmCauses f }
/-- MMA and MMAZ `.aacc` (R265, R266). -/
def formMmaAacc (f : Full) : Form :=
  { b := some sPair, dFirst := true,
    causes := onlyBits f 0xE800F3FF ++ need7 (mf f 31 29 = 0 || mf f 31 29 = 2) ++ need7 (mf f 5 0 ≤ 3) }
/-- n tiles from a base (R266). -/
def tileCauses (base n : Nat) : List Nat := need7 (1 ≤ n && n ≤ 16 && base + n ≤ 16)
/-- ACCALLOC (R25, R265, R266). -/
def formAccalloc (f : Full) : Form :=
  { d := some sOrZeroW, dFirst := true, causes := onlyBits f 0x0100001F ++ tileCauses 0 (mf f 4 0) }
/-- ACCFREE, ACCZERO (R265, R266). -/
def formAcczero (f : Full) : Form := { dFirst := true, causes := onlyBits f 0x0000F01F ++ tileCauses (mf f 15 12) (mf f 4 0) }
/-- ACCLD (R265). -/
def formAccld (f : Full) : Form := { a := some (sBlock 2), dFirst := true, causes := onlyBits f 0x0000FFFF }
/-- ACCST (R265, R266, R279): only the block registers that a modifier uses are checked. -/
def formAccst (f : Full) : Form :=
  let scm := mf f 31 30
  { a := some (sBlock 2), b := if scm = 1 then some (vRows 2) else none, dFirst := true
    more := match f.a with
      | .s _ => (if mb f 27 then [⟨regAfter f.a 2, 1⟩] else []) ++ (if mb f 16 then [⟨regAfter f.a 4, 2⟩] else [])
          ++ (if scm = 2 then [⟨regAfter f.a 6, 2⟩] else [])
      | _ => []
    causes := onlyBits f 0xFE01FFFF ++ need7 (scm ≠ 3) ++ need7 (mf f 29 28 ≠ 3) ++ rangeCauses 0 (match f.a with
      | .s n => .s n
      | _ => .int 0) 8 }
/-- Columns of ACCMOV and ACCFILL (R266). -/
def colCauses (f : Full) : List Nat := onlyBits f 0x003FF03F ++ need7 (mf f 21 16 + mf f 5 0 + 1 ≤ 64)
/-- ACCMOV (R265, R283). -/
def formAccmov (f : Full) : Form := { d := some (vRowsW (mf f 5 0 + 1)), dFirst := true, causes := colCauses f }
/-- ACCFILL (R265, R283). -/
def formAccfill (f : Full) : Form := { a := some (vRows (mf f 5 0 + 1)), dFirst := true, causes := colCauses f }
/-- ACCRMAX, ACCRSUM (R265). -/
def formAccrow (f : Full) : Form := { d := some (vRowsW 1), dFirst := true, causes := onlyBits f 0x0000F000 }
/-- ACCRSCL (R265). -/
def formAccrscl (f : Full) : Form := { a := some (vRows 1), dFirst := true, causes := onlyBits f 0x0400F000 }
/-- ACCMAP `.add`, `.mul` (R265). -/
def formAccmapRow (f : Full) : Form := { a := some (vRows 1), dFirst := true, causes := onlyBits f 0x0000F000 }
/-- ACCMAP `.ex2` (R265, R266). -/
def formAccmapEx2 (f : Full) : Form := { formAccmapRow f with b := some { use := .r, kinds := [.s, .fp] } }
/-- ACCMAP `.relu` (R265). -/
def formAccmapRelu (f : Full) : Form := { dFirst := true, causes := onlyBits f 0x0000F000 }
/-- ACCMAP `.rnd` (R265, R266). -/
def formAccmapRnd (f : Full) : Form := { dFirst := true, causes := onlyBits f 0xE400F000 ++ need7 (mf f 31 29 ≤ 3) }

/-- DRAW (R304). -/
def formDraw (f : Full) : Form := { d := some (sBlockW 12), dFirst := true, causes := onlyBits f 0x0003F000 }
/-- DRAWT (R304). -/
def formDrawt (f : Full) : Form := { d := some (sBlockW 13), dFirst := true, causes := onlyBits f 0x0003F000 }
/-- DEAL (R304). -/
def formDeal (f : Full) : Form :=
  { d := some sOrZeroW, a := some (sBlock 16), dFirst := true, causes := onlyBits f 0x0103F000 }
/-- DECKST (R304). -/
def formDeckst (f : Full) : Form := { d := some sPairW, dFirst := true, causes := onlyBits f 0x0003F000 }
/-- MCST (R362). -/
def formMcst (f : Full) : Form :=
  { a := some sPair, b := some (sBlock (if mf f 26 24 ≤ 4 then 2 ^ mf f 26 24 else 1)), dFirst := true,
    causes := onlyBits f 0x0F0FF000 ++ need7 (mf f 26 24 ≤ 4) ++ need7 (!(mb f 27 && 1 < mf f 26 24)) }
/-- RFENCE (R364). -/
def formRfence (f : Full) : Form :=
  { a := if mb f 24 then some (sBlock 1) else none, dFirst := true, causes := onlyBits f 0x01000000 }
/-- CGLOAD (R372, R373). -/
def formCgload (f : Full) : Form :=
  { d := some (sBlockW 1), a := some sPair, dFirst := true
    causes := onlyBits f 0x01FFF000 ++ need7 (mX f ≤ if mb f 24 then 1023 else 255) }
/-- CGRUN (R372, R373). -/
def formCgrun (f : Full) : Form :=
  { d := some sPair, a := some (sBlock (2 * (mf f 26 24 + 1))), dFirst := true
    causes := onlyBits f 0x07FFFFFF ++ need7 (mX f ≤ 255) ++ need7 (mY f ≤ 1023) }
/-- CGSTAT (R372, R373). -/
def formCgstat (f : Full) : Form :=
  { d := some sPairW, dFirst := true, causes := onlyBits f 0x00FFF000 ++ need7 (mX f ≤ 1023) }
/-- CGABORT (R372, R373). -/
def formCgabort (f : Full) : Form := { dFirst := true, causes := onlyBits f 0x00FFF000 ++ need7 (mX f ≤ 1023) }
/-- CGTRIG (R372). -/
def formCgtrig (f : Full) : Form := { a := some (sBlock 1), dFirst := true, causes := onlyBits f 0 }
/-- SEND (R392). -/
def formSend (f : Full) : Form := { a := some (sBlock 5), dFirst := true, causes := onlyBits f 0x0000FFFF }
/-- RPOST (R392). -/
def formRpost (f : Full) : Form :=
  { d := some (sBlockW 1), a := some (sBlock 10), dFirst := true, causes := onlyBits f 0x0000FFFF }
/-- RCANCEL (R392). -/
def formRcancel (f : Full) : Form :=
  { d := some (sBlockW 1), a := some (sBlock 1), dFirst := true, causes := onlyBits f 0x0000F000 }
/-- RPROBE (R392). -/
def formRprobe (f : Full) : Form :=
  { d := some (sBlockW 5), a := some (sBlock 5), dFirst := true, causes := onlyBits f 0x0000F000 }
/-- RCLAIM (R392). -/
def formRclaim (f : Full) : Form := { d := some (sBlockW 9), dFirst := true, causes := onlyBits f 0x0000F000 }
/-- RSTAT (R392). -/
def formRstat (f : Full) : Form := { d := some sPairW, dFirst := true, causes := onlyBits f 0x0100F000 }
/-- RSTAT `.open` (R392). -/
def formRstatOpen (f : Full) : Form :=
  { d := some (sBlockW 1), a := some sPair, dFirst := true, causes := onlyBits f 0x0100F000 }

/-! ## The pair form (R37, R38, R57, R58) -/

/-- The fields that a scalar half uses: SA as register, SB as register, SB as imm6. -/
def sopUse : SOp → Bool × Bool × Bool
  | .nop => (false, false, false)
  | .iaddI => (true, false, true) | .isubI => (true, false, true) | .shlI => (true, false, true)
  | .shrI => (true, false, true) | .sarI => (true, false, true) | .iaddwI => (true, false, true)
  | .shlwI => (true, false, true) | .moviI => (false, false, true)
  | .mov => (true, false, false) | .popc => (true, false, false) | .clz => (true, false, false)
  | _ => (true, true, false)

/-- Registers each of SD, SA and SB names in a scalar half (R57). -/
def sopWide : SOp → Bool
  | .iaddw => true | .iaddwI => true | .shlwI => true | _ => false

/-- A vector half reads VB; a one-source half does not (R58). -/
def vopTwo : VOp → Bool
  | .nop => false | .mov => false | .cvtF32S32 => false | .cvtS32F32 => false | .frcp => false | .frsq => false
  | .fex2 => false | .popc => false | .iabs => false | _ => true

/-- A vector half reads VD as its addend (R58). -/
def vopReadsD : VOp → Bool
  | .ffma => true | .imad => true | _ => false

/-- Causes of a pair's encoding (R38, R57, R58, R62). The hint that VA is used again is no field of the vector half, so that it may be 1 beside a
no-operation half (DESIGN CHOICE, log entry 142). -/
def pairCauses (alloc : Nat) (p : Pair) : List Nat :=
  let (ua, ub, ui) := sopUse p.sop
  (if p.g = 0b10000 then [4] else []) ++
  (if p.sop = .nop ∧ (p.sd ≠ 0 ∨ p.sa ≠ 0 ∨ p.sb ≠ 0) then [9] else []) ++
  (if p.sop ≠ .nop ∧ ((!ua ∧ p.sa ≠ 0) ∨ (!ub ∧ !ui ∧ p.sb ≠ 0)) then [9] else []) ++
  (if sopWide p.sop ∧ (p.sd.toNat % 2 = 1 ∨ p.sa.toNat % 2 = 1 ∨ (ub ∧ p.sb.toNat % 2 = 1)) then [5] else []) ++
  (if p.vop = .nop ∧ (p.vd ≠ 0 ∨ p.va ≠ 0 ∨ p.vb ≠ 0) then [9] else []) ++
  (if p.vop ≠ .nop ∧ !vopTwo p.vop ∧ p.vb ≠ 0 then [9] else []) ++
  (if alloc ≤ p.vd.toNat ∨ alloc ≤ p.va.toNat ∨ alloc ≤ p.vb.toNat then [6] else [])

/-- The registers a pair checks after its guard: scalar half first (R38); none has a mode bit (R32). -/
def pairReads (p : Pair) : List RegRead :=
  let (ua, ub, _) := sopUse p.sop
  let n := if sopWide p.sop then 2 else 1
  (if ua then [⟨.s (p.sa.toNat + 32), n, false⟩] else []) ++
  (if ub then [⟨.s (p.sb.toNat + 32), n, false⟩] else []) ++
  (if p.vop = .nop then [] else [⟨.v p.va.toNat, 1, false⟩]) ++
  (if vopTwo p.vop then [⟨.v p.vb.toNat, 1, false⟩] else []) ++
  (if vopReadsD p.vop then [⟨.v p.vd.toNat, 1, false⟩] else [])

/-- The registers a pair writes. -/
def pairWrites (p : Pair) : List (Operand × Nat) :=
  (if p.sop = .nop then [] else [(.s (p.sd.toNat + 32), if sopWide p.sop then 2 else 1)]) ++
  (if p.vop = .nop then [] else [(.v p.vd.toNat, 1)])

end Sys2Proof.Machine
end

