-- ==== Sys2Proof/Machine/Tbl.lean ====
section
/-! DEFINITION. Finite tables keyed by numbers, as lists with strictly rising keys, and byte memories in their canonical
form: rising addresses, and no entry equal to what an unlisted address reads as. -/

namespace Sys2Proof.Machine

/-- A finite table keyed by numbers. -/
abbrev Tbl (α : Type) := List (Nat × α)

/-- The entry of a key. -/
def Tbl.get {α : Type} : Tbl α → Nat → Option α
  | [], _ => none
  | (j, x) :: t, k => if j = k then some x else Tbl.get t k

/-- Insert or replace, keeping the keys in rising order. -/
def Tbl.set {α : Type} : Tbl α → Nat → α → Tbl α
  | [], k, y => [(k, y)]
  | (j, x) :: t, k, y =>
    if k < j then (k, y) :: (j, x) :: t
    else if j = k then (k, y) :: t
    else (j, x) :: Tbl.set t k y

/-- Remove a key. -/
def Tbl.del {α : Type} : Tbl α → Nat → Tbl α
  | [], _ => []
  | (j, x) :: t, k => if j = k then Tbl.del t k else (j, x) :: Tbl.del t k

/-- Change the entry of a key, where there is one. -/
def Tbl.upd {α : Type} (t : Tbl α) (k : Nat) (f : α → α) : Tbl α :=
  match Tbl.get t k with
  | none => t
  | some x => Tbl.set t k (f x)

/-- The entries whose key is below `hi` and at least `lo`. -/
def Tbl.range {α : Type} (t : Tbl α) (lo hi : Nat) : Tbl α := t.filter fun e => lo ≤ e.1 && e.1 < hi

/-- Change every entry. -/
def Tbl.mapVals {α : Type} (t : Tbl α) (f : Nat → α → α) : Tbl α := t.map fun e => (e.1, f e.1 e.2)

/-- The first entry that a test accepts, lowest key first. -/
def Tbl.findVal {α : Type} (t : Tbl α) (p : Nat → α → Bool) : Option (Nat × α) := t.find? fun e => p e.1 e.2

/-- The keys rise strictly. -/
def Tbl.rising {α : Type} : Tbl α → Bool
  | [] => true
  | [_] => true
  | (j, _) :: (k, y) :: t => j < k && Tbl.rising ((k, y) :: t)

/-- A byte memory: (address, byte) pairs in canonical form; an unlisted address reads 0. -/
abbrev Mem := List Host.Cell

/-- What a byte that no entry lists reads as (log entries 2 and 3). -/
def Mem.unlisted : Byte := 0

/-- Read one byte. -/
def Mem.get (m : Mem) (a : Nat) : Byte := (Tbl.get m a).getD Mem.unlisted

/-- Write one byte; writing what an unlisted address reads as removes the entry. -/
def Mem.set (m : Mem) (a : Nat) (b : Byte) : Mem :=
  if b = Mem.unlisted then Tbl.del m a else Tbl.set m a b

/-- Read n bytes from a. -/
def Mem.read (m : Mem) (a n : Nat) : List Byte := (List.range n).map fun i => Mem.get m (a + i)

/-- Write bytes from a upward. -/
def Mem.write : Mem → Nat → List Byte → Mem
  | m, _, [] => m
  | m, a, b :: bs => Mem.write (Mem.set m a b) (a + 1) bs

/-- The canonical form: strictly rising addresses, and no entry equal to what an unlisted address reads as. -/
def Mem.wf (m : Mem) : Bool := Tbl.rising m && m.all fun c => c.2 != Mem.unlisted

end Sys2Proof.Machine
end

