-- ==== Sys2Proof/Machine/MemState.lean ====
section
/-! DEFINITION. The state of the memory system, as plain data: HBM lines and their check words, translations, the memory-side
cache, fault records and side logs, the L1s, local store and subscriptions, the write-combining buffers, and the requests in
flight. -/

namespace Sys2Proof.Machine

/-! ## The memory side (R170 to R177, R323 to R336, R408 to R418) -/

/-- The check word of an HBM line: that of its data under a layout, the poison word, or a word that an error left (R409, R416). -/
inductive LineChk where
  | coded (nl : Nat)
  | poison
  | word (w : DWord)
  deriving DecidableEq, Repr

/-- A leaf of a page table (R326): frame address bits [55:16] as a byte address, the log2 of the page size, its bits, and whether the frame is that of
the launch windows (R290, log entry 41). -/
structure Leaf where
  fa    : Nat
  size  : Nat
  w     : Bool
  x     : Bool
  host  : Bool
  share : Bool
  exp   : Bool
  nl    : Nat
  win   : Bool
  deriving DecidableEq, Repr

/-- A TLB entry (R329): ASID, and the page number VA / 2^size of its leaf. -/
structure TlbEnt where
  asid : Nat
  page : Nat
  leaf : Leaf
  deriving DecidableEq, Repr

/-- A line of the memory-side cache (R175, R413): its data, whether it is dirty, its physical line, the leaf that brought it, whether it is poisoned,
and the check word where the data no longer agrees with it. -/
structure McLine where
  data   : Line
  dirty  : Bool
  phys   : Nat
  leaf   : Leaf
  poison : Bool
  chk    : Option DWord := none
  deriving DecidableEq, Repr

/-- An open fault record (R331): its identifier, page, cause, whether firmware must answer, its 128-bit image, and the instruction
fetches held on it as keys of instruction-cache lines. Loads held on it name it by its identifier. -/
structure FRec where
  rid     : Nat
  asid    : Nat
  page    : Nat
  cause   : Nat
  serv    : Bool
  image   : BitVec 128
  fetches : List Nat
  deriving DecidableEq, Repr

/-- Who makes an access: ASID, slot whose policies apply, package core, partition, ply slot and unique ply number for the records,
the initiating device of an inbound access, and the offset of the instruction concerned (R422). -/
structure Who where
  asid  : Nat
  slot  : Option Nat
  core  : Nat
  part  : Nat
  pslot : Nat
  uid   : Option Nat
  dev   : Nat
  inb   : Bool
  off   : Nat := 0
  deriving DecidableEq, Repr

/-- What a side-log entry does when it is replayed (R334): write bytes, apply an atomic request at one location, or let an engine, the home of a
barrier or the aperture perform its write, for which the entry holds the place (log entry 103). -/
inductive LogAct where
  | write (data : Line) (mask : Mask)
  | red (op loc : Nat)
  | unit (mask : Mask)
  deriving DecidableEq, Repr

/-- A side-log entry (R334): who made it, line, action, the KIND that a record of it carries (R331), whether it counts in UNRES (R335),
the request that completes at its replay, and the fault record it waits for. -/
structure LogEnt where
  who   : Who
  line  : Nat
  act   : LogAct
  kind  : Nat
  unres : Bool
  req   : Option (Nat × Nat)
  rid   : Option Nat
  deriving DecidableEq, Repr

/-- The ASID of a side-log entry. -/
def LogEnt.asid (e : LogEnt) : Nat := e.who.asid
/-- The issuing ply of a side-log entry, by its unique number. -/
def LogEnt.uid (e : LogEnt) : Option Nat := e.who.uid

/-- A memory-side slice: open records, the side log in order, the next record identifier, and the ASIDs of which it accepts no request
while its hold is full (R332). -/
structure Slice where
  recs : List FRec
  log  : List LogEnt
  next : Nat
  shut : List Nat
  deriving DecidableEq, Repr

/-- A slice at reset. -/
def Slice.reset : Slice := { recs := [], log := [], next := 0, shut := [] }

/-! ## The cores' memories -/

/-- An L1 line (R170): data, valid and dirty masks, the dirty bytes written before the core's latest release (R206), the write
permission, a permission probe under way, poison (R417), and the plies that wrote its dirty bytes, by unique number. -/
structure L1Line where
  data   : Line
  valid  : Mask
  dirty  : Mask
  old    : Mask
  w      : Bool
  probe  : Bool
  poison : Bool
  owners : List (Nat × Mask)
  deriving DecidableEq, Repr

/-- An L1 line just allocated. -/
def L1Line.empty : L1Line :=
  { data := 0, valid := 0, dirty := 0, old := 0, w := false, probe := false, poison := false, owners := [] }

/-- An instruction-cache line: its data, or that its fetch failed (R332, R417). -/
inductive IcLine where
  | data (x : Line)
  | bad
  deriving DecidableEq, Repr

/-- The condition of a local-store segment (R158). -/
inductive SegCond where
  | free
  | shared (skein : Nat)
  | scratch (slot : Nat)
  deriving DecidableEq, Repr

/-- The state of a scratchpad segment (R161). `t` says which operation holds it in transit, by request number. -/
inductive SegSt where
  | i
  | s
  | o
  | t (op : Nat)
  deriving DecidableEq, Repr

/-- What a home sends to a replica, in order (R162, R165): an update with the core that wrote it and the cores that have seen it elsewhere, whose
reads of the replica wait for it (R196, R199, log entry 151), or a sync marker of an acquire. -/
inductive RepMsg where
  | update (line : Nat) (seq : Word) (mask : Mask) (data : Line) (core : Nat) (seen : List Nat)
  | marker (acq : Nat)
  deriving DecidableEq, Repr

/-- A segment of a core's local store: condition, state, home (for S), subscribers and line sequence numbers (for O), the messages
from the home still to be applied or returned, the last sequence number applied to each line, and whether a lasting error retires
it (R158 to R169, R419). Segments are named core * 512 + n. -/
structure Seg where
  cond    : SegCond
  st      : SegSt
  home    : Nat
  subs    : List Nat
  seqs    : Tbl Word
  msgs    : List RepMsg
  applied : Tbl Word
  retired : Bool
  deriving DecidableEq, Repr

/-- A segment at reset: free. -/
def Seg.reset : Seg :=
  { cond := .free, st := .i, home := 0, subs := [], seqs := [], msgs := [], applied := [], retired := false }

/-- An entry of a write-combining buffer (R208), the oldest first in its list; `clock` is that of its allocation. -/
structure WcEnt where
  slot  : Nat
  dev   : Nat
  line  : Nat
  mask  : Mask
  data  : Line
  clock : Nat
  deriving DecidableEq, Repr

/-! ## Errors (R413, R417 to R419, R422) -/

/-- A telemetry record of TYPE 1 in the making: the slot whose ring takes it, CLASS, POL, LAST, UNIT, CORE, PART, CODEOFF, ADDR and PHYS (R422). -/
structure TelEv where
  slot : Option Nat
  cls  : Nat
  pol  : Nat
  last : Bool
  unit : Nat
  core : Nat
  part : Nat
  off  : Nat
  addr : Nat
  phys : Bool
  deriving DecidableEq, Repr

/-- A word of an on-chip SRAM (R413): of an L1 line by its key; of local store; a v register of a thread; an s register of a ply; two elements of a tile's
row; an instruction-cache line; the chunk buffers, for a call; another. -/
inductive SramWord where
  | l1 (key word : Nat)
  | ls (word : Nat)
  | reg (skein tid n : Nat)
  | sreg (pid n : Nat)
  | acc (part tile row word : Nat)
  | ic (key : Nat)
  | chunk (call : Nat)
  | other
  deriving DecidableEq, Repr

/-- An error of a memory: stored bits of an HBM line flip; cells of it stay at a value; one read of it goes wrong in transit; bits of a line of the
memory-side cache flip; a word of an SRAM is found in error, corrected or not, lasting or not (R414, R418). -/
inductive Upset where
  | hbm (pl : Nat) (flip : Line)
  | stuck (pl : Nat) (mask val : Line)
  | transit (pl : Nat) (flip : Line)
  | mc (key : Nat) (flip : Line)
  | sram (w : SramWord) (fix last : Bool)
  deriving DecidableEq, Repr

/-! ## Requests -/

/-- Where a generic address leads (R156): global memory, a byte of a core's local store, the pod window, or nowhere. -/
inductive Place where
  | global (va : Nat)
  | loc (core off : Nat)
  | pod (dev off : Nat)
  | bad
  deriving DecidableEq, Repr

/-- How far one part of a request has come: not performed; a weak store whose bytes are in the L1 while the line's permission is probed
(R171); waiting in a request to another package or to the host; held on a fault
record of a slice (R332); in a side log (R334); performed, with what was read; failed with a subtype of R31; or finished. -/
inductive PSt where
  | wait
  | inL1
  | sent (req : Nat)
  | held (slice rid : Nat)
  | logged
  | ready (bytes : List Byte)
  | bad (sub : Nat)
  | fin
  deriving DecidableEq, Repr

/-- One part of a request (R180): a lane and its thread, the first byte of the lane's data that it covers, its address, its place and
length, the bytes or operand it carries, a second operand (ATOMCAS), how far it has come, and whether it was forwarded to its home by a
segment that has since left state S (R165, R167). -/
structure MPart where
  lane  : Nat
  tid   : Nat
  k     : Nat
  ga    : Nat
  place : Place
  n     : Nat
  data  : Nat
  data2 : Nat
  st    : PSt
  fwd   : Bool := false
  deriving DecidableEq, Repr

/-- What a request of the load-store unit does. `image` reads an image for the collective engine (k is twice the slot, or twice the group
and 1) or a descriptor for the receive engine (`rep`, k the endpoint); `answer` brings words that an engine has already given. -/
inductive ReqKind where
  | ld | st | atom | red
  | refill
  | subs (seg home : Nat)
  | unsubs (seg : Nat)
  | segstat
  | tb
  | tbtest
  | image (rep : Bool) (k : Nat)
  | answer
  deriving DecidableEq, Repr

/-- A request of the load-store unit: who made it, at which instruction, its destination, its types and orders, its parts, and
whether its acquire has begun (R202). `uns` marks a request that counts in no class. `tids` are the threads that made it. -/
structure MReq where
  kind   : ReqKind
  pid    : Nat
  uid    : Nat
  skein  : Nat
  slot   : Nat
  pc     : Addr
  cls    : Cls
  uns    : Bool
  dst    : Operand
  dregs  : Nat
  scalar : Bool
  ty     : Ty
  n      : Nat
  ord    : Ord
  scope  : Scope
  rp     : Bool
  aop    : Nat
  parts  : List MPart
  acq    : Bool
  tids   : List Nat
  deriving DecidableEq, Repr

/-- An acquire under way (R165, R202, R206): the ply, the scope of its final actions, the cores whose promotion acknowledgement is
awaited while a promotion runs, and the replicas whose sync marker has not returned. -/
structure Acq where
  pid     : Nat
  core    : Nat
  slot    : Nat
  scope   : Scope
  promo   : Option (List Nat)
  markers : List Nat
  deriving DecidableEq, Repr

/-- What a request to another package or to the host serves; a multicast carries the skein, the threads and the ply that issued it, a collective
engine's packet its call and the operation that sent it, none for a start packet (R377, R378). -/
inductive RUse where
  | part (op idx : Nat)
  | wc (core slot dev line : Nat)
  | mcst (op skein : Nat) (tids : List Nat) (uid : Nat)
  | col (call : Nat) (idx : Option Nat)
  | eng (use : Nat) (a b : Nat)
  deriving DecidableEq, Repr

/-- A request to another package (R359, R360) or to the host (R441): what it serves, the target, the clock at which it left the package (none before), the core
and slot it belongs to, whether it writes, and whether it goes to the host. -/
structure RReq where
  use   : RUse
  dev   : Nat
  off   : Nat
  clock : Option Nat
  core  : Nat
  slot  : Nat
  pid   : Nat
  write : Bool
  host  : Bool
  deriving DecidableEq, Repr

/-- An inbound access to a page of the host (R188, R337, R359): its initiator and request, its address, the PCIe requests still to be
completed, what those completed have returned by lane, and whether one has failed, or returned poison (true). -/
structure PodHost where
  dev   : Nat
  req   : Nat
  ctxid : Nat
  va    : Nat
  left  : Nat
  vals  : List (Nat × List Byte)
  bad   : Option Bool
  deriving DecidableEq, Repr

/-- What the device sends over PCIe (R188, R440 to R442, R448); a report has no signature when it is EXHAUSTED. -/
inductive PcieMsg where
  | read (req addr n : Nat)
  | write (req addr : Nat) (bytes : List (Option Byte))
  | atomic (req addr : Nat) (op : HostAtomic)
  | msix (entry : Nat)
  | completion (bytes : List Byte)
  | poisoned
  | unsupported
  | report (body : List Byte) (sig : Option (List Byte))
  deriving DecidableEq, Repr

end Sys2Proof.Machine
end

