-- ==== Sys2Proof/Machine/EngState.lean ====
section
/-! DEFINITION. The state of the engines, as plain data: the copy engines and transaction barriers, the tensor-identifier caches,
the matrix engines, the work engine's decks, the collective and the receive engine, the fabric, the die link, and the units of the
Huadar die. -/

namespace Sys2Proof.Machine

/-! ## Transaction barriers (R19, R250 to R256) -/

/-- A transaction barrier as an instruction or a call names it: an offset in the shared window of a skein, a byte of a core's
scratchpad, or global memory. -/
inductive TbRef where
  | shared (skein off : Nat)
  | scratch (core off : Nat)
  | global (va : Nat)
  | bad (ga : Nat)
  deriving DecidableEq, Repr

/-- An update on its way to a barrier's home (R251): for a slot, from a ply; a TBINIT's reload count; arrivals, sectors, ABT, ERR;
the request it completes, the engine operation that owes it, the fault record it is held on, and the tag under which it crosses the die link and
whether it has arrived (R430). -/
structure TbUpd where
  ref  : TbRef
  slot : Nat
  pid  : Nat
  uid  : Nat
  init : Option Nat
  arr  : Nat
  sect : Int
  abt  : Bool
  err  : Bool
  req  : Option Nat
  eng  : Option (Nat × Cls)
  held : Option (Nat × Nat)
  link : Option (Nat × Bool) := none
  deriving DecidableEq, Repr

/-! ## Copy engines (R228 to R249) -/

/-- What a copy-class operation does. `rows` lists the lanes of Exec with their row indices. -/
inductive CopyKind where
  | cpy
  | cpyf (w : Word)
  | tcpy
  | rows (scatter : Bool) (rs : List (Nat × Nat))
  | tidld
  | tidinv
  deriving DecidableEq, Repr

/-- A copy-class operation: its instruction's fields, who issued it, the addresses, the snapshots of its entries (R235), its block, its barrier, the sectors it
owes, the units that have moved, what it found of HOST lines, and whether it goes on without data (R247). For TIDLD and TIDINV the
units are entries. -/
structure CopyOp where
  full  : Full
  kind  : CopyKind
  pid   : Nat
  uid   : Nat
  skein : Nat
  slot  : Nat
  core  : Nat
  pc    : Addr
  cls   : Cls
  srcA  : Nat
  dstA  : Nat
  srcE  : Line
  dstE  : Line
  block : List Nat
  bar   : Option TbRef
  dst   : Operand
  total : Nat
  done  : Nat
  bad   : Nat
  host  : Tbl Line
  asked : List Nat
  lost  : Bool
  deriving DecidableEq, Repr

/-! ## Matrix engines (R257 to R286) -/

/-- Where an MMA's A comes from: lent registers, local store, a tile. -/
inductive MatSrc where
  | areg
  | als (ga : Nat)
  | aacc (tile : Nat) (sat : Bool)
  deriving DecidableEq, Repr

/-- What a matrix operation does, with the s operands it read at issue. -/
inductive MatKind where
  | mma (zero : Bool) (fm k : Nat) (sc : Bool) (src : MatSrc) (b : Nat)
  | zero
  | load (so0 so1 : Nat) (ent : Line)
  | store (do0 do1 scm act : Nat) (trg : Option Word) (bar : Option TbRef) (cols : Nat) (sat ex : Bool) (ent : Line)
  | mov (c0 n : Nat)
  | fill (c0 n : Nat)
  | rmax
  | rsum
  | rscl (sat : Bool)
  | madd
  | mmul
  | mex2 (c : Nat)
  | mrelu
  | mrnd (rt : Nat) (sat : Bool)
  deriving DecidableEq, Repr

/-- A row that an operation's Exec owns (R257): the lane, its thread, the row, its number j in the lane, and the register words that
the lane supplies for it. -/
structure MatRow where
  lane : Nat
  tid  : Nat
  r    : Nat
  j    : Nat
  vals : List Word
  deriving DecidableEq, Repr

/-- A matrix operation: its ply, its partition, its place in the partition's issue order, its tiles, its rows, the first destination
register, the rows already done, what it found of HOST lines, and its stage: 0 queued, 1 done but for what it owes, 2 triggered. -/
structure MatOp where
  kind  : MatKind
  pid   : Nat
  uid   : Nat
  skein : Nat
  slot  : Nat
  part  : Nat
  pc    : Addr
  seq   : Nat
  tile  : Nat
  nt    : Nat
  rows  : List MatRow
  dst   : Nat
  dn    : Nat
  done  : Nat
  stage : Nat
  lost  : Bool
  host  : Tbl Line
  asked : List Nat
  deriving DecidableEq, Repr

/-- A request that waits in ACCALLOC (R260, R261): the ply, its skein, the tiles wanted, and what settled it. -/
structure AccReq where
  pid   : Nat
  uid   : Nat
  skein : Nat
  slot  : Nat
  part  : Nat
  n     : Nat
  res   : Option Nat
  deriving DecidableEq, Repr

/-- Tiles given up by ACCFREE that wait for earlier operations (R263). -/
structure AccFree where
  part : Nat
  tile : Nat
  ops  : List Nat
  deriving DecidableEq, Repr

/-- A trigger on its way to the collective sequencer (R20, R282, R387): the ACCST or CGTRIG, which one it is, its slot and ply, and
the target. -/
structure TileTrig where
  op     : Nat
  slot   : Nat
  pid    : Nat
  uid    : Nat
  target : Word
  cg     : Bool
  deriving DecidableEq, Repr

/-! ## Decks (R298 to R309) -/

/-- The state of a deck slot that is not FREE (R299). -/
inductive DSt where
  | waiting | ready | drawn
  deriving DecidableEq, Repr

/-- A deck slot in use: its state, its enabled gates as address and token (R300), whether a phase of a gated barrier has
completed since the gates were tested, and the clock at which it was found ready (R301). -/
structure DSlot where
  st    : DSt
  gates : List (Nat × Nat)
  due   : Bool
  found : Nat
  deriving DecidableEq, Repr

/-- A valid deck and its controller (R298, R299): ring, size, who may deal, the deals drawn past and made, the slots in use by number,
the READY slots in the order found, the requests on their way and those waiting, by operation, GERR, DROPS, and the host's deals whose line is held (R302). -/
structure Deck where
  ring    : Nat
  log2n   : Nat
  hostw   : Bool
  devdeal : Bool
  head    : Nat
  tail    : Nat
  slots   : Tbl DSlot
  ready   : List Nat
  inbox   : List Nat
  waiting : List Nat
  gerr    : Bool
  drops   : Nat
  deals   : List (List Byte)
  deriving DecidableEq, Repr

/-- The instructions that send a request to a deck controller. -/
inductive DeckKind where
  | draw | drawt | st
  deriving DecidableEq, Repr

/-- What a deck controller answers: an entry's payload, a fault of its line with the subtype of R31, none READY, or a status. -/
inductive DeckReply where
  | entry (bytes : List Byte)
  | fault (sub : Nat)
  | empty
  | status (v : Nat)
  deriving DecidableEq, Repr

/-- A request to a deck controller: its ply, its deck, its destination, the hints of its instruction, and the reply on its way. -/
structure DeckOp where
  kind  : DeckKind
  pid   : Nat
  uid   : Nat
  slot  : Nat
  deck  : Nat
  pc    : Addr
  dst   : Nat
  yld   : Bool
  jw    : Nat
  reply : Option DeckReply
  skein : Nat
  tids  : List Nat
  deriving DecidableEq, Repr

/-- A deck request is the ply's own, or one of its threads made it in an earlier ply. -/
def DeckOp.ofPly (o : DeckOp) (uid skein : Nat) (lanes : List (Option Nat)) : Bool :=
  o.uid == uid || (o.skein == skein && o.tids.any fun t => lanes.contains (some t))

/-! ## The collective engine (R366 to R389) -/

/-- A validated graph (R367, R370, R375): NBASE, signature, operations as their 256 bits, and the highest absolute rank. -/
structure Graph where
  nbase  : Nat
  sig    : Word
  ops    : List Nat
  absMax : Option Nat
  deriving DecidableEq, Repr

/-- A graph slot (R366): its image, where one is loaded, and the held triggers by operation (R382). -/
structure GSlot where
  graph : Option Graph
  trigs : Tbl Nat
  deriving DecidableEq, Repr

/-- A graph slot at acceptance of the launch packet. -/
def GSlot.empty : GSlot := { graph := none, trigs := [] }

/-- A validated group descriptor (R371): members, own rank, multicast group and whether it is used. -/
structure Group where
  mem  : List Nat
  rank : Nat
  mgrp : Nat
  men  : Bool
  deriving DecidableEq, Repr

/-- A group entry (R366, R388): its descriptor, the next trick number, whether the last ended call aborted, and why. -/
structure GroupSt where
  grp    : Group
  trick  : Nat
  lab    : Bool
  lcause : Nat
  deriving DecidableEq, Repr

/-- How far a chunk operation has come: not started; started; its own effect done. -/
inductive ChPh where
  | idle
  | begun
  | landed
  | complete
  deriving DecidableEq, Repr

/-- A chunk operation of a call: its dependency counter, how far it has come, and what a reduction holds: the own contribution and
the exponents agreed. -/
structure ChSt where
  cnt  : Nat
  ph   : ChPh
  buf  : List Byte
  emax : Option (List (Option Int))
  deriving DecidableEq, Repr

/-- A call (R366, R375): context slot, graph slot, group entry, trick, place in the order of acceptance, issuing ply, base addresses,
barrier, the ranks whose start packet has arrived, the operations, the phases that WAITs sampled, the data received and not yet
taken, and the cause of the abort that ends it (R384). -/
structure Call where
  slot   : Nat
  gslot  : Nat
  group  : Nat
  trick  : Nat
  order  : Nat
  pid    : Nat
  uid    : Nat
  skein  : Nat
  graph  : Graph
  grp    : Group
  bases  : List Nat
  bar    : TbRef
  starts : List Nat
  ops    : List ChSt
  waits  : Tbl Nat
  inbox  : List (Nat × EngData)
  abort  : Option Nat
  deriving DecidableEq, Repr

/-! ## The receive engine (R390 to R407) -/

/-- A message in an unexpected queue (R398): source rank and where it came from, tag, length, MSN, the sender's number, whether its
source was lost, and the run of 64-byte units that holds its payload, none where it is header-only. -/
structure UqMsg where
  src  : Nat
  org  : MsgFrom
  tag  : DWord
  len  : Nat
  msn  : Nat
  send : Nat
  lost : Bool
  run  : Option (Nat × Nat)
  deriving DecidableEq, Repr

/-- A posted receive (R396): its ply and skein, source and tag masks, the tensor range, barrier, cookie and handle. -/
structure Post where
  op     : Nat
  pid    : Nat
  uid    : Nat
  skein  : Nat
  slot   : Nat
  ep     : Nat
  psrc   : Nat
  smask  : Nat
  ptag   : DWord
  tmask  : DWord
  ent    : Line
  off    : Nat
  count  : Nat
  bar    : TbRef
  cookie : Word
  handle : Nat
  deriving DecidableEq, Repr

/-- How far a matched receive has come: its payload is being pulled; it is to be read from the queue's region; bytes are to be
written; its record waits to be written; its last decrement is on its way (R396). -/
inductive RecvPh where
  | pull
  | read
  | land (bytes : List Byte)
  | ring
  | over
  deriving DecidableEq, Repr

/-- A receive that a message has matched, or that was cancelled (R399 to R402): the post, source rank, tag, message length, bytes
landed, STATUS, whether it came from the queue, the answer owed to the sender, the run of units to free, its place in completion
order, and the clock at which its pull left (R406). -/
structure Recv where
  post   : Post
  order  : Nat
  src    : Nat
  org    : MsgFrom
  send   : Nat
  tag    : DWord
  mlen   : Nat
  land   : Nat
  status : Nat
  uq     : Bool
  answer : Option SendReply
  run    : Option (Nat × Nat)
  ph     : RecvPh
  clock  : Nat := 0
  deriving DecidableEq, Repr

/-- An open endpoint (R390, R391, R403): the copy of its group's members and own rank, its regions, peers, posted entries in order,
unexpected queue in order, the next MSN for each destination and source, the MSNs that failed by destination, messages held for their
predecessors, the records written and those claimed, and the sticky bits. -/
structure Endpoint where
  mem    : List Nat
  rank   : Nat
  uqBase : Nat
  uqLog  : Nat
  crBase : Nat
  crLog  : Nat
  ptBase : Nat
  npeer  : Nat
  posted : List Post
  uq     : List UqMsg
  msnOut : Tbl Nat
  msnIn  : Tbl Nat
  failed : Tbl (List Nat)
  early  : List (Nat × MsgIn)
  wrote  : Nat
  took   : Nat
  crfull : Bool
  drop   : Bool
  deriving DecidableEq, Repr

/-- How far a SEND has come: its message waits to leave; it has left and has no answer; the destination has it and will pull, or has
not yet entered it; it has ended with its source lost, and its notice may still be held off (R404). -/
inductive SendPh where
  | wait
  | out
  | kept
  | lost
  deriving DecidableEq, Repr

/-- A SEND (R395): its ply, endpoint, destination rank, tag, source range, MSN, the clock at which its message left the package, from which its
timeout runs, and how far it has come. -/
structure SendOp where
  pid   : Nat
  uid   : Nat
  skein : Nat
  slot  : Nat
  ep    : Nat
  dest  : Nat
  tag   : DWord
  ent   : Line
  off   : Nat
  count : Nat
  msn   : Nat
  clock : Option Nat
  ph    : SendPh
  deriving DecidableEq, Repr

/-! ## The fabric (R343 to R364) -/

/-- A fabric port (R345 to R348): the peer, replays, the lanes that transmit, that receive and that work, the lanes of each direction
at training, ST, whether the transmit direction retrains, failures in a row of one flit, FAIL, whether its traffic went to a detour when it
failed, and the packets sent, whose acknowledgement by the data link is open (R356). -/
structure Port where
  pdev   : Nat
  pport  : Nat
  replay : Nat
  tx     : Nat
  rx     : Nat
  ok     : Nat
  txw    : Nat
  rxw    : Nat
  st     : Nat
  rtx    : Bool
  row    : Nat
  fail   : Bool
  det    : Bool
  wire   : List FabPkt
  deriving DecidableEq, Repr

/-- A port at reset (R348). -/
def Port.reset : Port :=
  { pdev := 0, pport := 0, replay := 0, tx := 0, rx := 0, ok := 0, txw := 0, rxw := 0, st := 0, rtx := false, row := 0, fail := false, det := false,
    wire := [] }

/-- A packet that took a detour (R357): the port that it would have left by, its flow with its source, and the request whose answer acknowledges it or,
where this package sees no answer to it, the clock by which it is acknowledged. -/
structure Away where
  port : Nat
  flow : Nat
  req  : Option Nat
  due  : Nat
  deriving DecidableEq, Repr

/-- Acknowledgements of a multicast that a switch merges (R362): the switch and the number to which the merged one goes, how many are
awaited, and the first cause. -/
structure Merge where
  up    : Nat
  req   : Nat
  left  : Nat
  cause : Option Nat
  deriving DecidableEq, Repr

/-! ## The die link (R426 to R438) -/

/-- A port of the die link (R426, R428, R431, R434 to R436): ROLE, ST, PART, VER, CAPS, MEMSZ, PEERDIE, its working modules, its
degraded ones, what discovery has received, the clock at which the die asked, credits by class, the sequence numbers of flits
received and sent, the messages not acknowledged with their sequence numbers, NAKs in a row by module, and the messages received; what its next
flit says: NAK, and the credits it returns. -/
structure DlPort where
  role   : Nat
  st     : Nat
  part   : Nat
  ver    : Nat
  caps   : Nat
  memsz  : Nat
  peer   : Nat
  modok  : List Nat
  half   : List Nat
  ident  : Bool
  cap    : Bool
  asked  : Option Nat
  cred   : List Nat
  rseq   : Nat
  tseq   : Nat
  unack  : List (Nat × DlMsg)
  naks   : Tbl Nat
  inbox  : List DlMsg
  nak    : Bool := false
  back   : List Nat := [0, 0, 0, 0, 0]
  deriving DecidableEq, Repr

/-- A die-link port at reset: absent. -/
def DlPort.reset : DlPort :=
  { role := 0, st := 0, part := 0, ver := 0, caps := 0, memsz := 0, peer := 0, modok := [], half := [], ident := false, cap := false,
    asked := none, cred := [0, 0, 0, 0, 0], rseq := 0, tseq := 0, unack := [], naks := [], inbox := [] }

/-- What a request on the die link is for: a part of a load-store request; the promotion of an acquire; the write permission of an L1 line, by its
key; a barrier update; bytes that an engine writes to a segment, with how that ended once it has; a step of a shootdown; a ply's dirty bytes of an L1
line, by its key, on their way to their home. -/
inductive DlUse where
  | part (op idx : Nat)
  | promo (op : Nat)
  | probe (key : Nat)
  | update
  | bytes (who : Who) (ga : Nat) (bs : List Byte) (ended : Option Bool)
  | shoot (step : Nat)
  | back (key uid : Nat) (data : Line) (mask : Mask)
  deriving DecidableEq, Repr

/-- A request on the die link (R431): the port and module that it left by, its line address, its clock, what it serves, the layout of its
page, whether a refusal of it has been recorded where it met it, and whether the L1 has changed its line since, so that what answers it may be old. -/
structure DlReq where
  port   : Nat
  module : Nat
  addr   : Option Nat
  clock  : Nat
  use    : DlUse
  nl     : Nat := 0
  noted  : Bool := false
  stale  : Bool := false
  deriving DecidableEq, Repr

/-! ## Checkpoints (R423, R424) -/

/-- A checkpoint run: DIR and LAYT as they stood at GO, the lines that the poison map names, and whether a target has refused or not answered. -/
structure CkRun where
  restore : Bool
  layt    : Nat
  poison  : List Nat
  failed  : Bool
  deriving DecidableEq, Repr

/-! ## Pre-probes (R243) -/

/-- What a probe asks: address, whether it is written, whether HOST is allowed, the layout expected (15: any). -/
structure ProbeAsk where
  ga    : Nat
  write : Bool
  host  : Bool
  nl    : Nat
  deriving DecidableEq, Repr

/-- An access of the host that waits for its turn (R424, R440): reads, writes and AtomicOps through the aperture, launch packets, and RESTORE. -/
inductive HostAcc where
  | read (off len : Nat)
  | write (off : Nat) (bytes : List Byte)
  | atomic (off : Nat) (op : HostAtomic)
  | packet (slot : Nat) (bytes : List Byte)
  | restore (slot : Nat)
  deriving DecidableEq, Repr

/-- How far a probe has come: under way, with the fault records on which it is held, each by its slice and identifier; passed; failed at an address. -/
inductive ProbePh where
  | going (held : List (Nat × Nat))
  | passed
  | failed (va : Nat)
  deriving DecidableEq, Repr

/-- The operation that a probe is for. -/
inductive ProbeFor where
  | copy (o : CopyOp)
  | mat (o : MatOp)
  | call (c : Call)
  | send (o : SendOp)
  | post (p : Post)
  deriving DecidableEq, Repr

/-- A probe: the ply whose instruction waits in it, what it asks, how far it has come, and the operation that begins when it passes. -/
structure Probe where
  pid   : Nat
  uid   : Nat
  skein : Nat
  slot  : Nat
  asks  : List ProbeAsk
  ph    : ProbePh
  what  : ProbeFor
  deriving DecidableEq, Repr

end Sys2Proof.Machine
end

