-- ==== Sys2Proof/Machine/State.lean ====
section
/-! DEFINITION. The state of one package, as plain data: the plies and skeins, the partitions and cores, the context slots, the
memory system and every engine. Tables are keyed by numbers: a ply by ((core * 4 + partition) * 32 + slot) with the
package-wide core number of R9, a skein by slot * 2^18 + its index, a partition by core * 4 + partition, an operation by the
number it took when it was issued. -/

namespace Sys2Proof.Machine

/-! ## Registers and threads (R22, R29, R81) -/

/-- The state of a register (R29). -/
inductive RSt where
  | full | empty | faulted
  deriving DecidableEq, Repr

/-- A register: its value, its state, and the operation whose arrival is pending for it (R30, R33). -/
structure Reg where
  val  : Word
  st   : RSt
  pend : Option Nat
  deriving DecidableEq, Repr

/-- A register at launch (R29). -/
def Reg.launch : Reg := { val := 0, st := .full, pend := none }

/-- A register file; a register that is not listed is as at launch. -/
abbrev Regs := Tbl Reg

/-- A thread (R81): program counter, v registers, return addresses on chip, the newest first, and the count RSN of the spilled
ones (R216). -/
structure Thread where
  pc   : Addr
  regs : Regs
  ra   : List Addr
  rsn  : Nat
  deriving DecidableEq, Repr

/-! ## Divergence (R90, R91, R94, R220) -/

/-- A part of a divergence entry: its lanes, and its PC, which is kept up to date while it does not run. -/
structure DPart where
  lanes : Mask
  pc    : Addr
  deriving DecidableEq, Repr

/-- A divergence entry. The parts of a BRA entry are the fall-through and the taken part, in this order. `rpc` is absent under
NORP (R222); `cur` is the part running or last run; `cpc` is CPC of R220; `spilled` that the entry is in memory only, in the frame of number
`frame` of the ply's frame area (R94, R191). -/
structure DEntry where
  calli : Bool
  lanes : Mask
  rpc   : Option Addr
  cpc   : Addr
  cur   : Nat
  parts : List DPart
  spilled : Bool
  frame : Nat := 0
  deriving DecidableEq, Repr

/-- A running trap handler (R224): its live lanes and the entries it opened, oldest first. -/
structure Handler where
  lanes : Mask
  ents  : List DEntry
  deriving DecidableEq, Repr

/-! ## Plies (R82) -/

/-- An outstanding operation in its counter class (R18); `done` once it has completed. -/
structure OpRec where
  id   : Nat
  cls  : Cls
  done : Bool
  deriving DecidableEq, Repr

/-- The kinds of deferred condition (R109). -/
inductive CondKind where
  | store | remote | engine (c : Cls) | col
  deriving DecidableEq, Repr

/-- A deferred condition that a ply holds: kind, trap code, TRAPSUB, address. -/
structure Cond where
  kind : CondKind
  code : Nat
  sub  : Nat
  va   : Nat
  deriving DecidableEq, Repr

/-- What a ply waits in after an instruction of it began (R86, R310). `bar` holds the level and the
token, `barAcq` with them the acquire of leaving; `sleep` the issue
slots left after a SLEEP that has retired; `frame` the read of the spilled divergence entry i (R94), none while it is not yet asked for; `op` an operation whose answer the instruction
awaits; `redo` marks an instruction whose first step is done and
whose later steps wait, with the number of the step. -/
inductive Wait where
  | bar (level : Scope) (tok : Word)
  | barAcq (level : Scope) (tok : Word) (id : Nat)
  | sleep (left : Nat)
  | frame (i : Nat) (op : Option Nat)
  | op (id : Nat)
  | redo (stage : Nat)
  deriving DecidableEq, Repr

/-- The per-ply CSRs that hold a value of their own (R130). TRAPVA is listed by lane. -/
structure Csrs where
  fpx      : Word
  rngseed  : Word
  rngctr   : Word
  trappc   : Addr
  trapsrc  : Addr
  trapva   : Tbl Addr
  trapcode : Nat
  trapsub  : Nat
  trapmask : Mask
  deriving DecidableEq, Repr

/-- The CSRs at launch (R131). -/
def Csrs.launch : Csrs :=
  { fpx := 0, rngseed := 0, rngctr := 0, trappc := 0, trapsrc := 0, trapva := [], trapcode := 0, trapsub := 0, trapmask := 0 }

/-- A ply (R82, R87). `lanes` gives the thread at each lane position, none where the lane is not live. `age` is the clock at
which the ply took its slot. `starve` is S, `hold` the issue slots left of a join window, `ripe`
that the ply has been ready since it began, `podStore` the interval of R211. `drawnAt` is the
clock of its draw from a bobbin (R98). `uid` is a number no other ply ever has. -/
structure Ply where
  uid      : Nat
  ctx      : Nat
  skein    : Nat
  idx      : Nat
  width    : Nat
  lanes    : List (Option Nat)
  sregs    : Regs
  root     : Mask
  ents     : List DEntry
  hnd      : Option Handler
  csr      : Csrs
  prod     : Bool
  yld      : Bool
  ops      : List OpRec
  conds    : List Cond
  unres    : Nat
  age      : Nat
  starve   : Nat
  hold     : Option Nat
  ripe     : Bool
  wait     : Option Wait
  podStore : Bool
  stopped  : Bool
  drawnAt  : Option Nat
  deriving DecidableEq, Repr

/-- A thread in a bobbin's filing order, and the clock of its filing (R96). -/
structure Filed where
  tid   : Nat
  clock : Nat
  deriving DecidableEq, Repr

/-- A bobbin in use (R96, R97): its key, its threads in filing order, and what it carries (R74, R80, R99). -/
structure Bobbin where
  skein   : Nat
  pc      : Addr
  threads : List Filed
  rngseed : Word
  rngctr  : Word
  fpx     : Word
  deriving DecidableEq, Repr

/-- A barrier of R122: phase, arrivals of the open phase, the count that its first arrival carried (R124), and, at `.pod`, that
this package's plies have completed the phase, and the packages that have reported it, each with the phase. -/
structure PlyBar where
  phase    : Word
  arrivals : Nat
  count    : Nat
  pkgDone  : Bool
  reports  : List (Nat × Nat)
  deriving DecidableEq, Repr

/-- A barrier at launch. -/
def PlyBar.launch : PlyBar := { phase := 0, arrivals := 0, count := 0, pkgDone := false, reports := [] }

/-- A skein (R83): context slot, index, package core, threads by tid, s0 to s31, core-level barrier, shared segments in window
order, tiles held by partition, and its place in the order of placement on the core (R84). -/
structure Skein where
  ctx     : Nat
  idx     : Nat
  core    : Nat
  threads : Tbl Thread
  sregs   : Regs
  bar     : PlyBar
  segs    : List Nat
  tiles   : Tbl (List Nat)
  order   : Nat
  deriving DecidableEq, Repr

/-! ## Context slots (R287, R288) -/

/-- The states of a context slot, in code order (R287). -/
inductive CtxSt where
  | idle | running | saving | saved | restoring | done | stopped
  deriving DecidableEq, Repr

/-- A context slot. `pkt` is the launch packet (R289), byte 0 in bits [7:0]; `order` the order of acceptance (R292); `bars` the
barriers of levels quad, die, package and pod, keyed by `barKey` (R122); `placed` the skeins placed so far, `ended` those that
have ended. The fields from `nosave` to `lerr` are those of CTXSTAT, `save` and `size` CTXSAVE and CTXSZ in bytes (R288), `telbase`
TELBASE (R421). `left` are the cores that have not finished a save, `lay` the place of each skein's record in the save area, `quit` that it ends in
STOPPED, `lose` that it keeps nothing
(R321). -/
structure Ctx where
  st     : CtxSt
  pkt    : Line
  order  : Nat
  stopc  : Nat
  nosave : Bool
  cerr   : Bool
  qerr   : Bool
  pfull  : Bool
  lpart  : Bool
  lbusy  : Bool
  lerr   : Nat
  save   : Nat
  size   : Nat
  telbase : DWord
  left   : List Nat
  lay    : Tbl Nat
  quit   : Bool
  lose   : Bool
  intcfg : Word
  bars   : Tbl PlyBar
  placed : List Nat
  ended  : List Nat
  deriving DecidableEq, Repr

/-- A context slot at reset. -/
def Ctx.reset : Ctx :=
  { st := .idle, pkt := 0, order := 0, stopc := 0, nosave := false, cerr := false, qerr := false, pfull := false, lpart := false,
    lbusy := false, lerr := 0, save := 0, size := 0, telbase := 0, left := [], lay := [], quit := false, lose := false, intcfg := 0, bars := [],
    placed := [], ended := [] }

/-- A scheduler partition (R83, R96): its bobbins in use, the skeins of which no ply was ready at its last issue slot, and the
clock of its last draw (R98). -/
structure Part where
  bobbins : Tbl Bobbin
  idle    : List Nat
  drawn   : Option Nat
  deriving DecidableEq, Repr

/-- A partition at reset. -/
def Part.reset : Part := { bobbins := [], idle := [], drawn := none }

/-- Registers lent to the matrix engine by an operation (R276): n registers of a thread from `reg` up. -/
structure Lent where
  op    : Nat
  skein : Nat
  tid   : Nat
  reg   : Nat
  n     : Nat
  deriving DecidableEq, Repr

/-- Host and management registers (R440 to R449): device index, whether it has been written this boot, physical bases (R323, R328),
FABCFG, expansion memory by die in bytes, the frame at which firmware maps launch windows (R290), MSI-X masks and PBA, FWCTL, the aperture, the
power-control fields, the core-clock code,
the measurement, the leaf counter of the attestation key, the image whose boot goes on (R447), what the management processor's last read returned, and
the addresses and data of MSI-X entries (R439). -/
structure Mgmt where
  devidx    : Nat
  devset    : Bool
  asidTable : Nat
  podMap    : Nat
  owners    : Nat
  fabcfg    : Word
  expMem    : Tbl Nat
  winFrame  : Option Nat
  msixMask  : List Nat
  pba       : List Nat
  stage     : Nat
  reduced   : Bool
  hostmw    : Bool
  apbase    : Nat
  apasid    : Nat
  aperr     : Nat
  pcap      : Nat
  pnow      : Nat
  tj        : Nat
  stopt     : Bool
  evt       : Bool
  coreFreq  : Nat
  measure   : Option (BitVec 256)
  leaf      : Nat
  image     : Option FwImage := none
  got       : List Byte := []
  msixTab   : Tbl (BitVec 96) := []
  deriving DecidableEq, Repr

/-- The management registers at reset. -/
def Mgmt.reset : Mgmt :=
  { devidx := 0, devset := false, asidTable := 0, podMap := 0, owners := 0, fabcfg := 0x828, expMem := [], winFrame := none, msixMask := [], pba := [],
    stage := 0, reduced := false, hostmw := false, apbase := 0, apasid := 0, aperr := 0, pcap := 2000, pnow := 0, tj := 0, stopt := false,
    evt := false, coreFreq := 0, measure := none, leaf := 0 }

/-- CKCTL, its targets, and the run under way (R423, R424). -/
structure Ck where
  layt    : Nat
  nt      : Nat
  st      : Nat
  restore : Bool
  targets : Tbl (DWord × DWord)
  run     : Option CkRun
  deriving DecidableEq, Repr

/-- CKCTL at reset. -/
def Ck.reset : Ck := { layt := 0, nt := 0, st := 0, restore := false, targets := [], run := none }

/-! ## Faults and refusals -/

/-- Why a step stops. -/
inductive Fault where
  /-- Raised by an instruction row that runs while no ply is issuing it: `State.sel` names no resident ply. No run of the
  machine reaches it, since a step selects the ply whose instruction it decoded. Safe. -/
  | noIssuingPly
  deriving DecidableEq, Repr

/-- Why a step refuses. -/
inductive Refusal where
  /-- Raised by an arm of `exec` for a row whose meaning is not written. Safe. -/
  | notModelled (mnemonic : String)
  deriving DecidableEq, Repr

/-! ## The package -/

/-- Where an access of the host or of the management processor goes: a BAR, or the management window by the processor's own path (R439, R443). -/
inductive BusAt where
  | bar0 | bar2 | bar4 | window
  deriving DecidableEq, Repr

/-- What reaches the package's registers from outside, by offset (R439, R443), and what the management processor notes: a read of n bytes, a write; a
message in its mailbox for the host (R442); a measurement of power and temperature (R446). -/
inductive BusAcc where
  | read (at' : BusAt) (off n : Nat)
  | write (at' : BusAt) (off : Nat) (bytes : List Byte)
  | mailbox
  | sense (power temp : Nat)
  deriving DecidableEq, Repr

/-- Which agent moves next: a ply of a partition, a step of an engine or of the outside, the oldest posted write of the host that waits, an error
of a memory (R414), a port of the die link that sends a flit (R428), the next stage of the boot (R447), an access by offset, or the core clock. -/
inductive Choice where
  | issue (part : Nat)
  | event (i : Instr)
  | post
  | upset (u : Upset)
  | flit (port : Nat)
  | boot
  | bus (x : BusAcc)
  | clock
  deriving DecidableEq, Repr

/-- What the save of a skein keeps (R316 to R320): its place in the save area, the number of the first
free value for the records of its exited threads, the skein, its plies by key, its bobbins by partition *
16 and number, its copies of which no byte has been read, by
operation, with their records, and the contents of its local segments and tiles. -/
structure Saved where
  base    : Nat
  dead    : Nat
  skein   : Skein
  plies   : Tbl Ply
  bobbins : Tbl Bobbin
  copies  : Tbl (CopyOp × List Byte)
  segs    : List (List Byte)
  tiles   : List (Nat × Nat × List (List Word))
  deriving DecidableEq, Repr

/-- A telemetry record to be written (R421): the slot whose ring takes it, and the record less its stamp. -/
structure Tel where
  slot : Option Nat
  image : BitVec 256
  deriving DecidableEq, Repr

/-- The state of one package. `gone` are the ply slots whose ply ended in this clock, each with its skein (R85);
`tlb` the translation units by number (R329); `oldCode` the lines of a code window as they were before their context wrote them (R193);
`podEarly` the pod phases reported before their context started here, by CTXID and package (R122); `posted` the host's posted writes and commands
that wait, the oldest first (R424, R440); `stuck` the cells of HBM lines that keep a value, with it, `transit` what the next read of an HBM line
flips, `retireReq` the frames whose retirement is requested (R418, R419). -/
structure State where
  clock    : Nat
  agenda   : List Choice
  sel      : Option Nat
  stall    : Bool
  issued   : Tbl (Option Nat)
  throttled : List Nat
  nextOp   : Nat
  free     : Nat
  plies    : Tbl Ply
  gone     : Tbl Nat
  skeins   : Tbl Skein
  ctxs     : Tbl Ctx
  parts    : Tbl Part
  lent     : List Lent
  saved    : Tbl Saved
  quota    : Tbl DWord
  hbm      : Mem
  chk      : Tbl LineChk
  stuck    : Tbl (Line × Line)
  transit  : Tbl Line
  retireReq : List Nat
  tlb      : Tbl (List TlbEnt)
  oldCode  : Tbl Line
  mc       : Tbl McLine
  slices   : Tbl Slice
  faultQ   : List (Nat × BitVec 128)
  l1       : Tbl L1Line
  ic       : Tbl IcLine
  ls       : Mem
  lsPoison : List Nat
  segs     : Tbl Seg
  wcb      : Tbl (List WcEnt)
  reqs     : Tbl MReq
  acqs     : Tbl Acq
  podEarly : List (Nat × Nat × Nat)
  posted   : List HostAcc
  remote   : Tbl RReq
  podHost  : Tbl PodHost
  remerr   : Tbl DWord
  relOp    : Tbl Nat
  tbq      : List TbUpd
  tidc     : Tbl Line
  copies   : Tbl CopyOp
  probes   : Tbl Probe
  tiles    : Tbl (List Word)
  mats     : Tbl MatOp
  accWait  : Tbl AccReq
  accFree  : List AccFree
  accSince : Tbl Nat
  shadow   : Tbl Nat
  trigs    : List TileTrig
  decks    : Tbl Deck
  deckOps  : Tbl DeckOp
  gslots   : Tbl GSlot
  groups   : Tbl GroupSt
  calls    : Tbl Call
  colHeld  : List FabBody
  images   : Tbl (Tbl Line)
  eps      : Tbl Endpoint
  recvs    : Tbl Recv
  sends    : Tbl SendOp
  uetOut   : List (Nat × MsgFrom × FabBody)
  ports    : Tbl Port
  away     : List Away
  mgroups  : Tbl DWord
  routes   : Tbl Nat
  detours  : Tbl Nat
  port23   : Tbl Nat
  port23Ctx : Nat
  merges   : Tbl Merge
  flowIn   : Tbl Nat
  flowHeld : List FabPkt
  dl       : Tbl DlPort
  dlOut    : List (Nat × DlMsg)
  dlReqs   : Tbl DlReq
  flitOut  : List (Nat × Nat × List (BitVec 128))
  shootAt  : Nat × List Nat
  ck       : Ck
  flowOut  : Tbl Nat
  fabOut   : List FabPkt
  pcieOut  : List PcieMsg
  shoot    : List (BitVec 256)
  telPend  : List Tel
  telLog   : List (BitVec 256)
  mgmt     : Mgmt
  deriving DecidableEq, Repr

/-- The package right after reset (R287, R447): nothing is resident. -/
def State.reset : State :=
  { clock := 0, agenda := [], sel := none, stall := false, issued := [], throttled := [], nextOp := 0, free := 0, plies := [], gone := [], skeins := [],
    ctxs := [], parts := [], lent := [], saved := [], quota := [], hbm := [], chk := [], stuck := [], transit := [], retireReq := [], tlb := [], oldCode := [], mc := [], slices := [], faultQ := [], l1 := [], ic := [],
    ls := [], lsPoison := [], segs := [], wcb := [], reqs := [], acqs := [], podEarly := [], posted := [], remote := [], podHost := [], remerr := [], relOp := [], tbq := [],
    tidc := [], copies := [], probes := [], tiles := [], mats := [],
    accWait := [], accFree := [], accSince := [], shadow := [], trigs := [], decks := [], deckOps := [],
    gslots := [], groups := [], calls := [], colHeld := [], images := [], eps := [], recvs := [], sends := [], uetOut := [], ports := [], away := [],
    mgroups := [], routes := [], detours := [], port23 := [], port23Ctx := 0, merges := [], flowIn := [], flowHeld := [], dl := [], dlOut := [],
    dlReqs := [], flitOut := [], shootAt := (0, []), ck := Ck.reset,
    flowOut := [], fabOut := [], pcieOut := [], shoot := [], telPend := [], telLog := [], mgmt := Mgmt.reset }

end Sys2Proof.Machine
end

