-- ==== Sys2Proof/Machine/Ops.lean ====
section
/-! DEFINITION. Named operations over the state: keys, registers and their states, threads, the current part of a ply and its
divergence entries, program counters, taking a trap and returning from one. -/

namespace Sys2Proof.Machine

/-- The outcome of one step. -/
abbrev Out := Host.Outcome State Fault Refusal

/-- The package serves the host and firmware (R447): the boot has reached stage 5 or 6. -/
def State.serves (s : State) : Bool := s.mgmt.stage == 5 || s.mgmt.stage == 6
/-- A register row of the host or of firmware acts while the package serves; in stage 7 only status reads answer (R447, log entry 106). -/
def State.served (s : State) (x : Out) : Out := if s.serves then x else .next s

/-- An access of the host takes its turn: it waits behind the host's earlier ones that wait, and where it cannot be performed yet (R424, R440). -/
def State.inTurn (s : State) (i : HostAcc) (wait : Bool) (x : Out) : Out :=
  if wait || !s.posted.isEmpty then .next { s with posted := s.posted ++ [i] } else x


/-! ## Keys -/

/-- Package core of a ply key (R9). -/
def plyCore (pid : Nat) : Nat := pid / 128
/-- Partition of a ply key. -/
def plyPart (pid : Nat) : Nat := pid / 32 % 4
/-- Ply slot of a ply key. -/
def plySlot (pid : Nat) : Nat := pid % 32
/-- Partition key of a ply key. -/
def plyPartKey (pid : Nat) : Nat := pid / 32
/-- A ply key. -/
def plyKey (core part slot : Nat) : Nat := (core * 4 + part) * 32 + slot
/-- A skein key. -/
def skeinKey (slot idx : Nat) : Nat := slot * 2 ^ 18 + idx
/-- Die of a package core (R9). -/
def coreDie (core : Nat) : Nat := core / 96
/-- The die of a port number. -/
def dpDie (k : Nat) : Nat := k / 3
/-- A port carries messages. -/
def DlPort.live (p : DlPort) : Bool := p.st == 2 || p.st == 3

/-- A die issues instructions (R434, R436, R447 to R449, R445): firmware serves, its table names a management partner, no thermal
stop is in force, and in reduced service only die 0. -/
def State.dieRuns (s : State) (d : Nat) : Bool :=
  s.serves && !s.mgmt.stopt && !(s.mgmt.reduced && d != 0)
    && s.dl.any fun e => dpDie e.1 == d && e.2.st != 5 && bit e.2.caps 6

/-- A partition has an issue slot that it has not used in this clock (R14, R87). -/
def State.mayIssue (s : State) (part : Nat) : Bool :=
  part < 768 && (s.issued.get part).isNone && !s.throttled.contains (part / 4) && s.dieRuns (coreDie (part / 4))
/-- Quad of a package core, package-wide (R9). -/
def coreQuad (core : Nat) : Nat := core / 4

/-! ## Access to the tables -/

/-- The ply of a key. -/
def State.ply? (s : State) (pid : Nat) : Option Ply := s.plies.get pid
/-- Replace a ply. -/
def State.setPly (s : State) (pid : Nat) (p : Ply) : State := { s with plies := s.plies.set pid p }
/-- Change a ply, where there is one. -/
def State.updPly (s : State) (pid : Nat) (f : Ply → Ply) : State := { s with plies := s.plies.upd pid f }
/-- Change a skein. -/
def State.updSkein (s : State) (k : Nat) (f : Skein → Skein) : State := { s with skeins := s.skeins.upd k f }
/-- A context slot; one never touched is as at reset. -/
def State.ctx (s : State) (slot : Nat) : Ctx := (s.ctxs.get slot).getD Ctx.reset
/-- Change a context slot. -/
def State.updCtx (s : State) (slot : Nat) (f : Ctx → Ctx) : State := { s with ctxs := s.ctxs.set slot (f (s.ctx slot)) }
/-- A partition. -/
def State.part (s : State) (k : Nat) : Part := (s.parts.get k).getD Part.reset
/-- Change a partition. -/
def State.updPart (s : State) (k : Nat) (f : Part → Part) : State := { s with parts := s.parts.set k (f (s.part k)) }
/-- A thread of a skein. -/
def State.thread (s : State) (sk tid : Nat) : Option Thread := (s.skeins.get sk).bind fun k => k.threads.get tid
/-- Change a thread. -/
def State.updThread (s : State) (sk tid : Nat) (f : Thread → Thread) : State :=
  s.updSkein sk fun k => { k with threads := k.threads.upd tid f }
/-- Change every thread of a skein that a list names. -/
def State.updThreads (s : State) (sk : Nat) (tids : List Nat) (f : Nat → Thread → Thread) : State :=
  s.updSkein sk fun k => { k with threads := k.threads.map fun e => if tids.contains e.1 then (e.1, f e.1 e.2) else e }
/-- A fresh operation number. -/
def State.freshOp (s : State) : Nat × State := (s.nextOp, { s with nextOp := s.nextOp + 1 })
/-- Draw a free value: the counter is the argument of the opaque constants of Config. -/
def State.drawFree (s : State) : Nat × State := (s.free, { s with free := s.free + 1 })

/-! ## Launch packet fields (R289) -/

/-- A field of a context's launch packet. -/
def pktFld (c : Ctx) (hi lo : Nat) : Nat := fld c.pkt.toNat hi lo
/-- CODEBASE. -/
def codeBase (c : Ctx) : Nat := pktFld c 43 0 * 4096
/-- `ctxid`. -/
def pktCtxid (c : Ctx) : Nat := pktFld c 63 48
/-- Entry PC. -/
def pktEntry (c : Ctx) : Nat := codeBase c + 4 * pktFld c 87 64
/-- Trap handler address, 0 for none (R108, R131). -/
def pktHandler (c : Ctx) : Nat := if pktFld c 111 88 = 0 then 0 else (codeBase c + 4 * pktFld c 111 88) % 2 ^ 56
/-- Registers per thread (R28). -/
def pktRegs (c : Ctx) : Nat := 32 * (pktFld c 116 112 + 1)
/-- Ply width (R82). -/
def pktWidth (c : Ctx) : Nat := 8 * 2 ^ pktFld c 118 117
/-- Plies per skein. -/
def pktPlies (c : Ctx) : Nat := pktFld c 123 119 + 1
/-- Spill base. -/
def pktSpill (c : Ctx) : Nat := pktFld c 171 128 * 4096
/-- Spill bytes per thread SZ (R189). -/
def pktSz (c : Ctx) : Nat := 512 * (pktFld c 178 172 + 1)
/-- Producer ply. -/
def pktProd (c : Ctx) : Nat := pktFld c 183 179
/-- Skeins per core. -/
def pktSkeins (c : Ctx) : Nat := pktFld c 191 184 + 1
/-- Tensor identifier table base (R229). -/
def pktTidt (c : Ctx) : Nat := pktFld c 235 192 * 4096
/-- Shared segments per skein. -/
def pktLocal (c : Ctx) : Nat := pktFld c 245 236
/-- Accumulator tiles per partition (R258). -/
def pktAcc (c : Ctx) : Nat := pktFld c 250 246
/-- Deck table base (R298). -/
def pktDeckt (c : Ctx) : Nat := pktFld c 299 256 * 4096
/-- Bobbin age (R98). -/
def pktBobage (c : Ctx) : Nat := pktFld c 311 300 + 1
/-- Placement priority. -/
def pktPrio (c : Ctx) : Nat := pktFld c 47 44
/-- The core mask (R289). -/
def pktCmask (c : Ctx) : Nat := pktFld c 511 320
/-- The cores of the core mask, ascending. -/
def pktCores (c : Ctx) : List Nat := (List.range 192).filter fun n => (pktCmask c).testBit n

/-- Size of a spill region (R293). -/
def spillRegion (c : Ctx) : Nat := (pktPlies c + 3) / 4 * pktWidth c * pktSz c + 131072
/-- SPBASE of a skein on a partition (R293). -/
def spBase (c : Ctx) (skein part : Nat) : Nat := (pktSpill c + (4 * skein + part) * spillRegion c) % 2 ^ 56
/-- Launch plies of a skein on a partition: L of R189. -/
def launchPlies (c : Ctx) (part : Nat) : Nat := (pktPlies c + 3 - part) / 4
/-- SPLIM (R189). -/
def spLim (c : Ctx) (skein part : Nat) : Nat :=
  (spBase c skein part + launchPlies c part * pktWidth c * pktSz c + 32 * 4096) % 2 ^ 56
/-- j of R189: a thread's place among the areas of its partition. -/
def areaIdx (c : Ctx) (tid : Nat) : Nat := tid / pktWidth c / 4 * pktWidth c + tid % pktWidth c
/-- The thread area of a thread (R189). -/
def threadArea (c : Ctx) (skein part tid : Nat) : Nat := (spBase c skein part + areaIdx c tid * pktSz c) % 2 ^ 56
/-- The frame area of a slot (R189). -/
def frameArea (c : Ctx) (skein part slot : Nat) : Nat :=
  (spBase c skein part + launchPlies c part * pktWidth c * pktSz c + slot * 4096) % 2 ^ 56

/-- An address lies in the 64 MiB window from the code base (R31). -/
def inWindow (c : Ctx) (a : Nat) : Bool := (a + 2 ^ 56 - codeBase c) % 2 ^ 56 < 2 ^ 26
/-- An address as an offset from the code base in units of 4 bytes (R31, R94). -/
def codeOff (c : Ctx) (a : Nat) : Nat := (a + 2 ^ 56 - codeBase c) % 2 ^ 56 / 4 % 2 ^ 24

/-! ## Registers -/

/-- A register of a file. -/
def Regs.reg (r : Regs) (n : Nat) : Reg := (Tbl.get r n).getD Reg.launch
/-- Put a register; the launch value is not listed. -/
def Regs.put (r : Regs) (n : Nat) (x : Reg) : Regs := if x = Reg.launch then Tbl.del r n else Tbl.set r n x
/-- A value written: FULL, and any pending arrival cancelled (R33). -/
def Reg.write (w : Word) : Reg := { val := w, st := .full, pend := none }
/-- Write words to consecutive registers (R33). -/
def Regs.write (r : Regs) : Nat → List Word → Regs
  | _, [] => r
  | n, w :: ws => Regs.write (Regs.put r n (Reg.write w)) (n + 1) ws
/-- Mark consecutive registers EMPTY for an operation (R30). A register that is EMPTY for an earlier one awaits the new one, and the earlier
data is dropped when it comes (DESIGN CHOICE, log entry 118). -/
def Regs.markEmpty (r : Regs) (n cnt op : Nat) : Regs :=
  (List.range cnt).foldl (fun r i => Regs.put r (n + i) { (Regs.reg r (n + i)) with st := .empty, pend := some op }) r
/-- Arrival of data: a register takes its word where this operation's arrival is still pending for it (R30, R33). -/
def Regs.arrive (r : Regs) (op : Nat) : Nat → List Word → Regs
  | _, [] => r
  | n, w :: ws =>
    Regs.arrive (if (Regs.reg r n).pend = some op then Regs.put r n (Reg.write w) else r) op (n + 1) ws
/-- Arrival of a fault record (R31). -/
def Regs.arriveFault (r : Regs) (op n cnt : Nat) (rec : Word) : Regs :=
  (List.range cnt).foldl (fun r i => if (Regs.reg r (n + i)).pend = some op
    then Regs.put r (n + i) { val := rec, st := .faulted, pend := none } else r) r

/-- The thread in a lane. -/
def Ply.tidAt (p : Ply) (l : Nat) : Option Nat := (p.lanes[l]?).join
/-- The live lanes (R82). -/
def Ply.live (p : Ply) : Mask := maskOf ((List.range p.lanes.length).filter fun l => (p.tidAt l).isSome)
/-- The threads of the lanes of a mask, with their lanes. -/
def Ply.threadsOf (p : Ply) (m : Mask) : List (Nat × Nat) :=
  (lanesOf m).filterMap fun l => (p.tidAt l).map fun t => (l, t)

/-- A v register of a thread. -/
def State.vReg (s : State) (sk tid n : Nat) : Reg := match s.thread sk tid with
  | some t => t.regs.reg n
  | none => Reg.launch
/-- An s register of a ply (R22): s0 to s31 are the skein's, and a read gives the value written last (DESIGN CHOICE, log entry 122). -/
def State.sReg (s : State) (p : Ply) (n : Nat) : Reg :=
  if n < 32 then (match s.skeins.get p.skein with
    | some k => k.sregs.reg n
    | none => Reg.launch)
  else p.sregs.reg n
/-- Change s registers n and up of a ply. -/
def State.updS (s : State) (pid : Nat) (n : Nat) (f : Regs → Regs) : State :=
  match s.ply? pid with
  | none => s
  | some p => if n < 32 then s.updSkein p.skein fun k => { k with sregs := f k.sregs }
    else s.setPly pid { p with sregs := f p.sregs }
/-- Write consecutive s registers; a run may cross from s31 to s32. -/
def State.writeS (s : State) (pid : Nat) : Nat → List Word → State
  | _, [] => s
  | n, w :: ws => State.writeS (s.updS pid n fun r => r.put n (Reg.write w)) pid (n + 1) ws
/-- Mark consecutive s registers EMPTY (R30). -/
def State.emptyS (s : State) (pid op : Nat) : Nat → Nat → State
  | _, 0 => s
  | n, k + 1 => State.emptyS (s.updS pid n fun r => r.markEmpty n 1 op) pid op (n + 1) k
/-- Data arrives in consecutive s registers (R30, R33). -/
def State.arriveS (s : State) (pid op : Nat) : Nat → List Word → State
  | _, [] => s
  | n, w :: ws => State.arriveS (s.updS pid n fun r => r.arrive op n [w]) pid op (n + 1) ws
/-- A fault record arrives in consecutive s registers (R31). -/
def State.faultS (s : State) (pid op : Nat) (rec : Word) : Nat → Nat → State
  | _, 0 => s
  | n, k + 1 => State.faultS (s.updS pid n fun r => r.arriveFault op n 1 rec) pid op rec (n + 1) k

/-- The fault record of R31. -/
def faultRecord (sub off : Nat) : Word := BitVec.ofNat 32 (sub % 256 + off * 256)

/-! ## The current part (R91) -/

/-- Lanes of a are among those of b. -/
def subMask (a b : Mask) : Bool := a &&& b == a

/-- The leaf part that runs: follows `cur` through the entries, oldest first (R91). -/
def curLeaf : List DEntry → Mask → Mask
  | [], m => m
  | e :: es, m =>
    if subMask e.lanes m then match e.parts[e.cur]? with
      | some q => curLeaf es q.lanes
      | none => curLeaf es m
    else curLeaf es m

/-- The entries that a ply's running code opened, and their root lanes: the handler's while it runs (R224). -/
def Ply.divRoot (p : Ply) : Mask × List DEntry :=
  match p.hnd with
  | some h => (h.lanes, h.ents)
  | none => (p.root, p.ents)

/-- Replace the open entries of the running code. -/
def Ply.setEnts (p : Ply) (es : List DEntry) : Ply :=
  match p.hnd with
  | some h => { p with hnd := some { h with ents := es } }
  | none => { p with ents := es }

/-- The active lanes: the live lanes of the running part (R82, R91). -/
def Ply.active (p : Ply) : Mask := curLeaf p.divRoot.2 p.divRoot.1 &&& p.live

/-- The PC of the lanes of a mask, which stand together: that of the lowest live lane. -/
def State.maskPc (s : State) (p : Ply) (m : Mask) : Addr :=
  match p.threadsOf m with
  | (_, t) :: _ => match s.thread p.skein t with
    | some th => th.pc
    | none => 0
  | [] => 0

/-- The PC of the running part. -/
def State.plyPc (s : State) (p : Ply) : Addr := s.maskPc p p.active

/-- Set the PC of the lanes of a mask. -/
def State.setPc (s : State) (p : Ply) (m : Mask) (pc : Addr) : State :=
  s.updThreads p.skein ((p.threadsOf m).map Prod.snd) fun _ t => { t with pc := pc }

/-- Set a PC lane by lane. -/
def State.setPcs (s : State) (p : Ply) (f : List (Nat × Addr)) : State :=
  s.updThreads p.skein (f.filterMap fun x => p.tidAt x.1) fun tid t =>
    match f.find? fun x => p.tidAt x.1 == some tid with
    | some x => { t with pc := x.2 }
    | none => t

/-! ## Counters (R18) -/

/-- Operations a class holds. -/
def Ply.count (p : Ply) (c : Cls) : Nat := (p.ops.filter fun o => o.cls == c).length
/-- A class is full (R18). -/
def Ply.full (p : Ply) (c : Cls) : Bool := 63 ≤ p.count c
/-- Every counter is 0. -/
def Ply.quiet (p : Ply) : Bool := p.ops.isEmpty
/-- Drop, in issue order, the completed operations that no older one of the class precedes (R18). -/
def dropDone (c : Cls) : List OpRec → List OpRec
  | [] => []
  | o :: os => if o.cls = c then (if o.done then dropDone c os else o :: os) else o :: dropDone c os
/-- Count an operation (R18). -/
def Ply.issueOp (p : Ply) (id : Nat) (c : Cls) : Ply := { p with ops := p.ops ++ [{ id := id, cls := c, done := false }] }
/-- An operation completes: completions of a class are reported in issue order (R18). -/
def Ply.completeOp (p : Ply) (id : Nat) : Ply :=
  match p.ops.find? fun o => o.id == id with
  | none => p
  | some o => { p with ops := dropDone o.cls (p.ops.map fun x => if x.id = id then { x with done := true } else x) }
/-- An operation of a ply completes. -/
def State.completeOp (s : State) (pid id : Nat) : State := s.updPly pid fun p => p.completeOp id
/-- A ply takes a deferred condition (R109). -/
def State.addCond (s : State) (pid : Nat) (c : Cond) : State := s.updPly pid fun p => { p with conds := p.conds ++ [c] }

/-! ## Traps (R104 to R108, R224, R227) -/

/-- A trap about to be taken: code, TRAPSUB, trapping lanes, the address each concerns, the producing instruction for FAULTED,
and the PC to resume at where it is not the instruction's own. -/
structure Trap where
  code   : Nat
  sub    : Nat
  lanes  : Mask
  vas    : Tbl Addr
  src    : Option Addr
  resume : Option Addr
  deriving DecidableEq, Repr

/-- A trap without an address. -/
def Trap.plain (code sub : Nat) (lanes : Mask) : Trap :=
  { code := code, sub := sub, lanes := lanes, vas := [], src := none, resume := none }

/-- Stop the plies of a context at their instruction boundaries (R310): a SLEEP ends, a wait on an assignment, an append, a
condition or a fence is abandoned, an instruction whose probe has not passed has not issued, a barrier wait keeps its token. -/
def stopWait : Option Wait → Option Wait
  | some (.bar l t) => some (.bar l t)
  | some (.barAcq l t _) => some (.bar l t)
  | _ => none

/-- The memory of a die: its HBM and its expansion memory (R327, R437). -/
def State.dieBytes (s : State) (die : Nat) : Nat := 0x6000000000 + (s.mgmt.expMem.get die).getD 0

/-- The save area of a slot is usable (R317): CTXSAVE is not 0, and the CTXSZ bytes lie within one die. -/
def State.saveUsable (s : State) (slot : Nat) : Bool :=
  let c := s.ctx slot
  c.save != 0 && c.save / 2 ^ 40 ≤ 1 && c.save % 2 ^ 40 + c.size ≤ s.dieBytes (c.save / 2 ^ 40)

/-- A context begins its save for a reason (R288 STOPC, R108, R311, R321); 0 is PREEMPT. A request for tiles is withdrawn, and no tile is
taken for it (R310). -/
def State.stopCtx (s : State) (slot stopc : Nat) : State :=
  let lose := !s.saveUsable slot
  let s := s.updCtx slot fun c => { c with st := .saving, stopc := stopc, left := pktCores c, lay := [], quit := stopc != 0, lose := lose }
  let gone := (s.probes.filter fun e => e.2.slot == slot).map Prod.fst
  let out := (s.deckOps.filter fun e => e.2.slot == slot && e.2.kind == .draw && e.2.reply.isNone).map Prod.fst
  let back := (s.accWait.filter fun e => e.2.slot == slot).filterMap fun e => match e.2.res with
    | some b => if b < 256 then some (e.2.skein, e.2.part % 4, b, e.2.n) else none
    | none => none
  let quit (d : Deck) : Deck :=
    { d with inbox := d.inbox.filter fun i => !out.contains i, waiting := d.waiting.filter fun i => !out.contains i }
  { s with
    deckOps := s.deckOps.filter fun e => !out.contains e.1
    decks := s.decks.mapVals fun _ d => quit d
    plies := s.plies.mapVals fun _ p =>
      if p.ctx = slot then { p with stopped := true, wait := stopWait p.wait, hold := none, ops := p.ops.filter fun o => !gone.contains o.id }
      else p
    probes := s.probes.filter fun e => e.2.slot != slot
    skeins := back.foldl (fun ks x => ks.upd x.1 fun k =>
      { k with tiles := k.tiles.upd x.2.1 fun ts => ts.filter fun t => t < x.2.2.1 || x.2.2.1 + x.2.2.2 ≤ t }) s.skeins
    accWait := s.accWait.filter fun e => e.2.slot != slot
    reqs := s.reqs.filter fun e => !(e.2.kind == .tbtest && e.2.uns && e.2.slot == slot) }

/-- TAKING A TRAP (R105 to R108, R224). The CSRs record it; the running part's active lanes are held; the trapping lanes
enter the handler. With a handler already running, or none named, the context stops and the CSRs keep this trap's values. -/
def State.takeTrap (s : State) (pid : Nat) (t : Trap) : State :=
  match s.ply? pid with
  | none => s
  | some p =>
    let pc := s.plyPc p
    let rpc := t.resume.getD pc
    let h := pktHandler (s.ctx p.ctx)
    let csr := { p.csr with
      trappc := rpc, trapsrc := t.src.getD rpc, trapva := t.vas, trapcode := t.code, trapsub := t.sub, trapmask := p.active }
    let p' := { p with csr := csr, yld := false, starve := 0, hold := none, wait := none }
    match p.hnd with
    | some _ => (s.setPly pid p').stopCtx p.ctx 1
    | none =>
      if h = 0 then (s.setPly pid p').stopCtx p.ctx 2
      else
        let p'' := { p' with hnd := some { lanes := t.lanes, ents := [] } }
        (s.setPly pid p'').setPc p'' t.lanes (BitVec.ofNat 56 h)

/-- RETURNING FROM A TRAP (R227): the handler closes, and the whole held part, less the lanes retired in the handler, resumes
at TRAPPC. -/
def State.returnTrap (s : State) (pid : Nat) : State :=
  match s.ply? pid with
  | none => s
  | some p =>
    let p' := { p with hnd := none }
    (s.setPly pid p').setPc p' (p.csr.trapmask &&& p.live) p.csr.trappc

end Sys2Proof.Machine
end

