-- ==== Sys2Proof/Machine/Diverge.lean ====
section
/-! DEFINITION. Divergence (R90 to R95, R219 to R223): opening entries, parking and popping, switching between leaf parts, and
the 16-byte frames of entries. -/

namespace Sys2Proof.Machine

/-- The innermost open entry of the running part, as an index, oldest 0. -/
def curInner : List DEntry → Mask → Nat → Option Nat → Option Nat
  | [], _, _, acc => acc
  | e :: es, m, i, acc =>
    if subMask e.lanes m then match e.parts[e.cur]? with
      | some q => curInner es q.lanes (i + 1) (some i)
      | none => curInner es m (i + 1) acc
    else curInner es m (i + 1) acc

/-- Some entry among `es` lies within the lanes m. -/
def hasInner (es : List DEntry) (m : Mask) : Bool := es.any fun e => subMask e.lanes m

/-- Every live lane of the part has left (R91: finished). -/
def partFinished (p : Ply) (m : Mask) : Bool := m &&& p.live == 0

/-- A leaf part stands at its entry's reconvergence point (R91: parked). -/
def partParked (s : State) (p : Ply) (rpc : Option Addr) (m : Mask) : Bool := rpc == some (s.maskPc p m)

/-- A part of an entry is parked or finished; `inner` are the entries opened after it. -/
def partStopped (s : State) (p : Ply) (e : DEntry) (inner : List DEntry) (q : DPart) : Bool :=
  partFinished p q.lanes || (!hasInner inner q.lanes && partParked s p e.rpc q.lanes)

/-- The PC by which a part of a CALLI entry is ordered (R221). -/
def partKey (s : State) (p : Ply) (inner : List DEntry) (q : DPart) : Addr :=
  if hasInner inner q.lanes then q.pc else s.maskPc p q.lanes

/-- The key of a part in the order of R92 and R221: CPC for the part running or last run, else the PC where the part stands; a part that stands at CPC
comes before the one that runs, since only a PC above CPC is next. -/
def partOrder (s : State) (p : Ply) (inner : List DEntry) (e : DEntry) (q : DPart × Nat) : Nat :=
  if q.2 = e.cur then 2 * e.cpc.toNat + 1 else 2 * (partKey s p inner q.1).toNat

/-- The index among candidates with the least PC above CPC, else the least PC (R221). -/
def nextByPc (cpc : Addr) (cs : List (Nat × Addr)) : Option Nat :=
  let least (xs : List (Nat × Addr)) : Option (Nat × Addr) :=
    xs.foldl (fun b x => match b with
      | none => some x
      | some y => if x.2.toNat < y.2.toNat then some x else some y) none
  match least (cs.filter fun x => cpc.toNat < x.2.toNat) with
  | some x => some x.1
  | none => (least cs).map Prod.fst

/-- Replace one entry of a list. -/
def setAt {α : Type} (xs : List α) (i : Nat) (x : α) : List α := xs.set i x

/-- Parts of a CALLI entry that stand at one PC become one part (R221). -/
def mergeParts (s : State) (p : Ply) (inner : List DEntry) (parts : List DPart) : List DPart :=
  parts.foldl (fun acc q =>
    if hasInner inner q.lanes || partFinished p q.lanes then acc ++ [q]
    else match acc.findIdx? fun r => !hasInner inner r.lanes && !partFinished p r.lanes &&
        s.maskPc p r.lanes == s.maskPc p q.lanes with
      | some i => match acc[i]? with
        | some r => setAt acc i { r with lanes := r.lanes ||| q.lanes }
        | none => acc ++ [q]
      | none => acc ++ [q]) []

/-- The index of the part that holds lanes m. -/
def partIdx (parts : List DPart) (m : Mask) : Nat := (parts.findIdx? fun q => subMask m q.lanes).getD 0

/-- Merge the parts of a CALLI entry, keeping `cur` on the same lanes. -/
def mergeEntry (s : State) (p : Ply) (inner : List DEntry) (e : DEntry) : DEntry :=
  if !e.calli then e else
  match e.parts[e.cur]? with
  | none => e
  | some q =>
    let ps := mergeParts s p inner e.parts
    { e with parts := ps, cur := partIdx ps q.lanes }

/-- Parks, finishes and pops until a part can run (R91); with `move` unset only pops. An entry in memory comes back on chip before it is looked
at (R94). In a handler whose lanes have all left, the handler closes as ERET would (R121), without ERET's checks of TRAPPC (DESIGN CHOICE, log
entry 126). -/
def settle (move : Bool) : Nat → State → Nat → State
  | 0, s, _ => s
  | fuel + 1, s, pid =>
    match s.ply? pid with
    | none => s
    | some p =>
      let (root, es) := p.divRoot
      match curInner es root 0 none with
      | none =>
        if p.hnd.isSome && root &&& p.live == 0 && p.live ≠ 0 then settle move fuel (s.returnTrap pid) pid else s
      | some i => match es[i]? with
        | none => s
        | some e0 =>
          if e0.spilled then s else
          let inner := es.drop (i + 1)
          let e := mergeEntry s p inner e0
          match e.parts[e.cur]? with
          | none => s
          | some q =>
            if !partStopped s p e inner q then (if e = e0 then s else s.setPly pid (p.setEnts (setAt es i e)))
            else
              let cand := (e.parts.zipIdx.filter fun x => !partStopped s p e inner x.1).map fun x =>
                (x.2, partKey s p inner x.1)
              if cand.isEmpty then settle move fuel (s.setPly pid (p.setEnts (es.eraseIdx i))) pid
              else if !move then s
              else
                let next := if e.calli then (nextByPc e.cpc cand).getD 0 else (cand.head?.map Prod.fst).getD 0
                let cpc := ((cand.find? fun x => x.1 == next).map Prod.snd).getD e.cpc
                settle move fuel (s.setPly pid (p.setEnts (setAt es i { e with cur := next, cpc := if e.calli then cpc else e.cpc }))) pid

/-- The rounds that settling a ply can take: an entry can move on once and pop once, and a handler can close once. -/
def Ply.rounds (p : Ply) : Nat := 2 * (p.ents.length + match p.hnd with
  | some h => h.ents.length + 1
  | none => 0) + 2

/-- Settle a ply after an instruction. -/
def State.settlePly (s : State) (pid : Nat) : State :=
  match s.ply? pid with
  | none => s
  | some p => settle true p.rounds s pid

/-- Pop what can pop, before a switch event leaves the current part (R91, R92). -/
def State.popPly (s : State) (pid : Nat) : State :=
  match s.ply? pid with
  | none => s
  | some p => settle false p.rounds s pid

/-- The parts of an entry in depth-first order: fall-through before taken, CALLI parts by callee (R92, R221). -/
def orderedParts (s : State) (p : Ply) (inner : List DEntry) (e : DEntry) : List DPart :=
  if !e.calli then e.parts
  else (sortBy (partOrder s p inner e) e.parts.zipIdx).map Prod.fst

/-- The leaf parts in the depth-first order of R92, each with whether it can run. -/
def leafParts (s : State) (p : Ply) : List DEntry → Mask → Option Addr → List (Mask × Bool)
  | [], m, r => [(m, !partFinished p m && !partParked s p r m)]
  | e :: es, m, r =>
    if subMask e.lanes m then (orderedParts s p es e).flatMap fun q => leafParts s p es q.lanes e.rpc
    else leafParts s p es m r

/-- The first that can run in cyclic order after the current one. -/
def nextLeaf (cur : Mask) (ls : List (Mask × Bool)) : Option Mask :=
  let i := (ls.findIdx? fun x => x.1 == cur).getD 0
  ((ls.drop (i + 1) ++ ls.take i).find? fun x => x.2).map Prod.fst

/-- Make the entries run the leaf with lanes m. -/
def focus (s : State) (p : Ply) : List DEntry → Mask → List DEntry
  | [], _ => []
  | e :: es, m =>
    (match e.parts.findIdx? fun q => subMask m q.lanes with
     | some i => { e with cur := i, cpc := match e.calli, e.parts[i]? with
         | true, some q => if e.cur = i then e.cpc else partKey s p es q
         | _, _ => e.cpc }
     | none => e) :: focus s p es m

/-- The leaf part that a switch event runs next, where there is one (R92). -/
def State.nextPart (s : State) (p : Ply) : Option Mask :=
  nextLeaf (curLeaf p.divRoot.2 p.divRoot.1) (leafParts s p p.divRoot.2 p.divRoot.1 none)

/-- SWITCHING (R92): the ply leaves its current leaf part and runs the next one that can run; with none, it stays. -/
def State.switchPart (s : State) (pid : Nat) : State :=
  match s.ply? pid with
  | none => s
  | some p =>
    let es := p.divRoot.2
    match s.nextPart p with
    | none => s
    | some m =>
      let es' := focus s p es m
      let merged := es'.zipIdx.map fun x => mergeEntry s p (es'.drop (x.2 + 1)) x.1
      s.setPly pid (p.setEnts merged)

/-- Note the PC at which the running part splits: a part of a CALLI entry that is itself split stands at several PCs, and R221's order takes the PC at
which it split (DESIGN CHOICE, log entry 149). -/
def notePc (cur : Mask) (pc : Addr) (es : List DEntry) : List DEntry :=
  es.map fun e => { e with parts := e.parts.map fun q => if subMask cur q.lanes then { q with pc := pc } else q }

/-- Push an entry over the running part (R90, R219, R222). -/
def State.pushEntry (s : State) (pid : Nat) (pc : Addr) (e : DEntry) : State :=
  s.updPly pid fun p => p.setEnts (notePc p.active pc p.divRoot.2 ++ [e])

/-- Entries open in all: the interrupted code's and the handler's (R224). -/
def Ply.depth (p : Ply) : Nat := p.ents.length + match p.hnd with
  | some h => h.ents.length
  | none => 0

/-- Change the open entry of an index, oldest 0. -/
def Ply.mapEnt (p : Ply) (i : Nat) (f : DEntry → DEntry) : Ply :=
  let go (es : List DEntry) (i : Nat) : List DEntry := es.zipIdx.map fun x => if x.2 = i then f x.1 else x.1
  if i < p.ents.length then { p with ents := go p.ents i }
  else { p with hnd := p.hnd.map fun h => { h with ents := go h.ents (i - p.ents.length) } }

/-- Every open entry, oldest first. -/
def Ply.allEnts (p : Ply) : List DEntry := p.ents ++ match p.hnd with
  | some h => h.ents
  | none => []

/-- The place among all open entries of the running code's first one: 0, and past the interrupted code's in a handler (R224). -/
def Ply.entBase (p : Ply) : Nat := p.allEnts.length - p.divRoot.2.length

/-- The entry that must come back on chip before the ply goes on: the newest one in memory among the 16 newest and the innermost of the running
part (R91, R94). -/
def Ply.entDue (p : Ply) : Option Nat :=
  let es := p.allEnts
  let inner := (curInner p.divRoot.2 p.divRoot.1 0 none).map (· + p.entBase)
  (es.zipIdx.filter fun x => x.1.spilled && (es.length - 16 ≤ x.2 || inner == some x.2)).getLast?.map Prod.snd

/-- The newest entry in memory that a switch event would change: it comes back on chip first (R92, R94). -/
def State.switchDue (s : State) (pid : Nat) : Option Nat :=
  match s.ply? pid with
  | none => none
  | some p => match s.nextPart p with
    | none => none
    | some m =>
      let es := p.divRoot.2
      ((es.zip (focus s p es m)).zipIdx.filter fun x => x.1.1.spilled && x.1.1 != x.1.2).getLast?.map fun x => p.entBase + x.2

/-- The ply waits for entry i to come back on chip (R94). -/
def State.callEnt (s : State) (pid i : Nat) : State :=
  { s.updPly pid fun p => { p with wait := some (.frame i none) } with stall := true }

/-- A SWITCH EVENT of an instruction that does not retire (R92): what it would change in memory comes back first. An instruction that has begun
switches at once. -/
def State.trySwitch (s : State) (pid : Nat) : State :=
  match s.switchDue pid, (s.ply? pid).bind Ply.wait with
  | some i, none => s.callEnt pid i
  | _, _ => { s.switchPart pid with stall := true }

/-- The reconvergence point of the innermost open entry around the running part, for a RET (R222); in a trap handler only of the entries that the
handler opened, and none where it opened none (DESIGN CHOICE, log entry 148). -/
def Ply.innerRpc (p : Ply) : Option Addr :=
  let (root, es) := p.divRoot
  match curInner es root 0 none with
  | some i => (es[i]?).bind fun e => e.rpc
  | none => none

/-- An entry as the 16 bytes of its frame give it back (R94, R220): the lanes of a BRA entry are those of the part that split, the parts of a
CALLI entry those in the threads' PCs, a lane that no part of it held standing alone. -/
def DEntry.ofFrame (d : DEntry) (c : Ctx) (w : Nat) : DEntry :=
  let at' (n : Nat) : Addr := BitVec.ofNat 56 (codeBase c + 4 * n)
  let m : Mask := BitVec.ofNat 64 (fld w 63 0)
  if bit w 91 then
    { d with calli := true, lanes := m, rpc := if bit w 90 then none else some (at' (fld w 119 96)), cpc := at' (fld w 87 64), spilled := false,
             parts := (d.parts.map fun q => { q with lanes := q.lanes &&& m }) ++
               ((lanesOf m).filter fun l => !d.parts.any fun q => q.lanes.getLsbD l).map fun l => ⟨maskOf [l], 0⟩ }
  else
    let cur := b2n (bit w 90)
    let pc (i : Nat) : Addr := if i = cur then ((d.parts[i]?).map DPart.pc).getD 0 else at' (fld w 87 64)
    { d with calli := false, rpc := some (at' (fld w 119 96)), cur := cur, spilled := false,
             parts := [⟨d.lanes &&& ~~~m, pc 0⟩, ⟨d.lanes &&& m, pc 1⟩] }

/-- The frame of an entry (R94, R220). -/
def State.frameOf (s : State) (p : Ply) (e : DEntry) : Nat :=
  let c := s.ctx p.ctx
  let inner := p.allEnts.filter fun x => subMask x.lanes e.lanes && x.lanes != e.lanes
  let rpc := match e.rpc with
    | some r => codeOff c r.toNat
    | none => 0
  if e.calli then
    e.lanes.toNat + codeOff c e.cpc.toNat <<< 64 + b2n e.rpc.isNone <<< 90 + 1 <<< 91 + rpc <<< 96
  else
    let part (i : Nat) : DPart := (e.parts[i]?).getD ⟨0, 0⟩
    let other := part (1 - e.cur)
    (part 1).lanes.toNat + codeOff c (partKey s p inner other).toNat <<< 64
      + b2n (partStopped s p e inner (part 0)) <<< 88 + b2n (partStopped s p e inner (part 1)) <<< 89
      + (e.cur % 2) <<< 90 + rpc <<< 96

end Sys2Proof.Machine
end

