-- ==== Sys2Proof/Machine/Operands.lean ====
section
/-! DEFINITION. Operand forms (R22 to R27, R42): the value an operand reads in a lane, and the writing of destinations. -/

namespace Sys2Proof.Machine

/-- What an issuing instruction works on: the ply and its key, its PC, the active lanes of the running part, and the lanes that
execute (Exec of R111). -/
structure Env where
  pid  : Nat
  p    : Ply
  pc   : Addr
  act  : Mask
  exec : Mask
  deriving DecidableEq, Repr

/-- The executing lanes, ascending. -/
def Env.lanes (e : Env) : List Nat := lanesOf e.exec

/-- A special's value in a lane (R24). `clklo` in a 64-bit position gives the whole clock (R26). -/
def specialVal (s : State) (pid : Nat) (p : Ply) (l : Nat) (wide : Bool) : Special → Nat
  | .zero => 0
  | .lane => l
  | .tid => (p.tidAt l).getD 0
  | .ply => p.idx
  | .plyw => p.width
  | .skein => match s.skeins.get p.skein with
    | some k => k.idx
    | none => 0
  | .core => plyCore pid % 96
  | .quad => plyCore pid % 96 / 4
  | .die => plyCore pid / 96
  | .dev => s.mgmt.devidx
  | .part => plyPart pid
  | .clklo => if wide then s.clock % 2 ^ 64 else s.clock % 2 ^ 32
  | .clkhi => s.clock / 2 ^ 32 % 2 ^ 32
  | .ctxid => pktCtxid (s.ctx p.ctx)
  | .nplies => pktPlies (s.ctx p.ctx)
  | .nskein => pktSkeins (s.ctx p.ctx)
  | .slot => plySlot pid

/-- A v register's word in a lane. -/
def vWord (s : State) (p : Ply) (l n : Nat) : Nat := match p.tidAt l with
  | some t => (s.vReg p.skein t n).val.toNat
  | none => 0

/-- The value that operand `o` reads in lane l (R22, R23, R26): 64 bits where `wide`; `ty` is the type whose elements an inline
constant fills, `imm` the immediate already widened (R42). -/
def opVal (s : State) (pid : Nat) (p : Ply) (l : Nat) (wide : Bool) (ty : Ty) (imm : Nat) (o : Operand) : Nat :=
  match o with
  | .v n => if wide then vWord s p l n + vWord s p l (n + 1) * 2 ^ 32 else vWord s p l n
  | .s n => if wide then (s.sReg p n).val.toNat + (s.sReg p (n + 1)).val.toNat * 2 ^ 32 else (s.sReg p n).val.toNat
  | .int i => i
  | .fp i => inlineFor ty i
  | .special x => specialVal s pid p l wide x
  | .imm => imm
  | .reserved _ => 0

/-- The immediate of an arithmetic instruction: the whole of M, or imm16 widened as its type says (R42), and in a 64-bit position extended by
its sign from there (R26). -/
def immVal (whole wide : Bool) (ty : Ty) (f : Full) : Nat :=
  if whole then f.m.toNat
  else if wide && !ty64 ty then wrapNat 64 (sextInt 32 (widenImm ty (mAux f)))
  else widenImm ty (mAux f)

/-- An s block's words: s(A) to s(A + n - 1). -/
def sWords (s : State) (p : Ply) (o : Operand) (n : Nat) : List Word := match o with
  | .s k => (List.range n).map fun i => (s.sReg p (k + i)).val
  | _ => []

/-- The 64-bit value of an s pair. -/
def sPairVal (s : State) (p : Ply) (o : Operand) : Nat := match o with
  | .s k => (s.sReg p k).val.toNat + (s.sReg p (k + 1)).val.toNat * 2 ^ 32
  | _ => 0

/-- The words of a result of n 32-bit registers, lowest first. -/
def toWords (n x : Nat) : List Word := (List.range n).map fun i => BitVec.ofNat 32 (x >>> (32 * i))

/-- Write a destination: `scalar` gives the words of an s destination, `lane` those of each executing lane (R33, R112). D = `zero`
writes nothing (R25). -/
def writeD (s : State) (e : Env) (d : Operand) (scalar : List Word) (lane : Nat → List Word) : State :=
  match d with
  | .s n => s.writeS e.pid n scalar
  | .v n =>
    let ls := e.p.threadsOf e.exec
    s.updSkein e.p.skein fun k => { k with threads := ls.foldl (fun ts x =>
      Tbl.upd ts x.2 fun t => { t with regs := t.regs.write n (lane x.1) }) k.threads }
  | _ => s

/-- Mark a destination of `cnt` registers EMPTY for an operation, in the executing lanes (R30). -/
def emptyD (s : State) (e : Env) (op : Nat) (d : Operand) (cnt : Nat) : State :=
  match d with
  | .s n => s.emptyS e.pid op n cnt
  | .v n => s.updThreads e.p.skein ((e.p.threadsOf e.exec).map Prod.snd) fun _ t => { t with regs := t.regs.markEmpty n cnt op }
  | _ => s

end Sys2Proof.Machine
end

