-- ==== Sys2Proof/Machine/Flags.lean ====
section
/-! DEFINITION. Flag computations: FPX, its sticky flags and its CSR image (R79, R80), and the advance of RNGCTR (R74). -/

namespace Sys2Proof.Machine

/-- FPX takes the OR of the flags of the executing lanes and elements (R80). -/
def orFlags (fpx : Word) (fl : Flags) : Word := fpx ||| fl.zeroExtend 32

/-- FPX of a ply after an instruction (R80). -/
def State.raise (s : State) (pid : Nat) (fl : Flags) : State :=
  if fl = 0 then s else s.updPly pid fun p => { p with csr := { p.csr with fpx := orFlags p.csr.fpx fl } }

/-- RNGCTR advances once for the ply after an instruction that uses `.sr` or is RNG and has an executing lane (R74). -/
def State.bumpRng (s : State) (pid : Nat) (use : Bool) : State :=
  if use then s.updPly pid fun p => { p with csr := { p.csr with rngctr := p.csr.rngctr + 1 } } else s

/-- The random word of R73 for a lane and an element. -/
def laneSr (s : State) (p : Ply) (l k : Nat) : Nat :=
  srWord p.csr.rngseed.toNat p.csr.rngctr.toNat
    (match s.skeins.get p.skein with
     | some sk => sk.idx
     | none => 0) ((p.tidAt l).getD 0) k

/-- The OR of a list of flags. -/
def orAll (fs : List Flags) : Flags := fs.foldl (· ||| ·) 0

/-- FPX as CSRW leaves it: the reserved bits read 0 (R7, R79). -/
def fpxWrite (x : Word) : Word := x &&& 0x1F

end Sys2Proof.Machine
end

