-- ==== Sys2Proof/Machine/Issue.lean ====
section
/-! DEFINITION. The issue of an instruction (R31, R32, R35, R36, R61, R62, R86, R87, R92): legality, the guard, the register
states, the waits that hold an instruction back, its own effect, and retirement. Every instruction's meaning is this shared
operation with its form and its effect. -/

namespace Sys2Proof.Machine

/-- What an instruction's own effect gives: `done` retires at the next instruction; `moved` retires with the PCs already set;
`yield` retires at the next
instruction with a pending yield and is a switch event (R126); `nap` retires at the next instruction and leaves the ply not ready for n
issue slots (R126); `hold` begins an instruction in which the ply then waits; `stall` does not retire and is tried again; `switch` does
not retire and is a switch event (R92); `trap` traps (R105). -/
inductive Res where
  | done (s : State)
  | moved (s : State)
  | yield (s : State)
  | nap (s : State) (n : Nat)
  | hold (s : State)
  | stall (s : State)
  | switch (s : State)
  | trap (s : State) (t : Trap)

/-- What the checks before the register states find (R61, R101): the instruction goes on; it is refused with TRAPSUB 0x0A; or a tensor
entry that they need is not at hand, and the ply tries again. -/
inductive Pre where
  | go (s : State)
  | refuse
  | stall (s : State)

/-- The outcome of the register checks of R32. -/
inductive Chk where
  | ok
  | trap (t : Trap)
  | block
  deriving DecidableEq, Repr

/-- The registers of one range, each with the lanes that read it (R32). -/
def rangeRegs (s : State) (p : Ply) (lanes : Mask) (r : RegRead) : List (Mask × Reg) :=
  match r.op with
  | .v n => (List.range r.n).flatMap fun i => (p.threadsOf lanes).map fun x => (1#64 <<< x.1, s.vReg p.skein x.2 (n + i))
  | .s n => (List.range r.n).map fun i => (lanes, s.sReg p (n + i))
  | _ => []

/-- A FAULTED trap: the first faulted register decides TRAPSUB and TRAPSRC; the trapping lanes are those that read one (R32,
R105, R106). Where lanes hold different records of that register, the lowest lane's decides (DESIGN CHOICE, log entry 115). -/
def faultedTrap (c : Ctx) (fs : List (Mask × Reg)) : Option Trap :=
  match fs with
  | [] => none
  | (_, r) :: _ =>
    some { code := 0x103, sub := r.val.toNat % 256, lanes := fs.foldl (fun m x => m ||| x.1) 0, vas := [],
           src := some (BitVec.ofNat 56 (codeBase c + 4 * (r.val.toNat / 256))), resume := none }

/-- The registers of ranges in order, each for its lanes, with the mode bit of its range. -/
def regItems (s : State) (p : Ply) (rs : List (Mask × RegRead)) : List ((Mask × Reg) × Bool) :=
  rs.flatMap fun r => (rangeRegs s p r.1 r.2).map fun x => (x, r.2.mode)

/-- The checks of R32 over registers in order. -/
def checkItems (c : Ctx) (all : List ((Mask × Reg) × Bool)) : Chk :=
  match faultedTrap c ((all.filter fun x => x.1.2.st == .faulted).map Prod.fst) with
  | some t => .trap t
  | none =>
    let em := all.filter fun x => x.1.2.st == .empty
    let tr := em.filter fun x => x.2
    if !tr.isEmpty then .trap (Trap.plain 0x102 0 (tr.foldl (fun m x => m ||| x.1.1) 0))
    else if !em.isEmpty then .block
    else .ok

/-- Every register of ranges is FULL in the lanes of a mask. -/
def regsFull (s : State) (p : Ply) (lanes : Mask) (rs : List RegRead) : Bool :=
  (regItems s p (rs.map fun r => (lanes, r))).all fun x => x.1.2.st == .full

/-- The lanes whose guard is true (R36): a guard register that is not FULL makes no lane's guard true (R32). -/
def guardMask (s : State) (p : Ply) (g : Guard) (act : Mask) : Mask :=
  if !g.en then act
  else maskOf ((p.threadsOf act).filterMap fun x =>
    let r := s.vReg p.skein x.2 g.reg
    if r.st == .full && (r.val.getLsbD 0 != g.inv) then some x.1 else none)

/-- The guard register is read in every active lane (R32). -/
def guardReads (g : Guard) : List RegRead := if g.en then [⟨.v g.reg, 1, false⟩] else []

/-- Some register that the instruction would write is lent to the matrix engine in an executing lane (R86, R276). -/
def writesLent (s : State) (p : Ply) (exec : Mask) (ws : List (Operand × Nat)) : Bool :=
  let tids := (p.threadsOf exec).map Prod.snd
  ws.any fun w => match w.1 with
    | .v n => s.lent.any fun x => x.skein == p.skein && tids.contains x.tid && x.reg < n + w.2 && n < x.reg + x.n
    | _ => false

/-- The counter class is full (R18); an instruction that waits for an operation that it has already counted needs no more room. -/
def classFull (p : Ply) (c : Option Cls) : Bool := match c with
  | some k => p.full k && !(match p.wait with
    | some (.op id) => p.ops.any fun o => o.id == id
    | _ => false)
  | none => false

/-- What the pipeline needs to know of an instruction besides its effect. -/
structure Spec where
  causes : List Nat
  guard  : Guard
  reads  : List RegRead
  writes : List (Operand × Nat)
  cls    : Option Cls
  size   : Nat
  seq    : Bool
  yld    : Bool
  jw     : Nat
  own    : List (Reg × Bool) := []
  deriving DecidableEq, Repr

/-- Every register that an instruction checks at issue (R32): the guard in the active lanes, then the operands in the lanes whose guard is
true, and none of these where there is no such lane. `own` are registers of one lane that every executing lane reads (R153). -/
def issueRegs (s : State) (p : Ply) (act ex : Mask) (sp : Spec) : Chk :=
  checkItems (s.ctx p.ctx) (regItems s p ((guardReads sp.guard).map fun r => (act, r)) ++
    if ex = 0 then [] else sp.own.map (fun x => ((ex, x.1), x.2)) ++ regItems s p (sp.reads.map fun r => (ex, r)))

/-- What retirement does to the ply itself (R39, R87): S returns to 0, a pending yield is cleared or set by the hint, the wait ends, a join
window begins. -/
def retired (s : State) (pid : Nat) (sp : Spec) : State :=
  s.updPly pid fun p => { p with
    starve := 0, yld := sp.yld, wait := none, ripe := false,
    hold := if sp.jw = 0 then none else some (2 * sp.jw) }

/-- Retirement of what the instruction did; then parts park, finish and pop (R91). -/
def retire (s : State) (pid : Nat) (sp : Spec) : State := (retired s pid sp).settlePly pid

/-- A ply after a YIELD (R92): the instruction has retired, and what could pop has popped. -/
def yielded (e : Env) (sp : Spec) (t : State) : State :=
  (retired (t.setPc e.p e.act (e.pc + BitVec.ofNat 56 sp.size)) e.pid { sp with yld := true }).popPly e.pid

/-- Put what an instruction's effect gives into the state. -/
def finish (e : Env) (sp : Spec) : Res → State
  | .done t => retire (t.setPc e.p e.act (e.pc + BitVec.ofNat 56 sp.size)) e.pid sp
  | .moved t => retire t e.pid sp
  | .yield t =>
    match (yielded e sp t).switchDue e.pid, e.p.wait with
    | some i, none => t.callEnt e.pid i
    | _, _ => ((yielded e sp t).switchPart e.pid).settlePly e.pid
  | .nap t n => (retire (t.setPc e.p e.act (e.pc + BitVec.ofNat 56 sp.size)) e.pid sp).updPly e.pid fun p => { p with wait := some (.sleep n) }
  | .hold t => t.updPly e.pid fun p => { p with starve := 0, yld := false }
  | .stall t => { t with stall := true }
  | .switch t => t.trySwitch e.pid
  | .trap t tr => t.takeTrap e.pid tr

/-- The causes that the encoding and the code window decide (R31, R62). An instruction after which a lane would go on past the window counts R31's
cause also where its encoding is malformed; the target of a malformed transfer counts none (DESIGN CHOICE, log entry 141). -/
def issueCauses (sp : Spec) (c : Ctx) (pc : Addr) : List Nat :=
  sp.causes ++ if sp.seq && !inWindow c (pc + BitVec.ofNat 56 sp.size).toNat then [1] else []

/-- ISSUE, after the checks that no register decides: the registers, the waits, then the effect `body` on the executing lanes. -/
def issueRest (sp : Spec) (body : Env → State → Res) (e0 : Env) (s : State) : State :=
  let ex := guardMask s e0.p sp.guard e0.act
  let e : Env := { e0 with exec := ex }
  match issueRegs s e0.p e0.act ex sp with
  | .trap t => finish e sp (.trap s t)
  | .block => finish e sp (.switch s)
  | .ok =>
    if ex != 0 && (writesLent s e0.p ex sp.writes || classFull e0.p sp.cls) then finish e sp (.stall s)
    else finish e sp (body e s)

/-- ISSUE. The checks in their order, then the effect `body` on the executing lanes. `early` gives a refusal that no register
decides; it is taken before the guard is read (R61, R101). -/
def issue (sp : Spec) (early : Env → State → Pre) (body : Env → State → Res) (s : State) : Out :=
  match s.sel with
  | none => .fault .noIssuingPly
  | some pid => match s.ply? pid with
    | none => .fault .noIssuingPly
    | some p =>
      let e0 : Env := { pid := pid, p := p, pc := s.plyPc p, act := p.active, exec := 0 }
      match minCause (issueCauses sp (s.ctx p.ctx) e0.pc) with
      | some k => .next (finish e0 sp (.trap s (Trap.plain 0x100 k e0.act)))
      | none => match early e0 s with
        | .refuse => .next (finish e0 sp (.trap s (Trap.plain 0x100 0x0A e0.act)))
        | .stall t => .next (finish e0 sp (.stall t))
        | .go t => .next (issueRest sp body e0 t)

/-- No early refusal. -/
def noEarly : Env → State → Pre := fun _ s => .go s
/-- A refusal under a condition (R101). -/
def refuseIf (c : Env → State → Bool) : Env → State → Pre := fun e s => if c e s then .refuse else .go s
/-- One check after another. -/
def preThen (a b : Env → State → Pre) : Env → State → Pre := fun e s => match a e s with
  | .go t => b e t
  | r => r

/-- A refusal for operand values (R61, R101): before the guard and the other registers, as soon as the s registers that hold the values are
FULL; `bad` looks at them (DEDUCED, log entry 21). -/
def refuseVals (rs : List RegRead) (bad : Env → State → Bool) : Env → State → Pre := fun e s =>
  if regsFull s e.p e.act rs && bad e s then .refuse else .go s

/-- A check that an instruction passes once: not made again while its ply waits for the operation that it has begun. -/
def preFirst (k : Env → State → Pre) : Env → State → Pre := fun e s => match e.p.wait with
  | some (.op _) => .go s
  | _ => k e s

/-- The ply that issues, for what an instruction's form depends on: its registers per thread and its width. -/
def selAlloc (s : State) : Nat × Nat :=
  match s.sel.bind s.ply? with
  | some p => (pktRegs (s.ctx p.ctx), p.width)
  | none => (0, 64)

/-- The pipeline data of a full form. -/
def fullSpec (s : State) (fm : Form) (cls : Option Cls) (seq : Bool) (f : Full) : Spec :=
  let (alloc, w) := selAlloc s
  { causes := formCauses alloc w fm f, guard := f.g, reads := formReads w fm f, writes := formWrites w fm f, cls := cls,
    size := 12, seq := seq, yld := bit f.h.toNat 5, jw := fld f.h.toNat 4 2 }

/-- Issue a full form all of whose lanes go on to the next instruction. -/
def issueFull (fm : Form) (cls : Option Cls) (body : Env → State → Res) (f : Full) (s : State) : Out :=
  issue (fullSpec s fm cls true f) noEarly body s

/-- The same, where the instruction names an entry or a resource that is checked before the registers (R61, R101). -/
def issueFullPre (early : Env → State → Pre) (fm : Form) (cls : Option Cls) (body : Env → State → Res) (f : Full) (s : State) : Out :=
  issue (fullSpec s fm cls true f) (preFirst early) body s

/-- Some CAPS of the topology table names a unit (R436, R437); a port that has timed out names none (R434). -/
def State.hasUnit (s : State) (b : Nat) : Bool := s.dl.any fun e => e.2.st != 5 && bit e.2.caps b

/-- ILLOP with TRAPSUB 0x0A where the unit of an engine instruction is absent (R437), and in reduced service for the collective,
receive and fabric instructions (R449). -/
def unitEarly (b : Nat) : Env → State → Pre := refuseIf fun _ s => !(s.hasUnit b && !(1 < b && s.mgmt.reduced))

/-- Issue an instruction of a unit: 1 work, 2 switch, 3 collective, 4 receive (R436). -/
def issueUnit (b : Nat) (fm : Form) (cls : Option Cls) (body : Env → State → Res) (f : Full) (s : State) : Out :=
  issue (fullSpec s fm cls true f) (unitEarly b) body s

/-- The same, where the instruction names an entry or a resource that is checked before the registers (R61, R101). -/
def issueUnitPre (b : Nat) (early : Env → State → Pre) (fm : Form) (cls : Option Cls) (body : Env → State → Res) (f : Full) (s : State) : Out :=
  issue (fullSpec s fm cls true f) (preThen (unitEarly b) (preFirst early)) body s

/-- The effect runs only when some lane executes (R36). -/
def whenExec (body : Env → State → Res) (e : Env) (s : State) : Res := if e.exec = 0 then .done s else body e s

/-- The effect of an instruction that always completes. -/
def always (g : Env → State → State) (e : Env) (s : State) : Res := if e.exec = 0 then .done s else .done (g e s)

/-- The ply waits in its instruction: the first time it begins, later it is tried again (R86). -/
def waitIn (e : Env) (w : Wait) (s : State) : Res :=
  match e.p.wait with
  | none => .hold (s.updPly e.pid fun p => { p with wait := some w })
  | some _ => .stall s

/-- A trap of the executing lanes without an address. -/
def trapExec (e : Env) (code sub : Nat) (s : State) : Res := .trap s (Trap.plain code sub e.exec)

/-- A trap of the executing lanes, each concerned with one address. -/
def trapAt (e : Env) (code sub va : Nat) (s : State) : Res :=
  .trap s { Trap.plain code sub e.exec with vas := e.lanes.map fun l => (l, BitVec.ofNat 56 va) }

/-- ILLOP with TRAPSUB 0x0A where the resource that an instruction names is gone: the check before the registers has refused it already (R61,
R101), so that no run comes here. -/
def refuseIssue (e : Env) (s : State) : Res := .trap s (Trap.plain 0x100 0x0A e.act)

end Sys2Proof.Machine
end

