-- ==== Sys2Proof/Machine/Alu.lean ====
section
/-! DEFINITION. The shared execution of the arithmetic classes (R111 to R113): operand reading, one result per lane, the FPX
flags and the random counter. -/

namespace Sys2Proof.Machine

/-- How an arithmetic instruction reads its operands and writes D: the type its constants and immediate take (R23, R42), whether
M is the whole immediate, which of A, B and D are 64-bit, the registers of the result, the types A is read in when it differs. -/
structure Alu where
  ty    : Ty
  tyA   : Ty
  whole : Bool := false
  wa    : Bool := false
  wb    : Bool := false
  wd    : Bool := false
  n     : Nat := 1
  sr    : Bool := false
  deriving DecidableEq, Repr

/-- An arithmetic instruction on one type. -/
def alu (f : Full) : Alu := { ty := mTyD f, tyA := mTyD f }

/-- The operand values of one lane: A, B, D, the random words by element, and the lane. -/
structure LaneIn where
  a  : Nat
  b  : Nat
  d  : Nat
  sr : Nat → Nat
  l  : Nat

/-- Read the operands of one lane (R111). -/
def laneIn (s : State) (e : Env) (x : Alu) (f : Full) (l : Nat) : LaneIn :=
  { a := opVal s e.pid e.p l x.wa x.tyA (immVal x.whole x.wa x.tyA f) f.a
    b := opVal s e.pid e.p l x.wb x.ty (immVal x.whole x.wb x.ty f) f.b
    d := opVal s e.pid e.p l x.wd x.ty 0 f.d
    sr := fun k => laneSr s e.p l k
    l := l }

/-- The effect of an arithmetic instruction: results and flags of every executing lane are computed before any is written
(R112); a scalar instruction computes once. -/
def aluDo (x : Alu) (fn : LaneIn → Nat × Flags) (f : Full) (e : Env) (s : State) : State :=
  let ls := match f.d with
    | .v _ => e.lanes
    | _ => if perLane f.a || perLane f.b then e.lanes else e.lanes.take 1
  let rs := ls.map fun l => (l, fn (laneIn s e x f l))
  let words (l : Nat) : List Word := match rs.find? fun r => r.1 == l with
    | some r => toWords x.n r.2.1
    | none => []
  let first := match rs with
    | r :: _ => toWords x.n r.2.1
    | [] => []
  let t := writeD s e f.d first words
  (t.raise e.pid (orAll (rs.map fun r => r.2.2))).bumpRng e.pid x.sr

/-- Issue an arithmetic instruction. -/
def aluExec (fm : Form) (x : Alu) (fn : LaneIn → Nat × Flags) (f : Full) (s : State) : Out :=
  issueFull fm none (always (aluDo x fn f)) f s

/-- A result without flags. -/
def noFlags (g : LaneIn → Nat) (i : LaneIn) : Nat × Flags := (g i, 0)

end Sys2Proof.Machine
end

