-- ==== Sys2Proof/Machine/IntOps.lean ====
section
/-! DEFINITION. Integer and bit instructions (R135 to R141). -/

namespace Sys2Proof.Machine

/-! ## Results on one lane -/

/-- A binary operation on exact integers, wrapped or clamped into TY (R136). -/
def intBin (op : Int → Int → Int) (ty : Ty) (sat : Bool) (a b : Nat) : Nat := intWrite ty sat (op (extInt ty a) (extInt ty b))
/-- IMAD (R136). -/
def imadVal (ty : Ty) (sat : Bool) (a b d : Nat) : Nat := intWrite ty sat (extInt ty a * extInt ty b + extInt ty d)
/-- IMULH: bits [63:32] of the exact product (R136). -/
def imulhVal (ty : Ty) (a b : Nat) : Nat := wrapNat 64 (extInt ty a * extInt ty b) / 2 ^ 32
/-- IMADW: the 64-bit type of the same signedness (R136). -/
def imadwVal (ty : Ty) (sat : Bool) (a b d : Nat) : Nat :=
  let t64 : Ty := if tySigned ty then .s64 else .n64
  intWrite t64 sat (extInt ty a * extInt ty b + extInt t64 d)
/-- IABS (R136). -/
def iabsVal (ty : Ty) (sat : Bool) (a : Nat) : Nat := intWrite ty sat ((extInt ty a).natAbs : Int)
/-- ICMP, ICMPW (R137). -/
def icmpNat (c : Cmp) (ty : Ty) (a b : Nat) : Nat := b2n (icmpVal c (extInt ty a) (extInt ty b))
/-- Logical shifts on w bits: 0 from w on (R138). -/
def shlVal (w a n : Nat) : Nat := if w ≤ n then 0 else a <<< n % 2 ^ w
/-- Logical right shift (R138). -/
def shrVal (w a n : Nat) : Nat := if w ≤ n then 0 else (a % 2 ^ w) >>> n
/-- Arithmetic right shift (R138). -/
def sarVal (a n : Nat) : Nat := wrapNat 32 (sextInt 32 a / ((2 ^ min n 32 : Nat) : Int))
/-- Rotate left by n mod 32 (R138). -/
def rotlVal (a n : Nat) : Nat := (a <<< (n % 32) ||| (a % 2 ^ 32) >>> (32 - n % 32)) % 2 ^ 32
/-- BFX (R139). -/
def bfxVal (ty : Ty) (pos width a : Nat) : Nat :=
  let wide := if tySigned ty then wrapNat 64 (sextInt 32 a) else a % 2 ^ 32
  let x := wide >>> pos % 2 ^ width
  if tySigned ty then wrapNat 32 (sextInt width x) else x
/-- BFI (R139). -/
def bfiVal (pos width a d : Nat) : Nat :=
  let mask := (2 ^ width - 1) <<< pos % 2 ^ 32
  (d &&& (0xFFFFFFFF - mask)) ||| (a <<< pos &&& mask)
/-- BPICK (R139). -/
def bpickVal (sfill : Bool) (sel a b : Nat) : Nat :=
  (List.range 4).foldl (fun r i =>
    let x := (a % 2 ^ 32 + b % 2 ^ 32 * 2 ^ 32) >>> (8 * (sel >>> (3 * i) % 8)) % 256
    let y := if bit sel (12 + i) then (if sfill then (if bit x 7 then 255 else 0) else 0) else x
    r + y <<< (8 * i)) 0
/-- LEA (R141). -/
def leaVal (ty : Ty) (sh a b : Nat) : Nat := wrapNat 64 ((a : Int) + extInt ty b * ((2 ^ sh : Nat) : Int))

/-! ## The instructions -/

/-- IADD (R136). -/
def execIadd (f : Full) (s : State) : Out :=
  aluExec (formIntArith f) (alu f) (noFlags fun i => intBin (· + ·) (mTyD f) (mSat f) i.a i.b) f s
/-- ISUB (R136). -/
def execIsub (f : Full) (s : State) : Out :=
  aluExec (formIntArith f) (alu f) (noFlags fun i => intBin (· - ·) (mTyD f) (mSat f) i.a i.b) f s
/-- IMUL (R136). -/
def execImul (f : Full) (s : State) : Out :=
  aluExec (formIntArith f) (alu f) (noFlags fun i => intBin (· * ·) (mTyD f) (mSat f) i.a i.b) f s
/-- IADDW and ISUBW read and write pairs. -/
def aluWide (f : Full) : Alu := { alu f with wa := true, wb := true, n := 2 }
/-- IADDW (R136). -/
def execIaddw (f : Full) (s : State) : Out :=
  aluExec (formIntWide f) (aluWide f) (noFlags fun i => intBin (· + ·) (mTyD f) (mSat f) i.a i.b) f s
/-- ISUBW (R136). -/
def execIsubw (f : Full) (s : State) : Out :=
  aluExec (formIntWide f) (aluWide f) (noFlags fun i => intBin (· - ·) (mTyD f) (mSat f) i.a i.b) f s
/-- IMULH (R136). -/
def execImulh (f : Full) (s : State) : Out :=
  aluExec (formImulh f) (alu f) (noFlags fun i => imulhVal (mTyD f) i.a i.b) f s
/-- IMAD (R136). -/
def execImad (f : Full) (s : State) : Out :=
  aluExec (formImad f) (alu f) (noFlags fun i => imadVal (mTyD f) (mSat f) i.a i.b i.d) f s
/-- IMADW (R136). -/
def execImadw (f : Full) (s : State) : Out :=
  aluExec (formImadw f) { alu f with wd := true, n := 2 } (noFlags fun i => imadwVal (mTyD f) (mSat f) i.a i.b i.d) f s
/-- IMIN (R136). -/
def execImin (f : Full) (s : State) : Out :=
  aluExec (formIminmax f) (alu f) (noFlags fun i => intBin min (mTyD f) false i.a i.b) f s
/-- IMAX (R136). -/
def execImax (f : Full) (s : State) : Out :=
  aluExec (formIminmax f) (alu f) (noFlags fun i => intBin max (mTyD f) false i.a i.b) f s
/-- IABS (R136). -/
def execIabs (f : Full) (s : State) : Out :=
  aluExec (formIabs f) (alu f) (noFlags fun i => iabsVal (mTyD f) (mSat f) i.a) f s
/-- ICMP (R137). -/
def execIcmp (f : Full) (s : State) : Out :=
  aluExec (formIcmp f) (alu f) (noFlags fun i => icmpNat (mCmp f) (mTyD f) i.a i.b) f s
/-- ICMPW (R137). -/
def execIcmpw (f : Full) (s : State) : Out :=
  aluExec (formIcmpw f) { alu f with wa := true, wb := true } (noFlags fun i => icmpNat (mCmp f) (mTyD f) i.a i.b) f s
/-- SEL's effect: C chooses between A and B, bits unchanged (R137). -/
def selDo (f : Full) (e : Env) (s : State) : State :=
  let w := ty64' f
  let x : Alu := { alu f with wa := w, wb := w, n := if w then 2 else 1 }
  let pick (i : LaneIn) : Nat := if bit (opVal s e.pid e.p i.l false .s32 0 (selC f)) 0 then i.a else i.b
  if perLane (selC f) && !perLane f.a && !perLane f.b then
    writeD s e f.d [] fun l => toWords x.n (pick (laneIn s e x f l))
  else aluDo x (noFlags pick) f e s
/-- SEL (R137). -/
def execSel (f : Full) (s : State) : Out := issueFull (formSel f) none (always (selDo f)) f s
/-- The logic instructions take all of M as immediate (R42). -/
def aluLogic (f : Full) : Alu := { ty := .s32, tyA := .s32, whole := wholeImm f }
/-- AND (R138). -/
def execAnd (f : Full) (s : State) : Out := aluExec (formLogic f) (aluLogic f) (noFlags fun i => i.a &&& i.b) f s
/-- OR (R138). -/
def execOr (f : Full) (s : State) : Out := aluExec (formLogic f) (aluLogic f) (noFlags fun i => i.a ||| i.b) f s
/-- XOR (R138). -/
def execXor (f : Full) (s : State) : Out := aluExec (formLogic f) (aluLogic f) (noFlags fun i => i.a ^^^ i.b) f s
/-- ANDN (R138). -/
def execAndn (f : Full) (s : State) : Out :=
  aluExec (formLogic f) (aluLogic f) (noFlags fun i => i.a &&& (0xFFFFFFFF - i.b % 2 ^ 32)) f s
/-- SHL (R138). -/
def execShl (f : Full) (s : State) : Out := aluExec (formShift f) (alu f) (noFlags fun i => shlVal 32 i.a i.b) f s
/-- SHR (R138). -/
def execShr (f : Full) (s : State) : Out := aluExec (formShift f) (alu f) (noFlags fun i => shrVal 32 i.a i.b) f s
/-- SAR (R138). -/
def execSar (f : Full) (s : State) : Out := aluExec (formShift f) (alu f) (noFlags fun i => sarVal i.a i.b) f s
/-- SHLW (R138). -/
def execShlw (f : Full) (s : State) : Out :=
  aluExec (formShiftWide f) { alu f with wa := true, n := 2 } (noFlags fun i => shlVal 64 i.a i.b) f s
/-- SHRW (R138). -/
def execShrw (f : Full) (s : State) : Out :=
  aluExec (formShiftWide f) { alu f with wa := true, n := 2 } (noFlags fun i => shrVal 64 i.a i.b) f s
/-- ROTL (R138). -/
def execRotl (f : Full) (s : State) : Out := aluExec (formShift f) (alu f) (noFlags fun i => rotlVal i.a i.b) f s
/-- POPC (R138). -/
def execPopc (f : Full) (s : State) : Out := aluExec (formCount f) (alu f) (noFlags fun i => popN 32 i.a) f s
/-- CLZ (R138). -/
def execClz (f : Full) (s : State) : Out := aluExec (formCount f) (alu f) (noFlags fun i => clzN 32 i.a) f s
/-- BREV (R138). -/
def execBrev (f : Full) (s : State) : Out := aluExec (formCount f) (alu f) (noFlags fun i => brevN 32 i.a) f s
/-- BFX (R139). -/
def execBfx (f : Full) (s : State) : Out :=
  aluExec (formBfx f) (alu f) (noFlags fun i => bfxVal (mTyD f) (mf f 4 0) (mf f 10 5) i.a) f s
/-- BFI (R139). -/
def execBfi (f : Full) (s : State) : Out :=
  aluExec (formBfi f) (alu f) (noFlags fun i => bfiVal (mf f 4 0) (mf f 10 5) i.a i.d) f s
/-- BPICK (R139). -/
def execBpick (f : Full) (s : State) : Out :=
  aluExec (formBpick f) (alu f) (noFlags fun i => bpickVal (mEx f) (mAux f) i.a i.b) f s
/-- MOV (R140). -/
def execMov (f : Full) (s : State) : Out :=
  let w := !wholeImm f && ty64' f
  aluExec (formMov f) { aluLogic f with wa := w, n := if w then 2 else 1 } (noFlags fun i => i.a) f s
/-- MOVI (R140). -/
def execMovi (f : Full) (s : State) : Out := aluExec (formMovi f) (aluLogic f) (noFlags fun i => i.a) f s
/-- LEA's effect (R141): with `.pc` the sum of the PC and 4 x sext(imm16). -/
def leaDo (f : Full) (e : Env) (s : State) : State :=
  if mEx f then
    let x := wrapNat 64 ((e.pc.toNat : Int) + 4 * sextInt 16 (mAux f))
    writeD s e f.d (toWords 2 x) fun _ => toWords 2 x
  else aluDo { alu f with wa := true, n := 2 } (noFlags fun i => leaVal (mTyD f) (mf f 2 0) i.a i.b) f e s
/-- LEA (R141). -/
def execLea (f : Full) (s : State) : Out := issueFull (formLea f) none (always (leaDo f)) f s

end Sys2Proof.Machine
end

