-- ==== Sys2Proof/Machine/FloatOps.lean ====
section
/-! DEFINITION. Floating-point, packed 16-bit, conversion, packing and random instructions (R142 to R150), but for CVTS, which
reads a tensor identifier and stands in Machine/Cvts.lean. -/

namespace Sys2Proof.Machine

/-! ## Results on one lane -/

/-- Rounding data of an instruction: mode and `.sat`. -/
structure RmSat where
  rm  : Rm
  sat : Bool
  deriving DecidableEq, Repr

/-- RM and SAT of M. -/
def rmSat (f : Full) : RmSat := ⟨mRm f, mSat f⟩
/-- The defaults of a pair half (R38). -/
def rmSatDefault : RmSat := ⟨.rne, false⟩

/-- Round an exact result with its own flags into a type (R111 Rnd). -/
def rndF (ty : Ty) (r : RmSat) (w : Nat) (x : FVal × Flags) : Nat × Flags :=
  let y := rnd ty r.rm r.sat w x.1
  (y.1, y.2 ||| x.2)

/-- FADD on codes of a type (R142, R146). -/
def faddVal (ty : Ty) (r : RmSat) (w a b : Nat) : Nat × Flags :=
  rndF ty r w ((decodeF ty a).add (r.rm == .rd) (decodeF ty b))
/-- FMUL (R142, R146). -/
def fmulVal (ty : Ty) (r : RmSat) (w a b : Nat) : Nat × Flags := rndF ty r w ((decodeF ty a).mul (decodeF ty b))
/-- FFMA: the product unrounded; 0 x infinity is invalid even when the addend is a NaN (R142). -/
def ffmaVal (ty : Ty) (r : RmSat) (w a b d : Nat) : Nat × Flags :=
  let p := (decodeF ty a).mul (decodeF ty b)
  let q := p.1.add (r.rm == .rd) (decodeF ty d)
  rndF ty r w (q.1, q.2 ||| p.2)
/-- FSCALE: A x 2^Ext(B) (R142). The exponent is cut to a range beyond every FP32 result. -/
def fscaleVal (r : RmSat) (a b : Nat) : Nat × Flags :=
  let k := sextInt 32 b
  let k' : Int := if k < -1000 then -1000 else if 1000 < k then 1000 else k
  rndF .f32 r 0 ((f32 a).mul (.fin false 1 1 k'))
/-- FMIN, FMAX on codes (R143). -/
def fmnmx (ty : Ty) (mx : Bool) (a b : Nat) : Nat := match fmtOf ty with
  | some fm => fminmax fm mx (a % 2 ^ tyBits ty) (b % 2 ^ tyBits ty)
  | none => 0
/-- FCMP (R143). -/
def fcmpNat (c : Cmp) (a b : Nat) : Nat := b2n (fcmpVal c (f32 a) (f32 b))
/-- FRND (R144). -/
def frndVal (rm : Rm) (a : Nat) : Nat × Flags :=
  match f32 a with
  | .nan => (0x7FC00000, 0)
  | .inf _ => (a, 0)
  | .fin neg num den e =>
    if num = 0 then (a, 0)
    else if 24 ≤ log2Q num den + e then (a, 0)
    else
      let (v, nx) := roundInt rm neg num den e
      ((rnd .f32 .rne false 0 (.fin neg v.natAbs 1 0)).1, if nx then flagNX else 0)
/-- One special function of correctly rounded results (R78). -/
def frootVal (g : FVal → FVal × Flags) (r : RmSat) (a : Nat) : Nat × Flags := rndF .f32 r 0 (g (f32 a))
/-- Two 16-bit elements, each computed from its own operands, element 0 in the low half (R146). -/
def pack2 (g : Nat → Nat × Flags) : Nat × Flags :=
  let x := g 0
  let y := g 1
  (x.1 + y.1 <<< 16, x.2 ||| y.2)
/-- Element e of a packed pair. -/
def half (x e : Nat) : Nat := x >>> (16 * e) % 2 ^ 16
/-- CVT between floating-point and integer types (R147). -/
def cvtVal (dst src : Ty) (r : RmSat) (w x : Nat) : Nat × Flags :=
  if tyInt src then
    if tyInt dst then (intWrite dst r.sat (extInt src x), 0)
    else rndF dst r w (.ofInt (extInt src x), 0)
  else
    let v := decodeF src (x % 2 ^ tyBits src)
    if tyInt dst then
      let y := floatToInt dst r.rm v
      (intWrite dst false y.1, y.2)
    else if dst = src then match v with
      | .nan => (match fmtOf dst with
          | some fm => fm.nan.getD 0
          | none => 0xFF, 0)
      | .inf _ => rndF dst r w (v, 0)
      | .fin .. => (x % 2 ^ tyBits src, 0)
    else rndF dst r w (v, 0)
/-- The 32-bit random value of R150. -/
def rngVal (sr : Nat → Nat) : Nat := sr 1 * 65536 + sr 0
/-- `.f32` of RNG: shifted right by 8 and scaled by 2^-24, exactly (R150). -/
def rngF32 (sr : Nat → Nat) : Nat := (rnd .f32 .rne false 0 (.fin false (rngVal sr / 256) 1 (-24))).1

/-! ## The instructions -/

/-- An arithmetic instruction that may use `.sr`. -/
def aluSr (f : Full) : Alu := { alu f with sr := mRm f == .sr }

/-- FADD (R142). -/
def execFadd (f : Full) (s : State) : Out :=
  aluExec (formFarith f) (aluSr f) (fun i => faddVal .f32 (rmSat f) (i.sr 0) i.a i.b) f s
/-- FMUL (R142). -/
def execFmul (f : Full) (s : State) : Out :=
  aluExec (formFarith f) (aluSr f) (fun i => fmulVal .f32 (rmSat f) (i.sr 0) i.a i.b) f s
/-- FFMA (R142). -/
def execFfma (f : Full) (s : State) : Out :=
  aluExec (formFfma f) (aluSr f) (fun i => ffmaVal .f32 (rmSat f) (i.sr 0) i.a i.b i.d) f s
/-- FSCALE (R142): B is an integer, so an immediate or constant there is read as such. -/
def execFscale (f : Full) (s : State) : Out :=
  aluExec (formFscale f) (alu f) (fun i => fscaleVal (rmSat f) i.a i.b) f s
/-- FMIN (R143). -/
def execFmin (f : Full) (s : State) : Out :=
  aluExec (formFminmax f) (alu f) (noFlags fun i => fmnmx .f32 false i.a i.b) f s
/-- FMAX (R143). -/
def execFmax (f : Full) (s : State) : Out :=
  aluExec (formFminmax f) (alu f) (noFlags fun i => fmnmx .f32 true i.a i.b) f s
/-- FCMP (R143). -/
def execFcmp (f : Full) (s : State) : Out :=
  aluExec (formFcmp f) (alu f) (noFlags fun i => fcmpNat (mCmp f) i.a i.b) f s
/-- FCLASS (R144). -/
def execFclass (f : Full) (s : State) : Out := aluExec (formFclass f) (alu f) (noFlags fun i => fclass i.a) f s
/-- FRND (R144). -/
def execFrnd (f : Full) (s : State) : Out := aluExec (formFrnd f) (alu f) (fun i => frndVal (mRm f) i.a) f s
/-- FRCP (R78, R145). -/
def execFrcp (f : Full) (s : State) : Out := aluExec (formFroot f) (alu f) (fun i => frootVal frcpVal (rmSat f) i.a) f s
/-- FRSQ (R78, R145). -/
def execFrsq (f : Full) (s : State) : Out := aluExec (formFroot f) (alu f) (fun i => frootVal frsqVal (rmSat f) i.a) f s
/-- FSQRT (R78, R145). -/
def execFsqrt (f : Full) (s : State) : Out := aluExec (formFroot f) (alu f) (fun i => frootVal fsqrtVal (rmSat f) i.a) f s
/-- FEX2 (R78, R145). -/
def execFex2 (f : Full) (s : State) : Out := aluExec (formFex2 f) (alu f) (fun i => fex2 (mSat f) i.a) f s
/-- FLG2 (R78, R145). -/
def execFlg2 (f : Full) (s : State) : Out := aluExec (formFtrans f) (alu f) (fun i => flg2 i.a) f s
/-- FSIN (R78, R145). -/
def execFsin (f : Full) (s : State) : Out := aluExec (formFtrans f) (alu f) (fun i => fsin i.a) f s
/-- FCOS (R78, R145). -/
def execFcos (f : Full) (s : State) : Out := aluExec (formFtrans f) (alu f) (fun i => fcos i.a) f s
/-- FTANH (R78, R145). -/
def execFtanh (f : Full) (s : State) : Out := aluExec (formFtrans f) (alu f) (fun i => ftanh i.a) f s
/-- HADD2 (R146). -/
def execHadd2 (f : Full) (s : State) : Out :=
  aluExec (formHarith f) (aluSr f) (fun i => pack2 fun e => faddVal (mTyD f) (rmSat f) (i.sr e) (half i.a e) (half i.b e)) f s
/-- HMUL2 (R146). -/
def execHmul2 (f : Full) (s : State) : Out :=
  aluExec (formHarith f) (aluSr f) (fun i => pack2 fun e => fmulVal (mTyD f) (rmSat f) (i.sr e) (half i.a e) (half i.b e)) f s
/-- HFMA2 (R146). -/
def execHfma2 (f : Full) (s : State) : Out :=
  aluExec (formHfma2 f) (aluSr f)
    (fun i => pack2 fun e => ffmaVal (mTyD f) (rmSat f) (i.sr e) (half i.a e) (half i.b e) (half i.d e)) f s
/-- HMNMX2 (R146). -/
def execHmnmx2 (f : Full) (s : State) : Out :=
  aluExec (formHmnmx2 f) (alu f)
    (fun i => pack2 fun e => (fmnmx (mTyD f) (mEx f) (half i.a e) (half i.b e), 0)) f s
/-- CVT's operands: A in the source type, D in the destination type (R147). -/
def aluCvt (f : Full) : Alu :=
  { aluSr f with tyA := (mTy2 f).getD .f32, wa := ty64s f, n := if ty64' f then 2 else 1 }
/-- CVT (R147). -/
def execCvt (f : Full) (s : State) : Out :=
  aluExec (formCvt f) (aluCvt f) (fun i => cvtVal (mTyD f) ((mTy2 f).getD .f32) (rmSat f) (i.sr 0) i.a) f s
/-- The word of the i-th consecutive source register. -/
def opWord (s : State) (e : Env) (l : Nat) (o : Operand) (i : Nat) : Nat := match o with
  | .v n => vWord s e.p l (n + i)
  | .s n => (s.sReg e.p (n + i)).val.toNat
  | _ => 0
/-- PACK4 and PACK8: the low w bits of n consecutive registers (R149). -/
def packDo (n w : Nat) (f : Full) (e : Env) (s : State) : State :=
  aluDo (alu f) (noFlags fun i => (List.range n).foldl (fun r k => r + (opWord s e i.l f.a k % 2 ^ w) <<< (w * k)) 0) f e s
/-- PACK4 (R149). -/
def execPack4 (f : Full) (s : State) : Out := issueFull (formPack tysPack4 4 f) none (always (packDo 4 8 f)) f s
/-- PACK8 (R149). -/
def execPack8 (f : Full) (s : State) : Out := issueFull (formPack tysPack8 8 f) none (always (packDo 8 4 f)) f s
/-- UNPK4: byte i, sign-extended for `.s8` (R149). -/
def unpk4Word (ty : Ty) (a i : Nat) : Nat :=
  let x := a >>> (8 * i) % 256
  if ty = .s8 then wrapNat 32 (sextInt 8 x) else x
/-- UNPK8: nibbles, or the integers of SLUB4 pairs (R149, R68). -/
def unpk8Word (ty : Ty) (a i : Nat) : Nat :=
  let nib (k : Nat) : Nat := a >>> (4 * k) % 16
  if ty = .slub4 then
    let q := slub4Pair (nib (i / 2 * 2)) (nib (i / 2 * 2 + 1))
    wrapNat 32 (if i % 2 = 0 then q.1 else q.2)
  else nib i
/-- UNPK4 (R149). -/
def execUnpk4 (f : Full) (s : State) : Out :=
  aluExec (formUnpk tysPack4 4 f) { alu f with n := 4 }
    (noFlags fun i => (List.range 4).foldl (fun r k => r + unpk4Word (mTyD f) i.a k <<< (32 * k)) 0) f s
/-- UNPK8 (R149). -/
def execUnpk8 (f : Full) (s : State) : Out :=
  aluExec (formUnpk tysPack8 8 f) { alu f with n := 8 }
    (noFlags fun i => (List.range 8).foldl (fun r k => r + unpk8Word (mTyD f) i.a k <<< (32 * k)) 0) f s
/-- RNG (R150). -/
def execRng (f : Full) (s : State) : Out :=
  aluExec (formRng f) { alu f with sr := true }
    (noFlags fun i => if mTyD f = .f32 then rngF32 i.sr else rngVal i.sr) f s

end Sys2Proof.Machine
end

