-- ==== Sys2Proof/Machine/Link.lean ====
section
/-! DEFINITION. The die link up to its messages (R426 to R431): ports and modules, credits, the order of messages, and their sending and taking. -/

namespace Sys2Proof.Machine

/-! ## Ports and modules (R426, R427, R436) -/

/-- The number of a port: die * 3, and 0 for A, 1 for B0, 2 for B1. -/
def dpKey : DiePort → Nat
  | .a d => 3 * d
  | .b0 d => 3 * d + 1
  | .b1 d => 3 * d + 2
/-- The same port of the package's other Reust die. -/
def dpFar (k : Nat) : Nat := if k < 3 then k + 3 else k - 3
/-- A port. -/
def State.dlPort (s : State) (k : Nat) : DlPort := (s.dl.get k).getD DlPort.reset
/-- Change a port. -/
def State.updDl (s : State) (k : Nat) (f : DlPort → DlPort) : State := { s with dl := s.dl.set k (f (s.dlPort k)) }
/-- The modules of a port. -/
def dpModules (k : Nat) : List Nat := (List.range 4).map fun i => 4 * (k % 3) + i
/-- B0 and B1 of a die face its Reust partner together, as one port of eight modules (R426). -/
def State.dlJoined (s : State) (d : Nat) : Bool := (s.dlPort (3 * d + 1)).role == 1
/-- The port that a port's name stands for: B1 of the combined port B is held under B0 (R426). -/
def State.dlKey (s : State) (k : Nat) : Nat := if k % 3 = 2 && s.dlJoined (dpDie k) then k - 1 else k

/-- The module of a message (R427): by its line address, or the lowest. -/
def State.dlModule (s : State) (k : Nat) (addr : Option Nat) : Nat :=
  let ms := sortBy id (s.dlPort k).modok
  let i := match addr with
    | none => 0
    | some a => if (s.dlPort k).role = 1 then fld a 8 6 else fld a 7 6
  if ms.isEmpty then 0 else (ms[i % ms.length]?).getD 0

/-! ## Messages (R428 to R430) -/

/-- CLS. -/
def dlCls (m : DlMsg) : Nat := fld m.hdr.toNat 2 0
/-- OP. -/
def dlOp (m : DlMsg) : Nat := fld m.hdr.toNat 15 8
/-- ASID. -/
def dlAsid (m : DlMsg) : Nat := fld m.hdr.toNat 31 20
/-- ADDR. -/
def dlAddr (m : DlMsg) : Nat := fld m.hdr.toNat 87 32
/-- TAG. -/
def dlTag (m : DlMsg) : Nat := fld m.hdr.toNat 103 88
/-- ARG. -/
def dlArg (m : DlMsg) : Nat := fld m.hdr.toNat 127 104
/-- A data slot. -/
def dlSlot (m : DlMsg) (i : Nat) : Nat := ((m.slots[i]?).getD 0).toNat
/-- The slots of a message. -/
def dlLen (m : DlMsg) : Nat := 1 + m.slots.length
/-- The line of a message of four data slots and a tail. -/
def dlLine (m : DlMsg) : Line := BitVec.ofNat 512 ((List.range 4).map fun i => dlSlot m i * 2 ^ (128 * i)).sum
/-- The byte mask of the tail. -/
def dlMask (m : DlMsg) : Mask := BitVec.ofNat 64 (fld (dlSlot m 4) 63 0)
/-- The check bits of the tail. -/
def dlCheck (m : DlMsg) : DWord := BitVec.ofNat 64 (fld (dlSlot m 4) 127 64)

/-- The slots of a line with its tail. -/
def lineSlots (x : Line) (mask : Mask) (chk : DWord) : List (BitVec 128) :=
  (List.range 4).map (fun i => BitVec.ofNat 128 (x.toNat >>> (128 * i))) ++ [BitVec.ofNat 128 (mask.toNat + chk.toNat * 2 ^ 64)]
/-- The line address by which a message chooses its module, and which keeps its order (R427); none where it has none. -/
def dlLineAddr (m : DlMsg) : Option Nat := if (dlCls m == 0 && dlOp m < 0x10) || dlCls m == 2 then some (dlAddr m / 64 * 64) else none
/-- The SCOPE field (R40, R429). -/
def dlScope : Scope → Nat
  | .core => 0 | .quad => 1 | .die => 2 | .pkg => 3 | .pod => 4
/-- A request with its scope (R429). -/
def dlScoped (x : Scope) (m : DlMsg) : DlMsg := { m with hdr := m.hdr ||| BitVec.ofNat 128 (dlScope x <<< 16) }
/-- A message. -/
def dlMake (cls op asid addr tag arg : Nat) (str : Bool) (slots : List (BitVec 128)) : DlMsg :=
  { hdr := BitVec.ofNat 128 (cls + slots.length <<< 3 + op <<< 8 + b2n str <<< 19 + (asid % 4096) <<< 20 + (addr % 2 ^ 56) <<< 32
      + (tag % 65536) <<< 88 + (arg % 2 ^ 24) <<< 104)
    slots := slots }

/-- A header that R429 and R430 allow. -/
def dlHdrOk (h : Nat) : Bool :=
  let n := fld h 5 3
  let op := fld h 15 8
  fld h 7 6 == 0 && [0, 1, 2, 5].contains n && (match fld h 2 0 with
    | 0 => [0x01, 0x02, 0x03, 0x04, 0x05, 0x06, 0x10, 0x11].contains op
    | 1 => [0x80, 0x81, 0x82, 0x83].contains op
    | 2 => op == 0xC0
    | 3 => op == 0xE0
    | 4 => op == 0xF0 || op == 0xF1
    | _ => false)

/-- SEND a message (R428, R431): with its slot count in credits, TOPO apart; none without them. Each message leaves in a flit of its
own, which is kept until it is acknowledged. -/
def State.dlSend (s : State) (k : Nat) (m : DlMsg) : Option State :=
  let p := s.dlPort k
  let c := dlCls m
  let have' := (p.cred[c]?).getD 0
  if c ≠ 4 && (have' < dlLen m || !p.live) then none
  else
    let cred := if c = 4 then p.cred else p.cred.zipIdx.map fun x => if x.2 = c then x.1 - dlLen m else x.1
    let p : DlPort := { p with cred := cred, tseq := (p.tseq + 1) % 256, unack := p.unack ++ [(p.tseq, m)] }
    some { s with dl := s.dl.set k p, dlOut := s.dlOut ++ [(k, m)] }

/-- Send where credit allows. Requests stay on the link until their answer has credit; a notice of a failed module without credit is not
sent. -/
def State.dlReply (s : State) (k : Nat) (m : DlMsg) : State := (s.dlSend k m).getD s

/-- The lowest number that a rising list of numbers does not name. -/
def freeHandle : List Nat → Nat → Nat
  | [], k => k
  | u :: us, k => if u ≤ k then freeHandle us (k + 1) else k

/-- Send a request: under the lowest free tag, with its clock (R429, R431). None without credit. -/
def State.dlAsk (s : State) (k : Nat) (m : Nat → DlMsg) (use : DlUse) : Option (State × Nat) :=
  let tag := freeHandle (s.dlReqs.map Prod.fst) 0
  (s.dlSend k (m tag)).map fun t =>
    let addr := dlLineAddr (m tag)
    let q : DlReq := { port := k, module := t.dlModule k addr, addr := addr, clock := t.clock, use := use }
    ({ t with dlReqs := t.dlReqs.set tag q }, tag)

/-- What is not acknowledged is sent again, in order, ahead of all else (R427, R428). -/
def State.dlResend (s : State) (k : Nat) : State :=
  { s with dlOut := ((s.dlPort k).unack.map fun x => (k, x.2)) ++ s.dlOut.filter fun x => x.1 != k }

/-- Return credits for a message that has been taken, and acknowledge it. -/
def State.dlFreed (s : State) (k : Nat) (m : DlMsg) : State :=
  let give (x : Nat × Nat) : Nat := if x.2 = dlCls m && dlCls m ≠ 4 then x.1 + dlLen m else x.1
  s.updDl k fun p => { p with cred := p.cred.zipIdx.map give, unack := p.unack.filter fun x => x.2 != m }

/-- No message of its class for the same line stands before a message (R427). -/
def dlFirst (ms : List DlMsg) (m : DlMsg) : Bool :=
  (ms.takeWhile fun x => x != m).all fun x => dlCls x != dlCls m || dlLineAddr x != dlLineAddr m || (dlLineAddr m).isNone

/-- TAKE a message that has reached a port (R428): from the other Reust die's port B, or from the flits received, whose credits go back with the
port's next flit. The messages for a line are taken in order (R427). -/
def State.dlTake (s : State) (k : Nat) (m : DlMsg) : Option State :=
  let far := s.dlKey (dpFar k)
  let out := (s.dlOut.filter fun x => s.dlKey x.1 == far).map Prod.snd
  let box := (s.dlPort k).inbox
  if k % 3 ≠ 0 && (s.dlPort k).role ≤ 1 && (s.dlPort far).role ≤ 1 && out.contains m then
    if dlFirst out m then match s.dlOut.find? fun x => s.dlKey x.1 == far && x.2 == m with
      | some x => some ({ s with dlOut := s.dlOut.erase x }.dlFreed x.1 m)
      | none => none
    else none
  else if box.contains m && dlFirst box m then
    let give (x : Nat × Nat) : Nat := if x.2 = dlCls m && dlCls m ≠ 4 then x.1 + dlLen m else x.1
    some (s.updDl k fun p => { p with inbox := p.inbox.erase m, back := p.back.zipIdx.map give })
  else none

/-- The port holds the credits that the answer to a request can need (R431): for a response, and for a line where the request reads. -/
def State.dlRoom (s : State) (k : Nat) (m : DlMsg) : Bool :=
  let p := s.dlPort k
  let data := dlOp m == 0x01 || dlOp m == 0x03 || (dlOp m == 0x05 && !bit (dlArg m) 0)
  p.live && decide (1 ≤ (p.cred[1]?).getD 0) && (!data || decide (6 ≤ (p.cred[2]?).getD 0))

/-- A Reust die whose table of partners names one with MGMT (R434, R436). -/
def State.dieMgmt (s : State) (d : Nat) : Bool := s.dl.any fun e => dpDie e.1 == d && e.2.st != 5 && bit e.2.caps 6

/-- A message of an OP reaches a port: its effect on the state without it, none where it cannot have it yet. A request stays on the link until its
answer has credit; a port that has timed out takes nothing, and a die without a management partner answers only TOPO (R434). -/
def dlStep? (port : DiePort) (m : DlMsg) (cls op : Nat) (f : Nat → State → Option State) (s : State) : Out :=
  let k := s.dlKey (dpKey port)
  if dlCls m ≠ cls || dlOp m ≠ op || (s.dlPort k).st = 5 || (cls = 0 && !s.dieMgmt (dpDie k)) then .next s
  else match s.dlTake k m with
    | none => .next s
    | some t => if cls = 0 && !t.dlRoom k m then .next s else .next ((f k t).getD s)

/-- The same for an effect that a message has at once. -/
def dlStep (port : DiePort) (m : DlMsg) (cls op : Nat) (f : Nat → State → State) (s : State) : Out :=
  dlStep? port m cls op (fun k s => some (f k s)) s

/-- An engine of a slot's context awaits a request. -/
def DlUse.ofSlot (u : DlUse) (slot : Nat) : Bool := match u with
  | .bytes w _ _ _ => w.slot == some slot
  | _ => false

/-- The generic address of a byte of a core's scratchpad (R156). -/
def scratchGa (c off : Nat) : Nat := 0x71 * 2 ^ 48 + c / 96 * 2 ^ 32 + c % 96 * 2 ^ 24 + off

/-- The two Reust dies are joined by a port B that is up on both sides. -/
def State.dlLinked (s : State) : Bool :=
  [1, 4].all fun k => (s.dlPort k).role == 1 && (s.dlPort k).live

end Sys2Proof.Machine
end

