-- ==== Sys2Proof/Machine/Ecc.lean ====
section
/-! DEFINITION. The codes of a memory line (R408 to R416): the numeric layouts, the Reed-Solomon strong field, the parity
field, the poison word, and what a read of a line detects. -/

namespace Sys2Proof.Machine

/-- One doubling in GF(2^8) with 0x11D (R409). -/
def gfDouble (a : Nat) : Nat := if a ≥ 128 then ((2 * a) ^^^ 0x11D) % 256 else 2 * a
/-- Product in GF(2^8), over the bits of b from the lowest. -/
def gfMulBits : Nat → Nat → Nat → Nat
  | 0, _, _ => 0
  | n + 1, a, b => (if b % 2 = 1 then a else 0) ^^^ gfMulBits n (gfDouble a) (b / 2)
/-- Product in GF(2^8) (R409). -/
def gfMul (a b : Nat) : Nat := if a = 0 || b = 0 then 0 else gfMulBits 8 a b
/-- Power. -/
def gfPow (a : Nat) : Nat → Nat
  | 0 => 1
  | n + 1 => gfMul a (gfPow a n)
/-- Inverse of a nonzero element: a^254. -/
def gfInv (a : Nat) : Nat :=
  let a2 := gfMul a a; let a4 := gfMul a2 a2; let a8 := gfMul a4 a4; let a16 := gfMul a8 a8
  let a32 := gfMul a16 a16; let a64 := gfMul a32 a32; let a128 := gfMul a64 a64
  gfMul a128 (gfMul a64 (gfMul a32 (gfMul a16 (gfMul a8 (gfMul a4 a2)))))

/-- Sum of two polynomials, lowest coefficient first. -/
def polyAdd : List Nat → List Nat → List Nat
  | [], q => q
  | p, [] => p
  | a :: p, b :: q => (a ^^^ b) :: polyAdd p q
/-- A polynomial times a constant. -/
def polyScale (c : Nat) (p : List Nat) : List Nat := p.map (gfMul c)
/-- Product of polynomials. -/
def polyMul : List Nat → List Nat → List Nat
  | [], _ => []
  | a :: p, q => polyAdd (polyScale a q) (0 :: polyMul p q)
/-- Value at a point. -/
def polyEval (p : List Nat) (x : Nat) : Nat := p.foldr (fun c acc => c ^^^ gfMul x acc) 0

/-- The generator with n check symbols: the product of (x - α^i) for i below n (R409), lowest coefficient first. -/
def rsGen : Nat → List Nat
  | 0 => [1]
  | n + 1 => polyMul [gfPow 2 n, 1] (rsGen n)

/-- One step of the division by the generator: the remainder, lowest first, takes the next data symbol. -/
def rsStep (g : List Nat) (n : Nat) (rem : List Nat) (d : Nat) : List Nat :=
  let fb := d ^^^ (rem.getLast?.getD 0)
  polyAdd ((0 :: rem).take n) (polyScale fb (g.take n))
/-- The check symbols of data symbols, symbol 0 first (R409). -/
def rsCheck (n : Nat) (data : List Nat) : List Nat :=
  let g := rsGen n
  data.foldl (rsStep g n) (List.replicate n 0)

/-- The received word as a polynomial, lowest coefficient first (R409). -/
def rsWord (data check : List Nat) : List Nat := check ++ data.reverse
/-- The n syndromes. -/
def rsSynd (n : Nat) (w : List Nat) : List Nat := (List.range n).map fun i => polyEval w (gfPow 2 i)

/-- The state of the search for the error locator. -/
structure Bm where
  c : List Nat
  b : List Nat
  l : Nat
  m : Nat
  d : Nat

/-- One step of the search. -/
def bmStep (syn : List Nat) (x : Bm) (n : Nat) : Bm :=
  let s (i : Nat) : Nat := syn[i]?.getD 0
  let d := (List.range x.l).foldl (fun a i => a ^^^ gfMul (x.c[i + 1]?.getD 0) (if i + 1 ≤ n then s (n - (i + 1)) else 0)) (s n)
  if d = 0 then { x with m := x.m + 1 }
  else
    let c' := polyAdd x.c (polyScale (gfMul d (gfInv x.d)) (List.replicate x.m 0 ++ x.b))
    if 2 * x.l ≤ n then { c := c', b := x.c, l := n + 1 - x.l, m := 1, d := d }
    else { x with c := c', m := x.m + 1 }

/-- The formal derivative of a polynomial in characteristic 2. -/
def polyDeriv (p : List Nat) : List Nat := (p.drop 1).zipIdx.map fun x => if x.2 % 2 = 0 then x.1 else 0

/-- The decoder: every pattern of up to n / 2 symbol errors is corrected; none where the word lies within that distance of no
codeword (R409). -/
def rsDecode (n : Nat) (data check : List Nat) : Option (List Nat × List Nat × Bool) :=
  let w := rsWord data check
  let syn := rsSynd n w
  if syn.all (· == 0) then some (data, check, false)
  else
    let x := (List.range n).foldl (bmStep syn) { c := [1], b := [1], l := 0, m := 1, d := 1 }
    if n / 2 < x.l then none
    else
      let roots := (List.range w.length).filter fun p => polyEval x.c (gfInv (gfPow 2 p)) == 0
      if roots.length ≠ x.l then none
      else
        let om := (polyMul syn x.c).take n
        let dv := polyDeriv x.c
        let w' := w.zipIdx.map fun y =>
          if roots.contains y.2 then
            let xi := gfInv (gfPow 2 y.2)
            y.1 ^^^ gfMul (gfPow 2 y.2) (gfMul (polyEval om xi) (gfInv (polyEval dv xi)))
          else y.1
        if (rsSynd n w').all (· == 0) then some ((w'.drop n).reverse, w'.take n, true) else none

/-- Check symbols of a layout (R408). -/
def nlChecks (nl : Nat) : Nat := if nl = 0 then 8 else 6
/-- Element width, and the strong bits [hi:lo] of an element (R408). -/
def nlStrong (nl : Nat) : Nat × Nat × Nat := match nl with
  | 1 => (16, 15, 7) | 2 => (32, 31, 16) | 3 => (8, 7, 3) | _ => (8, 7, 0)
/-- Parity bits [hi:lo] of an element, and the elements that one parity bit covers (R410). -/
def nlParity (nl : Nat) : Option (Nat × Nat × Nat) := match nl with
  | 1 => some (6, 4, 2) | 2 => some (15, 8, 1) | 3 => some (2, 0, 4) | _ => none

/-- A number from bits of elements, element 0 lowest, each of `per` bits. -/
def packBits (per : Nat) : List Nat → Nat
  | [] => 0
  | x :: xs => x + packBits per xs * 2 ^ per

/-- The symbols of a line's strong field (R410). -/
def nlSymbols (nl : Nat) (x : Line) : List Nat :=
  let (w, hi, lo) := nlStrong nl
  let st := packBits (hi + 1 - lo) ((List.range (512 / w)).map fun i => fld x.toNat (w * i + hi) (w * i + lo))
  (List.range (512 / w * (hi + 1 - lo) / 8)).map fun j => fld st (8 * j + 7) (8 * j)

/-- A line with its strong field replaced by symbols. -/
def nlSetSymbols (nl : Nat) (x : Line) (sy : List Nat) : Line :=
  let (w, hi, lo) := nlStrong nl
  let per := hi + 1 - lo
  let st := packBits 8 sy
  BitVec.ofNat 512 (packBits w ((List.range (512 / w)).map fun i =>
    let e := fld x.toNat (w * i + w - 1) (w * i)
    e % 2 ^ lo + (fld st (per * i + per - 1) (per * i)) * 2 ^ lo))

/-- Parity bit j of a line: even parity over the bits it covers (R410). -/
def nlParBit (nl : Nat) (x : Line) (j : Nat) : Bool := match nlParity nl with
  | none => false
  | some (hi, lo, k) =>
    let (w, _, _) := nlStrong nl
    (List.range k).foldl (fun b i => b != (popN (hi + 1 - lo) (fld x.toNat (w * (k * j + i) + hi) (w * (k * j + i) + lo)) % 2 == 1)) false

/-- The check word of a line under a layout (R409, R410). -/
def nlEncode (nl : Nat) (x : Line) : DWord :=
  if x = 0 then 0
  else
    let cs := packBits 8 (rsCheck (nlChecks nl) (nlSymbols nl x))
    BitVec.ofNat 64 (cs + if nl = 0 then 0 else
      (List.range 16).foldl (fun a j => a + b2n (nlParBit nl x j) * 2 ^ (48 + j)) 0)

/-- What a read of a line detects (R414): the line with its strong field corrected, whether anything was corrected, and the
parity bits that fail; none for an uncorrectable strong field. -/
def nlDecode (nl : Nat) (x : Line) (chk : DWord) : Option (Line × Bool × List Nat) :=
  if x = 0 && chk = 0 then some (x, false, [])
  else
    let n := nlChecks nl
    let cs := (List.range n).map fun i => fld chk.toNat (8 * i + 7) (8 * i)
    match rsDecode n (nlSymbols nl x) cs with
    | none => none
    | some (sy, _, fixed) =>
      let y := if fixed then nlSetSymbols nl x sy else x
      some (y, fixed, if nl = 0 then [] else (List.range 16).filter fun j => nlParBit nl y j != chk.getLsbD (48 + j))

/-- A line with the elements that failing parity bits cover delivered as zero of their own sign (R415). -/
def nlZero (nl : Nat) (x : Line) (bad : List Nat) : Line := match nlParity nl with
  | none => x
  | some (_, _, k) =>
    let (w, _, _) := nlStrong nl
    BitVec.ofNat 512 (packBits w ((List.range (512 / w)).map fun i =>
      let e := fld x.toNat (w * i + w - 1) (w * i)
      if bad.contains (i / k) then e / 2 ^ (w - 1) * 2 ^ (w - 1) else e))

/-- The data of the poison word (R416). -/
def poisonData : Line := ~~~0#512
/-- The check word of the poison word (R416). -/
def poisonCheck : DWord := ~~~(nlEncode 0 poisonData)

end Sys2Proof.Machine
end

