-- ==== Sys2Proof/Machine/Mem.lean ====
section
/-! DEFINITION. The memory side: page walks and translation (R323 to R330), HBM lines under their codes (R412 to R418), the
memory-side cache (R175), fault records (R331), the side log (R334) and UNRES (R335). -/

namespace Sys2Proof.Machine

/-! ## Physical memory -/

/-- The data of a physical line as it was written. -/
def State.storedLine (s : State) (pl : Nat) : Line := lineOf (s.hbm.read (pl * 64) 64)
/-- The data of a physical line as it reads: cells that have failed keep their value (R418). -/
def State.rawLine (s : State) (pl : Nat) : Line := match s.stuck.get pl with
  | some (m, v) => (s.storedLine pl &&& ~~~m) ||| (v &&& m)
  | none => s.storedLine pl
/-- The check state of a physical line. -/
def State.lineChk (s : State) (pl : Nat) : LineChk := (s.chk.get pl).getD (.coded 0)
/-- The check word of a physical line, as stored. -/
def State.chkWord (s : State) (pl : Nat) : DWord := match s.lineChk pl with
  | .coded nl => nlEncode nl (s.storedLine pl)
  | .poison => poisonCheck
  | .word w => w
/-- A physical line holds the poison word (R416). -/
def State.isPoison (s : State) (pl : Nat) : Bool := match s.lineChk pl with
  | .poison => true
  | .word w => w == poisonCheck && s.rawLine pl == poisonData
  | .coded _ => false
/-- The data of a physical line for the hardware's own tables, decoded as RAW where its check word is not its data's; none where it is poisoned or cannot be
corrected (R414, R417). -/
def State.tableLine (s : State) (pl : Nat) : Option Line :=
  if s.isPoison pl then none
  else match s.lineChk pl with
    | .word w => (nlDecode 0 (s.rawLine pl) w).map Prod.fst
    | _ => if (s.stuck.get pl).isSome then (nlDecode 0 (s.rawLine pl) (s.chkWord pl)).map Prod.fst else some (s.storedLine pl)
/-- The line of a physical address is poisoned. -/
def State.physPoison (s : State) (a : Nat) : Bool := (s.tableLine (a / 64)).isNone
/-- n bytes of HBM within a line as a number, by physical address (R324). -/
def State.physNat (s : State) (a n : Nat) : Nat := match s.tableLine (a / 64) with
  | some x => leNat (lineSlice' x (a % 64) n)
  | none => 0
where
  /-- Bytes [i, i + n) of a line. -/
  lineSlice' (x : Line) (i n : Nat) : List Byte := (List.range n).map fun j => lineByte x (i + j)
/-- Write a line under a layout (R412). RAW is what an unlisted line is under. -/
def State.hbmWrite (s : State) (pl nl : Nat) (x : Line) : State :=
  { s with hbm := s.hbm.write (pl * 64) (lineBytes x), chk := if nl = 0 then s.chk.del pl else s.chk.set pl (.coded nl) }
/-- Write the poison word (R416). -/
def State.hbmPoison (s : State) (pl : Nat) : State :=
  { s with hbm := s.hbm.write (pl * 64) (lineBytes poisonData), chk := s.chk.set pl .poison }
/-- Firmware's write of bytes by physical address (R324): each line it touches keeps its layout. -/
def State.physWrite (s : State) (a : Nat) (bs : List Byte) : State := { s with hbm := s.hbm.write a bs }

/-- The image of a telemetry record of TYPE 1 (R418, R422), less its stamp. A lasting error of HBM requests retirement (R419). -/
def telRecord (e : TelEv) : BitVec 256 :=
  BitVec.ofNat 256 (1 + e.cls <<< 4 + b2n e.last <<< 6 + b2n (e.last && e.unit == 0) <<< 7 + e.unit <<< 8 + e.pol <<< 12 + e.core <<< 16 + e.part <<< 24
    + e.off <<< 32 + e.addr <<< 64 + b2n e.phys <<< 127)

/-- The S1 policy of a slot (R415). -/
def State.s1pol (s : State) (slot : Option Nat) : Nat := match slot with
  | some k => fld (s.ctx k).intcfg.toNat 9 8
  | none => 0

/-- Note an integrity event (R418). -/
def State.note (s : State) (e : TelEv) : State :=
  { s with telPend := s.telPend ++ [{ slot := e.slot, image := telRecord e }] }

/-- Where an access at a virtual address notes its events: the core of a ply's access, else none (R422). -/
def Who.ev (w : Who) (va : Nat) : TelEv :=
  { slot := w.slot, cls := 0, pol := 0, last := false, unit := 0, core := if w.uid.isSome then w.core else 0xFF, part := w.part, off := w.off,
    addr := va, phys := false }
/-- Where the hardware's own read of a physical line notes its events. -/
def physEv (slot : Option Nat) (pl : Nat) : TelEv :=
  { slot := slot, cls := 0, pol := 0, last := false, unit := 0, core := 0xFF, part := 0, off := 0, addr := pl * 64, phys := true }

/-- After an event the line is written with what was delivered, none for poison, and read again: an error that remains is lasting, and its frame's
retirement is requested (R418, R419). -/
def State.hbmSettle (s : State) (pl nl : Nat) (x : Option Line) (e : TelEv) : State :=
  let t := match x with
    | some y => s.hbmWrite pl nl y
    | none => s.hbmPoison pl
  let last := t.rawLine pl != x.getD poisonData
  let t := t.note { e with last := last }
  if last && !t.retireReq.contains (pl / 1024) then { t with retireReq := t.retireReq ++ [pl / 1024] } else t

/-- READ AN HBM LINE under a layout (R412 to R418): none when it is poisoned. A strong field that cannot be corrected is read once more, and what was
corrected or delivered is written back. -/
def State.hbmRead (s : State) (pl nl : Nat) (e : TelEv) : State × Option Line :=
  let x := s.rawLine pl
  let flip := (s.transit.get pl).getD 0
  let s := { s with transit := s.transit.del pl }
  if s.isPoison pl then (s, none)
  else if s.lineChk pl = .coded nl && flip = 0 && x == s.storedLine pl then (s, some x)
  else
    let w := s.chkWord pl
    match (nlDecode nl (x ^^^ flip) w).or (nlDecode nl x w) with
    | none => (s.hbmSettle pl nl none { e with cls := 2 }, none)
    | some (y, fixed, bad) =>
      if bad.isEmpty then
        (if fixed || flip ≠ 0 then s.hbmSettle pl nl (some y) e else s.hbmWrite pl nl y, some y)
      else
        let p := s.s1pol e.slot
        let z := if p = 2 then none else some (if p = 1 then nlZero nl y bad else y)
        (s.hbmSettle pl nl z { e with cls := 1, pol := p }, z)

/-! ## Translation -/

/-- The outcome of a translation: a leaf, or a cause of R330. -/
inductive Xl where
  | ok (l : Leaf)
  | fail (cause : Nat)
  deriving DecidableEq, Repr

/-- A leaf entry at a level, with the checks of R327 for a VA. -/
def State.leafOf (s : State) (e va lvl : Nat) : Xl :=
  let size := match lvl with | 0 => 16 | 1 => 21 | _ => 30
  let fa := fld e 55 16 * 65536
  let l : Leaf := { fa := fa, size := size, w := bit e 1, x := bit e 2, host := bit e 4, share := bit e 5, exp := bit e 6,
                    nl := fld e 11 8, win := s.mgmt.winFrame == some fa && size == 16 }
  if bit e 7 || fld e 15 12 ≠ 0 || fld e 63 56 ≠ 0 || fa % 2 ^ size ≠ 0 then .fail 4
  else if l.win || l.host then .ok l
  else if s.mgmt.reduced && (0x30000000 < fa + 2 ^ size || l.nl ≠ 0) then .fail 4
  else if 3 < l.nl || 2 ^ 41 ≤ fa || fa / 2 ^ 40 ≠ va / 2 ^ 47 || s.dieBytes (va / 2 ^ 47) < fa % 2 ^ 40 + 2 ^ size then .fail 4
  else .ok l

/-- The walk from a table at a level downward (R325 to R327): `lvl` levels lie below. -/
def State.walkFrom (s : State) (va : Nat) : Nat → Nat → Xl
  | lvl, base =>
    let idx := match lvl with
      | 0 => fld va 20 16 | 1 => fld va 29 21 | 2 => fld va 38 30 | _ => fld va 47 39
    let a := base + 8 * idx
    let e := s.physNat a 8
    if s.physPoison a then .fail 4
    else if !bit e 0 then .fail 1
    else if bit e 3 then (if 2 < lvl then .fail 4 else s.leafOf e va lvl)
    else match lvl with
      | 0 => .fail 4
      | lvl + 1 =>
        let next := fld e 55 8 * 256
        if e &&& 0xF6 ≠ 0 || fld e 63 56 ≠ 0 || (0 < lvl && next % 4096 ≠ 0) then .fail 4
        else State.walkFrom s va lvl next

/-- The ASID that stands for a pod context without a valid pod map entry: each of its translations fails with NOCTX (R323). -/
def noAsid : Nat := 4096

/-- A page walk (R323 to R327). -/
def State.walk (s : State) (asid va : Nat) : Xl :=
  if noAsid ≤ asid then .fail 5
  else
    let a := s.mgmt.asidTable + 8 * asid
    let e := s.physNat a 8
    if s.physPoison a then .fail 4
    else if !bit e 0 then .fail 5
    else s.walkFrom va 3 (fld e 55 12 * 4096)

/-- The ASID of a pod context identifier (R323). -/
def State.podAsid (s : State) (ctxid : Nat) : Nat :=
  let e := s.physNat (s.mgmt.podMap + 2 * ctxid) 2
  if bit e 15 then fld e 11 0 else noAsid
/-- The ASID of a context slot. -/
def State.slotAsid (s : State) (slot : Nat) : Nat := s.podAsid (pktCtxid (s.ctx slot))

/-- The home slice of a VA (R174): die * 64 + slice. -/
def sliceOf (va : Nat) : Nat := va / 2 ^ 47 % 2 * 64 + (fld va 11 6 ^^^ fld va 15 12)

/-- The translation units that serve a VA, with their entries: 0 to 127 the slices', 128 to 143 those of 8 slices, 144 and 145 the
dies' (R329). -/
def tlbUnits (va : Nat) : List (Nat × Nat) :=
  let k := sliceOf va
  [(k, 256), (128 + k / 8, 4096), (144 + k / 64, 32768)]
/-- The entries of a unit. -/
def State.tlbUnit (s : State) (u : Nat) : List TlbEnt := (s.tlb.get u).getD []
/-- An entry translates a VA. -/
def tlbHit (asid va : Nat) (e : TlbEnt) : Bool := e.asid == asid && e.page == va / 2 ^ e.leaf.size

/-- The TLB entry for a VA (R329), from the first of its units that holds one. -/
def State.tlbFind (s : State) (asid va : Nat) : Option Leaf :=
  (tlbUnits va).findSome? fun u => ((s.tlbUnit u.1).find? (tlbHit asid va)).map TlbEnt.leaf
/-- Put a leaf into a unit in place of any entry for the VA; a full unit gives up an entry of its choice (log entry 130). -/
def State.tlbEnter (s : State) (asid va : Nat) (l : Leaf) (u : Nat × Nat) : State :=
  let es := (s.tlbUnit u.1).filter fun e => !tlbHit asid va e
  let e : TlbEnt := { asid := asid, page := va / 2 ^ l.size, leaf := l }
  if es.length < u.2 then { s with tlb := s.tlb.set u.1 (e :: es) }
  else
    let (n, s) := s.drawFree
    { s with tlb := s.tlb.set u.1 (e :: es.eraseIdx (Config.freeNat n % u.2)) }
/-- Put a leaf into the TLBs of a VA. -/
def State.tlbPut (s : State) (asid va : Nat) (l : Leaf) : State := (tlbUnits va).foldl (fun s u => s.tlbEnter asid va l u) s

/-- What a leaf refuses: FRAME to every access to a page of launch windows (R290), NOEXP to an inbound access, PERM to a write or a fetch
(R326, R330). -/
def permCause (l : Leaf) (k : AccKind) (inb : Bool) : Option Nat :=
  if l.win then some 4
  else if inb && !l.exp then some 6
  else match k with
    | .read => none
    | .write => if l.w then none else some 2
    | .fetch => if l.x then none else some 2

/-- A fresh walk that fills the TLBs. -/
def State.xlateWalk (s : State) (asid va : Nat) (k : AccKind) (inb : Bool) : State × Xl :=
  match s.walk asid va with
  | .fail c => (s, .fail c)
  | .ok l => (s.tlbPut asid va l, match permCause l k inb with
      | some c => .fail c
      | none => .ok l)

/-- TRANSLATE (R329, R330): a TLB hit serves; a refusal by it is confirmed by a fresh walk. -/
def State.xlate (s : State) (asid va : Nat) (k : AccKind) (inb : Bool) : State × Xl :=
  match s.tlbFind asid va with
  | none => s.xlateWalk asid va k inb
  | some l => match permCause l k inb with
    | none => (s, .ok l)
    | some _ => s.xlateWalk asid va k inb

/-- The context slot whose launch window a VA names in a writable page of launch windows (R290). -/
def State.winSlot (s : State) (asid va : Nat) : Option Nat := match s.walk asid va with
  | .ok l => if l.win && l.w && va % 65536 < 16384 then some (va % 65536 / 64) else none
  | .fail _ => none

/-- The physical address of a VA under a leaf. -/
def leafPhys (l : Leaf) (va : Nat) : Nat := l.fa + va % 2 ^ l.size

/-- The frame-owner check (R175, R328). -/
def State.ownerOk (s : State) (l : Leaf) (phys asid : Nat) (write : Bool) : Bool :=
  let e := s.physNat (s.mgmt.owners + 2 * (phys / 65536)) 2
  bit e 15 && bit e 14 == l.share && (fld e 11 0 == asid || (bit e 14 && !write))

/-! ## Slices and fault records -/

/-- A slice. -/
def State.slice (s : State) (k : Nat) : Slice := (s.slices.get k).getD Slice.reset
/-- Change a slice. -/
def State.updSlice (s : State) (k : Nat) (f : Slice → Slice) : State := { s with slices := s.slices.set k (f (s.slice k)) }

/-- A ply as the maker of an access. -/
def State.whoPly (s : State) (pid : Nat) : Who :=
  match s.ply? pid with
  | some p => { asid := s.slotAsid p.ctx, slot := some p.ctx, core := plyCore pid, part := plyPart pid, pslot := plySlot pid,
                uid := some p.uid, dev := 0, inb := false, off := codeOff (s.ctx p.ctx) (s.plyPc p).toNat }
  | none => { asid := noAsid, slot := none, core := 0, part := 0, pslot := 0, uid := none, dev := 0, inb := false }

/-- A cause that firmware answers (R330). -/
def serviceable (cause : Nat) : Bool := cause == 1 || cause == 2

/-- The image of a fault record (R331). -/
def recImage (w : Who) (va cause kind rid : Nat) (serv : Bool) : BitVec 128 :=
  let ply := kind != 4 && kind != 6
  BitVec.ofNat 128 (va % 2 ^ 48 + (w.asid % 4096) <<< 48 + cause <<< 60 + kind <<< 64 + b2n serv <<< 67
    + (if ply then w.core <<< 72 + w.pslot <<< 80 + w.part <<< 85 else 0) + (if kind = 4 then w.dev <<< 88 else 0) + rid <<< 112)

/-- The first record identifier from `n` on that no open record has (R331). -/
def freeRid (recs : List FRec) (n : Nat) : Nat :=
  (((List.range (recs.length + 1)).map fun i => (n + i) % 65536).find? fun i => !recs.any fun r => r.rid == i).getD (n % 65536)

/-- RECORD A FAULT (R331): join the open record of the ASID, page and cause, or open one and post it. A record that firmware need
not answer closes at once. -/
def State.record (s : State) (w : Who) (va cause kind : Nat) (serv : Bool) : State × Nat :=
  let k := sliceOf va
  let sl := s.slice k
  match sl.recs.find? fun r => r.asid == w.asid && r.page == va / 65536 && r.cause == cause with
  | some r => (s, r.rid)
  | none =>
    let rid := freeRid sl.recs sl.next
    let im := recImage w va cause kind rid serv
    let r : FRec := { rid := rid, asid := w.asid, page := va / 65536, cause := cause, serv := serv, image := im, fetches := [] }
    let s' := s.updSlice k fun x => { x with recs := if serv then x.recs ++ [r] else x.recs, next := rid + 1 }
    ({ s' with faultQ := s.faultQ ++ [(k / 64, im)] }, rid)

/-! ## The memory-side cache -/

/-- The key of a line in the memory-side cache. -/
def mcKey (asid line : Nat) : Nat := asid * 2 ^ 42 + line % 2 ^ 42

/-- The side log holds an entry for a line (R334). -/
def State.logged (s : State) (asid line : Nat) : Bool :=
  (s.slice (sliceOf (line * 64))).log.any fun e => e.asid == asid && e.line == line

/-- What an access finds at the home slice: the line; a HOST page and the bus address of the line; a refusal; poison. -/
inductive LineRes where
  | ok (x : Line)
  | host (addr : Nat)
  | fail (cause : Nat)
  | poison
  deriving DecidableEq, Repr

/-- The ASID and the line of a key of the memory-side cache. -/
def mcAsid (k : Nat) : Nat := k / 2 ^ 42
/-- The line number of a key of the memory-side cache. -/
def mcLineNo (k : Nat) : Nat := k % 2 ^ 42

/-- A LINE OF THE MEMORY-SIDE CACHE IS CHECKED under its layout when it is read (R413, R414, R415): what was corrected or delivered stays in it. -/
def State.mcCheck (s : State) (key : Nat) (e : McLine) (ev : TelEv) : State × McLine := match e.chk with
  | none => (s, e)
  | some w =>
    let (y, cls, pol) : Option Line × Nat × Nat := match nlDecode e.leaf.nl e.data w with
      | none => (none, 2, 0)
      | some (y, _, bad) =>
        if bad.isEmpty then (some y, 0, 0)
        else
          let p := s.s1pol ev.slot
          (if p = 2 then none else some (if p = 1 then nlZero e.leaf.nl y bad else y), 1, p)
    let e := { e with data := y.getD poisonData, poison := e.poison || y.isNone, chk := none }
    ({ s with mc := s.mc.set key e }.note { ev with cls := cls, pol := pol, unit := 1 }, e)

/-- WRITE BACK a dirty cache line under the translation that brought it, by its key (R341, R416): the frame owner is checked, and what it
refuses is recorded with XOWN and lost (R328). -/
def State.mcBack (s : State) (k : Nat) (e : McLine) : State :=
  if !e.dirty then s
  else if !s.ownerOk e.leaf (e.phys * 64) (mcAsid k) true then
    (s.record { asid := mcAsid k, slot := none, core := 0, part := 0, pslot := 0, uid := none, dev := 0, inb := false }
      (mcLineNo k * 64) 3 1 false).1
  else match s.mcCheck k e ((physEv none e.phys)) with
    | (s, e) => if e.poison then s.hbmPoison e.phys else s.hbmWrite e.phys e.leaf.nl e.data

/-- The lines of the memory-side cache that a slice holds. -/
def State.mcOf (s : State) (slice : Nat) : Tbl McLine := s.mc.filter fun e => sliceOf (mcLineNo e.1 * 64) == slice

/-- MAKE ROOM for a line in its slice of 12 MiB (R11): a full slice writes a line of its choice back and gives it up (log entry 130). -/
def State.mcRoom (s : State) (line : Nat) : State :=
  let ls := s.mcOf (sliceOf (line * 64))
  if ls.length < 196608 then s
  else
    let (n, s) := s.drawFree
    match ls[Config.freeNat n % 196608]? with
    | none => s
    | some v => let t := s.mcBack v.1 v.2; { t with mc := t.mc.del v.1 }

/-- Fill a line from HBM under a leaf. -/
def State.mcFill (s : State) (w : Who) (line : Nat) (l : Leaf) : State × LineRes :=
  let s := s.mcRoom line
  let pa := leafPhys l (line * 64)
  let (s, r) := s.hbmRead (pa / 64) l.nl (w.ev (line * 64))
  let e : McLine := { data := r.getD 0, dirty := false, phys := pa / 64, leaf := l, poison := r.isNone }
  ({ s with mc := s.mc.set (mcKey w.asid line) e }, match r with
    | some x => .ok x
    | none => .poison)

/-- REACH A LINE AT ITS HOME SLICE (R174, R175, R326 to R330): the cache line where there is one and it permits the access, else
translation, the frame-owner check and a fill. -/
def State.home (s : State) (w : Who) (line : Nat) (k : AccKind) : State × LineRes :=
  let va := line * 64
  let wr := k == .write
  let hit := match s.mc.get (mcKey w.asid line) with
    | some e => if (permCause e.leaf k w.inb).isNone then some e else none
    | none => none
  match hit with
  | some e =>
    if wr && !s.ownerOk e.leaf (e.phys * 64) w.asid true then (s, .fail 3)
    else let (s, e) := s.mcCheck (mcKey w.asid line) e (w.ev va); (s, if e.poison then .poison else .ok e.data)
  | none => match s.xlate w.asid va k w.inb with
    | (s, .fail c) => (s, .fail c)
    | (s, .ok l) =>
      if l.host then (s, .host (leafPhys l va))
      else if !s.ownerOk l (leafPhys l va) w.asid wr then (s, .fail 3)
      else match s.mc.get (mcKey w.asid line) with
        | some e =>
          let (s, e) := s.mcCheck (mcKey w.asid line) { e with leaf := l } (w.ev va)
          ({ s with mc := s.mc.set (mcKey w.asid line) e }, if e.poison then .poison else .ok e.data)
        | none => s.mcFill w line l

/-- A line lies in the code window of a context that has started under an ASID. -/
def State.isCode (s : State) (asid line : Nat) : Bool := s.ctxs.any fun e =>
  (e.2.st == .running || e.2.st == .saving || e.2.st == .saved || e.2.st == .restoring) && s.slotAsid e.1 == asid && (inWindow e.2 (line * 64) || inWindow e.2 (line * 64 + 63))

/-- Put bytes into a cache line that `home` has reached (R416: only a write of every byte clears poison). A line of code keeps what it
held when its context started, for the fetches until the next start (R193). -/
def State.mcPut (s : State) (asid line : Nat) (x : Line) (m : Mask) : State :=
  match s.mc.get (mcKey asid line) with
  | none => s
  | some e =>
    let e' := { e with data := lineMerge e.data x m, dirty := true, poison := e.poison && m != ~~~0#64 }
    { s with mc := s.mc.set (mcKey asid line) e',
             oldCode := if (s.oldCode.get (mcKey asid line)).isNone && s.isCode asid line then s.oldCode.set (mcKey asid line) e.data else s.oldCode }

/-! ## Writes at the home, and the side log -/

/-- The ply with a unique number, resident. -/
def State.plyUid (s : State) (uid : Nat) : Option (Nat × Ply) := s.plies.findVal fun _ p => p.uid == uid
/-- Change a ply found by its unique number. -/
def State.updUid (s : State) (uid : Option Nat) (f : Ply → Ply) : State := match uid with
  | none => s
  | some u => match s.plyUid u with
    | some (pid, _) => s.updPly pid f
    | none => { s with saved := s.saved.mapVals fun _ v => { v with plies := v.plies.mapVals fun _ p => if p.uid = u then f p else p } }
/-- The deferred ADDR condition of a failed store (R157, R336). -/
def storeCond (sub va : Nat) : Cond := { kind := .store, code := 0x105, sub := sub, va := va }
/-- The issuing ply takes a deferred store fault. -/
def State.storeFault (s : State) (uid : Option Nat) (sub va : Nat) : State :=
  s.updUid uid fun p => { p with conds := p.conds ++ [storeCond sub va] }

/-- The side log of a line's slice is full (R334). -/
def State.logFull (s : State) (line : Nat) : Bool := 512 ≤ (s.slice (sliceOf (line * 64))).log.length
/-- Append to the side log; a weak store, SPILL or write-back counts in the ply's UNRES (R335). -/
def State.logAppend (s : State) (e : LogEnt) : State :=
  let s := s.updSlice (sliceOf (e.line * 64)) fun x => { x with log := x.log ++ [e] }
  if e.unres then s.updUid e.uid fun p => { p with unres := p.unres + 1 } else s

/-- Post a write to host memory (R177, R183). -/
def State.hostWrite (s : State) (addr : Nat) (x : Line) (m : Mask) : State :=
  let (r, s) := s.freshOp
  { s with pcieOut := s.pcieOut ++ [.write r addr ((List.range 64).map fun i =>
      if m.getLsbD i then some (lineByte x i) else none)] }

/-- Loads, returning atomics, each one request for its location, and instruction fetches that a slice holds on its records (R332). -/
def State.heldCount (s : State) (slice : Nat) : Nat :=
  (s.reqs.map fun e =>
    let xs := e.2.parts.zipIdx.filter fun q => match q.1.st with
      | .held k _ => k == slice
      | _ => false
    (if e.2.kind == .atom then (xs.map fun q => q.1.ga).eraseDups.length else xs.length)).sum + ((s.slice slice).recs.map fun r => r.fetches.length).sum

/-- The slice of a line accepts no request of an ASID: its hold is full, and an access of the ASID has met that (R332). -/
def State.shutOut (s : State) (asid line : Nat) : Bool :=
  let k := sliceOf (line * 64)
  (s.slice k).shut.contains asid && 256 ≤ s.heldCount k

/-- Room for one more held access at a slice (R332); without it the slice shuts the ASID out until an entry leaves. -/
def State.holdRoom (s : State) (slice asid : Nat) : State × Bool :=
  if 256 ≤ s.heldCount slice then
    (s.updSlice slice fun x => { x with shut := if x.shut.contains asid then x.shut else asid :: x.shut }, false)
  else (s.updSlice slice fun x => { x with shut := [] }, true)

/-- An access to a line waits at its slice: behind a side-log entry of the line (R334), or shut out (R332). -/
def State.atBay (s : State) (asid line : Nat) : Bool := s.logged asid line || s.shutOut asid line

/-- A write of an engine, of a barrier's home or of the aperture to a line of which the side log holds an entry is appended behind it (R334): the
entry holds its place, and the write waits for its replay. False where no entry stands before it. -/
def State.unitWaits (s : State) (w : Who) (line : Nat) (m : Mask) (kind : Nat) : State × Bool :=
  if !s.logged w.asid line then (s, false)
  else if s.logFull line || ((s.slice (sliceOf (line * 64))).log.any fun e => e.who == w && e.line == line && e.act == .unit m) then (s, true)
  else (s.logAppend { who := w, line := line, act := .unit m, kind := kind, unres := false, req := none, rid := none }, true)

/-- How a write at the home ended: performed; accepted by the side log; refused; or not accepted, the log being full. -/
inductive WRes where
  | fin
  | logged
  | fail (cause : Nat)
  | full
  deriving DecidableEq, Repr

/-- WRITE BYTES OF A LINE AT THE HOME SLICE (R171, R172, R334): behind a side-log entry of the line, into the line, to the host, or,
on a fault that firmware answers, into the side log. `kind` is the KIND of R331; `unres` counts in UNRES; `req` is the part that
completes. -/
def State.homeWrite (s : State) (w : Who) (line : Nat) (x : Line) (m : Mask) (kind : Nat) (unres : Bool)
    (req : Option (Nat × Nat)) : State × WRes :=
  let ent (rid : Option Nat) : LogEnt :=
    { who := w, line := line, act := .write x m, kind := kind, unres := unres, req := req, rid := rid }
  if !w.inb && (s.logFull line || s.shutOut w.asid line) then (s, .full)
  else if !w.inb && s.logged w.asid line then (s.logAppend (ent none), .logged)
  else match s.home w line .write with
    | (s, .ok _) => (s.mcPut w.asid line x m, .fin)
    | (s, .poison) => (s.mcPut w.asid line x m, .fin)
    | (s, .host a) => (s.hostWrite a x m, .fin)
    | (s, .fail c) =>
      let va := line * 64 + (lanesOf m).headD 0
      if serviceable c && !w.inb && kind ≤ 2 then
        let (s, rid) := s.record w va c kind true
        (s.logAppend (ent (some rid)), .logged)
      else ((s.record w va c kind false).1, .fail c)

end Sys2Proof.Machine
end

