-- ==== Sys2Proof/Machine/Local.lean ====
section
/-! DEFINITION. Local store (R158 to R168): segments, the places that generic addresses lead to (R156, R157), writes at a home
with their stamped updates, and what is pending against a home. -/

namespace Sys2Proof.Machine

/-- The key of the segment that holds a byte of a core's local store. -/
def segKey (core off : Nat) : Nat := core * 512 + off / 4096
/-- A segment. -/
def State.seg (s : State) (k : Nat) : Seg := (s.segs.get k).getD Seg.reset
/-- Change a segment. -/
def State.updSeg (s : State) (k : Nat) (f : Seg → Seg) : State := { s with segs := s.segs.set k (f (s.seg k)) }
/-- The address of byte 0 of a segment in `State.ls`. -/
def segBase (k : Nat) : Nat := k * 4096

/-- Some 64-bit word of n bytes from a is poisoned (R416). -/
def State.lsBad (s : State) (a n : Nat) : Bool := s.lsPoison.any fun w => w < (a + n + 7) / 8 && a / 8 ≤ w
/-- Bytes of local store; none where a word is poisoned. -/
def State.lsRead (s : State) (a n : Nat) : Option (List Byte) := if s.lsBad a n then none else some (s.ls.read a n)
/-- Write a run of bytes; a word written whole loses its poison (R416). -/
def State.lsWrite (s : State) (a : Nat) (bs : List Byte) : State :=
  { s with ls := s.ls.write a bs, lsPoison := s.lsPoison.filter fun w => !(a ≤ 8 * w && 8 * w + 8 ≤ a + bs.length) }
/-- Set the bytes of local store to 0. -/
def State.lsZero (s : State) (a n : Nat) : State :=
  { s with ls := s.ls.filter fun c => c.1 < a || a + n ≤ c.1, lsPoison := s.lsPoison.filter fun w => 8 * w < a || a + n ≤ 8 * w }

/-- The runs of consecutive bytes that a mask names: first byte and length. -/
def maskRuns (m : Mask) : List (Nat × Nat) :=
  ((List.range 64).foldl (fun acc i =>
    if !m.getLsbD i then acc
    else match acc with
      | (b, n) :: r => if b + n = i then (b, n + 1) :: r else (i, 1) :: acc
      | [] => [(i, 1)]) []).reverse

/-- Write the masked bytes of a line of a segment. -/
def State.lsPut (s : State) (seg line : Nat) (x : Line) (m : Mask) : State :=
  (maskRuns m).foldl (fun s r => s.lsWrite (segBase seg + line * 64 + r.1) ((List.range r.2).map fun i => lineByte x (r.1 + i))) s

/-- A WRITE REACHES A HOME (R162): it is applied, and with subscribers it is stamped and multicast. -/
def State.segWrite (s : State) (seg line : Nat) (x : Line) (m : Mask) (core : Nat) : State :=
  let g := s.seg seg
  let s := s.lsPut seg line x m
  if g.subs.isEmpty then s
  else
    let q : Word := (g.seqs.get line).getD 0 + 1
    let s := s.updSeg seg fun g => { g with seqs := g.seqs.set line q }
    g.subs.foldl (fun s r => s.updSeg r fun g => { g with msgs := g.msgs ++ [.update line q m x core []] }) s

/-- The segment at which writes, strong accesses and atomics to a segment are performed; none while it is in transit (R161,
R164). -/
def State.segHome (s : State) (seg : Nat) : Option Nat := match (s.seg seg).st with
  | .t _ => none
  | .s => some (s.seg seg).home
  | _ => some seg

/-! ## Places -/

/-- A generic address names the scratchpad window of a core (R156): the core, by its die and index, and the offset. Whether the
segment is granted is not asked here. -/
def scratchOf (ga : Nat) : Option (Nat × Nat) :=
  let off := ga % 2 ^ 48
  if ga / 2 ^ 48 % 256 ≠ 0x71 || fld off 47 33 ≠ 0 || bit off 31 || fld off 23 21 ≠ 0 || 95 < fld off 30 24 then none
  else some (b2n (bit off 32) * 96 + fld off 30 24, fld off 20 0)

/-- The place of a generic address (R156, R157), with the shared window of a skein on a core and the grants of a slot;
in reduced service the pod window leads nowhere (R449). -/
def State.placeIn (s : State) (core skein slot ga : Nat) : Place :=
  let off := ga % 2 ^ 48
  match ga / 2 ^ 48 % 256 with
  | 0x00 => .global off
  | 0x70 => match s.skeins.get skein with
    | some k => match k.segs[off / 4096]? with
      | some n => .loc core (n * 4096 + off % 4096)
      | none => .bad
    | none => .bad
  | 0x71 => match scratchOf ga with
    | some (c, a) => if (s.seg (segKey c a)).cond = .scratch slot then .loc c a else .bad
    | none => .bad
  | t => if 0x80 ≤ t && !s.mgmt.reduced then .pod (fld ga 54 44) (fld ga 43 0) else .bad

/-- The place of a generic address for a ply (R156, R157). -/
def State.placeOf (s : State) (pid : Nat) (p : Ply) (ga : Nat) : Place := s.placeIn (plyCore pid) p.skein p.ctx ga

/-- The local VA of an exported offset (R337). -/
def podVa (off : Nat) : Nat := fld off 43 43 * 2 ^ 47 + fld off 42 0

/-- The place as the package's own memory: its own exported space is its global memory (R156, R337). -/
def State.alias (s : State) : Place → Place
  | .pod d o => if d = s.mgmt.devidx then .global (podVa o) else .pod d o
  | p => p

/-- Two runs of bytes overlap at the same place; local bytes are compared at their homes. -/
def State.overlap (s : State) (a : Place) (n : Nat) (b : Place) (m : Nat) : Bool :=
  let meet (x y : Nat) : Bool := x < y + m && y < x + n
  let at0 (c o : Nat) : Nat := segBase (let k := segKey c o
    if (s.seg k).st = .s then (s.seg k).home else k) + o % 4096
  match s.alias a, s.alias b with
  | .global x, .global y => meet x y
  | .loc c x, .loc d y => meet (at0 c x) (at0 d y)
  | .pod d x, .pod e y => d == e && meet x y
  | _, _ => false

/-! ## What is pending -/

/-- A request writes. -/
def MReq.writes (r : MReq) : Bool := match r.kind with
  | .st => true | .atom => true | .red => true | .tb => true | _ => false

/-- A part whose access is still to be performed: one to another package counts as performed once sent, because the packets of one
core to one line keep their order (R210). -/
def MPart.open' (p : MPart) : Bool := match p.st with
  | .wait => true
  | .inL1 => true
  | .held _ _ => true
  | .logged => true
  | .sent _ => match p.place with
    | .pod _ _ => false
    | _ => true
  | _ => false

/-- A part not yet finished. -/
def MPart.unfinished (p : MPart) : Bool := p.st != .fin

/-- A part is still to be performed as another one sees it: one sent to the package's own exported space is, for an access of the same bytes
as global memory, until its answer (R194, R196). -/
def State.opens (s : State) (o q : MPart) : Bool := o.open' || (match o.st, o.place, q.place with
  | .sent _, .pod d _, .global _ => d == s.mgmt.devidx
  | _, _, _ => false)

/-- An older access of a ply or of the thread of a part, not yet performed, stands in its way: they overlap (the program order of a
thread's accesses to a byte, reads among them, R172, R192, R194, R196). -/
def State.blockedBy (s : State) (op skein uid : Nat) (q : MPart) : Bool :=
  s.reqs.any fun e => e.1 < op && e.2.skein == skein &&
    e.2.parts.any fun o => s.opens o q && (e.2.uid == uid || o.tid == q.tid) && s.overlap o.place o.n q.place q.n
/-- The same for a part of a request. -/
def State.blocked (s : State) (op : Nat) (r : MReq) (q : MPart) : Bool := s.blockedBy op r.skein r.uid q

/-- The home of a segment that is a replica, or leaves that state under an UNSUBS (R161, R167). -/
def State.replicaHome (s : State) (g : Seg) : Option Nat := match g.st with
  | .s => some g.home
  | .t op => match (s.reqs.get op).map MReq.kind with
    | some (.unsubs _) => some g.home
    | _ => none
  | _ => none

/-- The writes of a core, in requests below a number, that its home has not yet stamped (R163). -/
def State.unstamped (s : State) (core home before : Nat) : Nat :=
  ((s.reqs.filter fun e => e.1 < before && e.2.writes && plyCore e.2.pid == core).map fun e =>
    (e.2.parts.filter fun q => q.open' && match q.place with
      | .loc c o => s.segHome (segKey c o) == some home
      | _ => false).length).sum

/-- The updates made by a core that a replica has not yet applied (R163). -/
def Seg.unapplied (g : Seg) (core : Nat) : Nat := (g.msgs.filter fun m => match m with
  | .update _ _ _ _ c _ => c == core
  | .marker _ => false).length

/-- An update of a line that a core has seen elsewhere waits for the replica to apply it (R196, R199). -/
def Seg.behind (g : Seg) (core line : Nat) : Bool := g.msgs.any fun m => match m with
  | .update l _ _ _ _ seen => l == line && seen.contains core
  | .marker _ => false

/-- A core has seen those updates of a home, by line and number, that a test accepts: its reads of a replica that has not applied one wait for it
(R196, R199, log entry 151). -/
def State.hear (s : State) (core home : Nat) (ok : Nat → Word → Bool) : State :=
  let msg : RepMsg → RepMsg
    | .update l q m x c seen => .update l q m x c (if ok l q && !seen.contains core then core :: seen else seen)
    | .marker a => .marker a
  { s with segs := s.segs.mapVals fun k g =>
      if (s.seg home).subs.contains k then { g with msgs := g.msgs.map msg } else g }

/-- A core has read a line of a home, or of a replica of it up to the updates that the replica has applied (R196). -/
def State.heard (s : State) (core seg line : Nat) : State := match (s.seg seg).st with
  | .s =>
    let open' (q : Word) : Bool := (s.seg seg).msgs.any fun m => match m with
      | .update l q' _ _ _ _ => l == line && q' == q
      | .marker _ => false
    s.hear core (s.seg seg).home fun l q => l == line && !open' q
  | _ => if (s.seg seg).subs.isEmpty then s else s.hear core seg fun l _ => l == line

/-- A core has acquired: it has seen every update of every home (R199, log entry 151). -/
def State.hearAll (s : State) (core : Nat) : State :=
  (s.segs.filter fun e => !e.2.subs.isEmpty).foldl (fun s e => s.hear core e.1 fun _ _ => true) s

/-- The writes that a core has pending against a home (R163): those not yet stamped there, of requests below a number, and those
not yet applied at its own replicas. -/
def State.pending (s : State) (core home before : Nat) : Nat :=
  let reps := (s.segs.range (core * 512) (core * 512 + 512)).filter fun e => s.replicaHome e.2 == some home
  if reps.isEmpty then 0
  else s.unstamped core home before + (reps.map fun e => e.2.unapplied core).sum

/-- The same for the one replica that a load reads (R163). -/
def State.pendingAt (s : State) (core replica before : Nat) : Nat :=
  s.unstamped core (s.seg replica).home before + (s.seg replica).unapplied core

/-- A read by a core of a line of a replica waits: for the core's own writes (R163), or for an update that the core has seen (R196, R199). -/
def State.replicaWaits (s : State) (core replica line before : Nat) : Bool :=
  s.pendingAt core replica before ≠ 0 || (s.seg replica).behind core line

/-- Every write that a core has forwarded to a home in requests below a number has been stamped there (R165). -/
def State.stamped (s : State) (core before : Nat) : Bool :=
  !(s.reqs.any fun e => e.1 < before && e.2.writes && plyCore e.2.pid == core && e.2.parts.any fun q => q.open' && match q.place with
    | .loc c o => q.fwd || (s.seg (segKey c o)).st == .s
    | _ => false)

end Sys2Proof.Machine
end

