-- ==== Sys2Proof/Machine/L1.lean ====
section
/-! DEFINITION. The L1s (R170 to R173), the write-combining buffers and requests that leave the package (R208 to R211, R338, R339,
R358 to R360), and the actions of releases and acquires (R165, R202, R206). -/

namespace Sys2Proof.Machine

/-! ## L1 lines -/

/-- The key of an L1 line: core, ASID, line. -/
def l1Key (core asid line : Nat) : Nat := (core * 8192 + asid) * 2 ^ 42 + line % 2 ^ 42
/-- The L1 lines of a core for an ASID. -/
def State.l1Lines (s : State) (core asid : Nat) : Tbl L1Line := s.l1.range (l1Key core asid 0) (l1Key core asid 0 + 2 ^ 42)
/-- The line number of an L1 key. -/
def l1LineNo (k : Nat) : Nat := k % 2 ^ 42

/-- A store's bytes enter the line (R171): valid, dirty, and owned by the ply. A byte written before the core's latest release stays one
that a promotion writes back (R206). -/
def State.l1Put (s : State) (core asid line : Nat) (x : Line) (m : Mask) (uid : Nat) : State :=
  let k := l1Key core asid line
  let e := (s.l1.get k).getD L1Line.empty
  let ow := (e.owners.filter fun o => o.1 != uid).map fun o => (o.1, o.2 &&& ~~~m)
  let mine := match e.owners.find? fun o => o.1 == uid with
    | some o => o.2
    | none => 0
  let e' := { e with data := lineMerge e.data x m, valid := e.valid ||| m, dirty := e.dirty ||| m,
                     owners := (ow.filter fun o => o.2 != 0) ++ [(uid, mine ||| m)] }
  { s with l1 := s.l1.set k e' }

/-- Who writes back a ply's bytes. -/
def State.whoUid (s : State) (uid core asid : Nat) : Who :=
  match s.plyUid uid with
  | some (pid, p) => { asid := asid, slot := some p.ctx, core := core, part := plyPart pid, pslot := plySlot pid, uid := some uid,
                       dev := 0, inb := false }
  | none => { asid := asid, slot := none, core := core, part := 0, pslot := 0, uid := some uid, dev := 0, inb := false }

/-- The L1 line that a request on the die link reads or writes for a part of a load-store request. -/
def State.dlL1 (s : State) (q : DlReq) : Option Nat := match q.use with
  | .part op idx => match s.reqs.get op with
    | some r => match (r.parts[idx]?).map MPart.place with
      | some (.global va) => some (l1Key (plyCore r.pid) (s.slotAsid r.slot) (va / 64))
      | _ => none
    | none => none
  | _ => none

/-- L1 lines that a test names change: what is on its way to them over the die link may be old when it arrives (R196, R199, R432). -/
def State.dlStale (s : State) (hit : Nat → Bool) : State :=
  { s with dlReqs := s.dlReqs.mapVals fun _ q => match s.dlL1 q with
      | some k => if hit k then { q with stale := true } else q
      | none => q }

/-- Take bytes out of an L1 line's dirty mask, and with `drop` out of its valid mask too. -/
def State.l1Clean (s : State) (k : Nat) (m : Mask) (drop : Bool) : State :=
  { (s.dlStale (· == k)) with l1 := s.l1.upd k fun e => { e with
      dirty := e.dirty &&& ~~~m, old := e.old &&& ~~~m, valid := if drop then e.valid &&& ~~~m else e.valid,
      owners := (e.owners.map fun o => (o.1, o.2 &&& ~~~m)).filter fun o => o.2 != 0 } }

/-- The bytes of a line that a mask names have reached their home: they are clean, but for those written since. -/
def State.l1Sent (s : State) (k : Nat) (x : Line) (m : Mask) (drop : Bool) : State := match s.l1.get k with
  | some e => s.l1Clean k (maskOf ((lanesOf m).filter fun i => lineByte e.data i == lineByte x i)) drop
  | none => s

/-- A write-back of a line is on the die link. -/
def State.l1Sending (s : State) (k : Nat) : Bool := s.dlReqs.any fun q => match q.2.use with
  | .back j _ _ _ => j == k
  | _ => false

/-- A write-back to the other die crosses the die link as a WR (R430, R432): sent where credit allows and none of the line is on its way. None where
it does not cross: the page is not translated, refuses the write or is a HOST page, or a side log holds the line. -/
def State.l1Cross (s : State) (core asid line uid : Nat) (x : Line) (m : Mask) : Option State :=
  let k := l1Key core asid line
  if !s.dlLinked || line / 2 ^ 41 % 2 = coreDie core || s.atBay asid line then none
  else match s.tlbFind asid (line * 64) with
    | none => none
    | some l =>
      if l.host || (permCause l .write false).isSome then none
      else if s.l1Sending k then some s
      else some (((s.dlAsk (3 * coreDie core + 1) (fun tag => dlMake 0 0x02 asid (leafPhys l (line * 64)) tag 0 false (lineSlots x m (nlEncode l.nl x)))
        (.back k uid x m)).map Prod.fst).getD s)

/-- WRITE BACK the dirty bytes of a line that a mask names, ply by ply (R170, R171, R334): bytes that the side log accepts or a
fault discards leave the line, and so do those of a HOST page, of which the L1 holds nothing (R170, R177). With `cross`, those of a line of the other
die await its acknowledgement (R432). Answers whether every byte went. -/
def State.l1BackBy (s : State) (cross : Bool) (core asid line : Nat) (sel : Mask) : State × Bool :=
  let k := l1Key core asid line
  match s.l1.get k with
  | none => (s, true)
  | some e => e.owners.foldl (fun (acc : State × Bool) o =>
      let m := o.2 &&& e.dirty &&& sel
      if m = 0 then acc
      else match (if cross then acc.1.l1Cross core asid line o.1 e.data m else none) with
      | some t => (t, false)
      | none => match acc.1.homeWrite (acc.1.whoUid o.1 core asid) line e.data m 1 true none with
        | (t, .fin) => (t.l1Clean k m (t.mc.get (mcKey asid line)).isNone, acc.2)
        | (t, .logged) => (t.l1Clean k m true, acc.2)
        | (t, .fail _) => ((t.storeFault (some o.1) 1 (line * 64)).l1Clean k m true, acc.2)
        | (t, .full) => (t, false)) (s, true)

/-- The same, across the die link where the line is the other die's. -/
def State.l1Back (s : State) (core asid line : Nat) (sel : Mask) : State × Bool := s.l1BackBy true core asid line sel

/-- Write back lines of a core for an ASID; `old` limits it to the bytes written before the core's latest release (R206). -/
def State.l1BackAll (s : State) (core asid : Nat) (old : Bool) : State × Bool :=
  (s.l1Lines core asid).foldl (fun (acc : State × Bool) e =>
    let (t, ok) := acc.1.l1Back core asid (l1LineNo e.1) (if old then e.2.old else ~~~0#64)
    (t, acc.2 && ok)) (s, true)

/-- Invalidate every valid byte that is not dirty (R173). -/
def State.l1Inval (s : State) (core asid : Nat) : State :=
  let lo := l1Key core asid 0
  let t := s.dlStale fun k => lo ≤ k && k < lo + 2 ^ 42
  { t with l1 := s.l1.filterMap fun e =>
      if lo ≤ e.1 && e.1 < lo + 2 ^ 42 then
        (if e.2.dirty = 0 && !e.2.probe then none else some (e.1, { e.2 with valid := e.2.dirty, poison := false }))
      else some e }

/-- Write a line back and invalidate it: what precedes a strong access of the core to it (R172), and what a shootdown does (R173). -/
def State.l1Purge (s : State) (core asid line : Nat) : State × Bool :=
  let (s, ok) := s.l1Back core asid line (~~~0#64)
  if ok then ({ (s.dlStale (· == l1Key core asid line)) with l1 := s.l1.del (l1Key core asid line) }, true) else (s, false)

/-- The lines of a core's L1 in the set of a line: 256 sets, here by the low bits of the line number (R170, log entry 131). -/
def State.l1Set (s : State) (core line : Nat) : Tbl L1Line :=
  (s.l1.range (core * 2 ^ 55) ((core + 1) * 2 ^ 55)).filter fun e => e.1 % 256 == line % 256

/-- MAKE ROOM for a line in its set of 12 ways (R170): a victim of the hardware's choice is written back; false where no side log takes
it. -/
def State.l1Room (s : State) (core asid line : Nat) : State × Bool :=
  let ls := s.l1Set core line
  if (s.l1.get (l1Key core asid line)).isSome || ls.length < 12 then (s, true)
  else
    let (n, s) := s.drawFree
    match ls[Config.freeNat n % 12]? with
    | none => (s, true)
    | some v => s.l1Purge core (v.1 / 2 ^ 42 % 8192) (l1LineNo v.1)

/-- Drop the clean bytes of a line: a strong access of the core has been performed at the home behind it (R172, R196). -/
def State.l1Stale (s : State) (core asid line : Nat) : State :=
  { (s.dlStale (· == l1Key core asid line)) with l1 := s.l1.upd (l1Key core asid line) fun e => { e with valid := e.dirty, poison := false } }

/-- Fill a line from its home, under its dirty bytes (R171, R417). Where no way of its set can be given up, nothing is kept. -/
def State.l1Fill (s : State) (core asid line : Nat) (x : Option Line) (w : Bool) : State :=
  let k := l1Key core asid line
  let (s, room) := s.l1Room core asid line
  if !room then s
  else
    let e := (s.l1.get k).getD L1Line.empty
    let s := s.dlStale (· == k)
    match x with
    | some d => { s with l1 := s.l1.set k { e with data := lineMerge d e.data e.dirty, valid := ~~~0#64, w := w, poison := false } }
    | none => { s with l1 := s.l1.set k { e with valid := e.dirty, w := w, poison := true } }

/-- The write permission that a fill returns: that of the leaf at the home. -/
def State.homeW (s : State) (asid line : Nat) : Bool := match s.mc.get (mcKey asid line) with
  | some e => e.leaf.w
  | none => false

/-! ## Requests that leave the package -/

/-- Make a packet of this package: the next number of its flow (R354, R356). -/
def State.fabMake (s : State) (cls : FabCls) (agent dst hop : Nat) (body : FabBody) : State × FabPkt :=
  let c := match cls with
    | .mem => 0 | .rsp => 1 | .eng => 2 | .ctl => 3
  let key := (c * 4096 + agent) * 2048 + dst
  let q := (s.flowOut.get key).getD 0
  ({ s with flowOut := s.flowOut.set key (q + 1) },
    { cls := cls, src := s.mgmt.devidx, agent := agent, dst := dst, hop := hop, seq := q, body := body })

/-- Send a packet: it takes the next sequence number of its flow (R354, R356). -/
def State.fabSend (s : State) (cls : FabCls) (agent dst : Nat) (body : FabBody) : State :=
  let x := s.fabMake cls agent dst 0 body
  { x.1 with fabOut := x.1.fabOut ++ [x.2] }

/-- Send a request to another package at an offset (R358, R360). -/
def State.podSendAt (s : State) (r : RReq) (off : Nat) (op : PodOp) : State × Nat :=
  let (n, s) := s.freshOp
  let s := { s with remote := s.remote.set n { r with clock := none } }
  (s.fabSend .mem r.core r.dev (.access { dev := s.mgmt.devidx, req := n, ctxid := pktCtxid (s.ctx r.slot), off := off, op := op }), n)
/-- Send a request whose offset is that of its first byte. -/
def State.podSend (s : State) (r : RReq) (op : PodOp) : State × Nat := s.podSendAt r r.off op

/-- Send a request to host memory (R177, R441): the message is made from the request number. -/
def State.hostSend (s : State) (r : RReq) (msg : Nat → PcieMsg) : State × Nat :=
  let (n, s) := s.freshOp
  ({ s with remote := s.remote.set n { r with clock := some s.clock, host := true }, pcieOut := s.pcieOut ++ [msg n] }, n)

/-- The write-combining entries of a core. -/
def State.wcOf (s : State) (core : Nat) : List WcEnt := (s.wcb.get core).getD []

/-- DRAIN write-combining entries of a core (R209): each becomes one masked fabric write and leaves the buffer. -/
def State.wcDrain (s : State) (core : Nat) (which : WcEnt → Bool) : State :=
  let out := (s.wcOf core).filter which
  if out.isEmpty then s
  else
    let s := { s with wcb := s.wcb.set core ((s.wcOf core).filter fun e => !which e) }
    out.foldl (fun s e => (s.podSendAt
      { use := .wc core e.slot e.dev e.line, dev := e.dev, off := e.line * 64 + (lanesOf e.mask).headD 0, clock := none, core := core, slot := e.slot, pid := 0,
        write := true, host := false }
      (e.line * 64) (.write ((List.range 64).map fun i => if e.mask.getLsbD i then some (lineByte e.data i) else none))).1) s

/-- A drained write of a core and slot that passes a test is not yet acknowledged. -/
def State.wcWaiting (s : State) (core slot : Nat) (which : Nat → Nat → Bool) : Bool :=
  s.remote.any fun r => match r.2.use with
    | .wc c k dev line => c == core && k == slot && which dev line
    | _ => false

/-- A weak pod store enters the buffer (R208); with no free entry the oldest drains first, and a line whose 64 bytes are all valid
drains (R209). -/
def State.wcStore (s : State) (core slot dev line : Nat) (x : Line) (m : Mask) : State :=
  let es := s.wcOf core
  let mine (e : WcEnt) : Bool := e.slot == slot && e.dev == dev && e.line == line
  let s := if es.any mine then
      let es' := es.map fun e => if mine e then { e with mask := e.mask ||| m, data := lineMerge e.data x m } else e
      { s with wcb := s.wcb.set core es' }
    else
      let s := match es with
        | o :: _ => if 64 ≤ es.length then s.wcDrain core fun e => e == o else s
        | [] => s
      { s with wcb := s.wcb.set core (s.wcOf core ++ [{ slot := slot, dev := dev, line := line, mask := m, data := x, clock := s.clock }]) }
  s.wcDrain core fun e => e.mask == ~~~0#64

/-- The key of REMERR: core and slot (R339). -/
def remKey (core slot : Nat) : Nat := core * 256 + slot

/-- A pod-window address (R156, R211). -/
def podGa (dev off : Nat) : Nat := 2 ^ 55 + dev * 2 ^ 44 + off % 2 ^ 44

/-- A remote write was refused (with a cause) or timed out (none): REMERR, and the deferred conditions of R211, R339. -/
def State.remoteErr (s : State) (core slot dev off : Nat) (cause : Option Nat) : State :=
  let k := remKey core slot
  let v := ((s.remerr.get k).getD 0).toNat
  let v' := if bit v 63 then v ||| 2 ^ 62 else 2 ^ 63 + b2n (bit v 62) * 2 ^ 62 + cause.getD 0 * 2 ^ 56 + dev * 2 ^ 44 + off % 2 ^ 44
  let c : Cond := { kind := .remote, code := 0x105, sub := if cause.isSome then 2 else 3, va := podGa dev off }
  { s with remerr := s.remerr.set k (BitVec.ofNat 64 v'),
           plies := s.plies.mapVals fun pid p =>
             if plyCore pid == core && p.ctx == slot && p.podStore then { p with conds := p.conds ++ [c] } else p }

/-! ## Releases and acquires -/

/-- A request is the ply's own, or one of its threads made it in an earlier ply (R81, R99). -/
def MReq.ofPly (r : MReq) (p : Ply) : Bool :=
  r.uid == p.uid || (r.skein == p.skein && r.tids.any fun t => p.lanes.contains (some t))

/-- A multicast of the ply or of its threads is not acknowledged (R202, R211, R362). -/
def State.mcstOpen (s : State) (p : Ply) : Bool := s.remote.any fun r => match r.2.use with
  | .mcst _ skein tids uid => uid == p.uid || (skein == p.skein && tids.any fun t => p.lanes.contains (some t))
  | _ => false

/-- Earlier accesses that a ply's release waits for (R202): requests and multicasts of its threads. -/
def State.accessesOpen (s : State) (p : Ply) : Bool :=
  (s.reqs.any fun e => e.2.kind != .refill && e.2.ofPly p) || s.mcstOpen p

/-- A scope reaches beyond the core. -/
def wideScope : Scope → Bool
  | .core => false
  | _ => true
/-- A scope at which remote stores are covered (R209, R211). -/
def remoteScope : Scope → Bool
  | .pkg => true
  | .pod => true
  | _ => false

/-- The core's latest release, for promotion (R206). -/
def State.noteRelease (s : State) (core slot asid : Nat) : State :=
  let lo := l1Key core asid 0
  { s with relOp := s.relOp.set (remKey core slot) s.nextOp,
           l1 := s.l1.mapVals fun k e => if lo ≤ k && k < lo + 2 ^ 42 then { e with old := e.dirty } else e }

/-- RELEASE ACTIONS (R202, R165, R209, R211, R335), tried again until done: the earlier accesses complete; beyond the core the L1
is written back, forwarded writes are stamped, at `.pkg` and `.pod` the buffer drains, and UNRES is 0. -/
def State.release (s : State) (pid : Nat) (scope : Scope) : State × Bool :=
  match s.ply? pid with
  | none => (s, true)
  | some p =>
    let core := plyCore pid
    let asid := s.slotAsid p.ctx
    if s.accessesOpen p then (s, false)
    else if !wideScope scope then (s.noteRelease core p.ctx asid, true)
    else
      let (s, ok) := s.l1BackAll core asid false
      let s := if remoteScope scope then s.wcDrain core fun e => e.slot == p.ctx else s
      let unres := match s.ply? pid with
        | some q => q.unres
        | none => 0
      if ok && s.stamped core s.nextOp && !(remoteScope scope && s.wcWaiting core p.ctx fun _ _ => true) && unres == 0 then
        let s := s.noteRelease core p.ctx asid
        (if remoteScope scope then s.updPly pid fun p => { p with podStore := false } else s, true)
      else (s, false)

/-- An acquire of the ply, or of one of its threads in an earlier ply, has not completed: no later access of its threads issues
(R202). -/
def State.acquiring (s : State) (p : Ply) (pid : Nat) : Bool :=
  s.reqs.any (fun e => e.2.ofPly p && (match e.2.ord with
    | .acq => true
    | .ar => true
    | _ => false)) || s.acqs.any (fun a => a.2.pid == pid) || s.deckOps.any fun d => d.2.ofPly p.uid p.skein p.lanes && d.2.kind != .st

/-- The replicas that a core holds. -/
def State.replicas (s : State) (core : Nat) : List Nat :=
  ((s.segs.range (core * 512) (core * 512 + 512)).filter fun e => e.2.st == .s).map Prod.fst

/-- Send the sync markers of an acquire: each home places it behind every update it has multicast (R165). -/
def State.sendMarkers (s : State) (id : Nat) (a : Acq) : State :=
  let rs := if wideScope a.scope then s.replicas a.core else []
  let s := { s with acqs := s.acqs.set id { a with promo := none, markers := rs } }
  rs.foldl (fun s r => s.updSeg r fun g => { g with msgs := g.msgs ++ [.marker id] }) s

/-- An acquire's last action: the clean bytes of the core's L1 (R202), for the context. -/
def State.acqEnd (s : State) (a : Acq) : State :=
  if wideScope a.scope then (s.l1Inval a.core (s.slotAsid a.slot)).hearAll a.core else s

/-- Begin an acquire under a number (R202, R206): with `.rp` the promotion comes first and the scope becomes `.pkg`. It ends at
once when nothing is awaited. -/
def State.acqBegin (s : State) (id pid : Nat) (scope : Scope) (rp : Bool) : State :=
  match s.ply? pid with
  | none => s
  | some p =>
    let a : Acq := { pid := pid, core := plyCore pid, slot := p.ctx, scope := if rp then .pkg else scope, promo := none, markers := [] }
    if rp then { s with acqs := s.acqs.set id { a with promo := some (List.range 192) } }
    else if wideScope a.scope && !(s.replicas a.core).isEmpty then s.sendMarkers id a
    else s.acqEnd a

/-- An acquire has ended. -/
def State.acqDone (s : State) (id : Nat) : Bool := (s.acqs.get id).isNone

end Sys2Proof.Machine
end

