-- ==== Sys2Proof/Machine/Lsu.lean ====
section
/-! DEFINITION. The load-store unit (R178 to R192): the parts of a request, delivery and completion, the performing of loads,
stores and atomics, and the instructions LD, ST, ATOM, ATOMCAS, RED, PREF, SPILL and FILL with the steps that complete them. -/

namespace Sys2Proof.Machine

/-! ## Requests and their parts -/

/-- Bytes of an element. -/
def tyBytes (ty : Ty) : Nat := tyBits ty / 8

/-- The parts of an access of n bytes at an address, split at lines (R180). -/
def State.mkParts (s : State) (pid : Nat) (p : Ply) (lane tid ga n data data2 : Nat) : List MPart :=
  let ga := ga % 2 ^ 56
  (pieces ga n).map fun x =>
    let a := (x.1 * 64 + x.2.1) % 2 ^ 56
    let k := x.1 * 64 + x.2.1 - ga
    { lane := lane, tid := tid, k := k, ga := a, place := s.placeOf pid p a, n := x.2.2, data := data / 2 ^ (8 * k) % 2 ^ (8 * x.2.2),
      data2 := data2, st := .wait }

/-- Change a part of a request. -/
def State.updMPart (s : State) (op idx : Nat) (f : MPart → MPart) : State :=
  { s with reqs := s.reqs.upd op fun r => { r with parts := r.parts.zipIdx.map fun x => if x.2 = idx then f x.1 else x.1 } }
/-- Set how far a part has come. -/
def State.setPSt (s : State) (op idx : Nat) (st : PSt) : State := s.updMPart op idx fun q => { q with st := st }
/-- The parts of a request, numbered. -/
def MReq.numbered (r : MReq) : List (MPart × Nat) := r.parts.zipIdx

/-- A line with n bytes of a number from byte i. -/
def lineAt (i n v : Nat) : Line := BitVec.ofNat 512 ((v % 2 ^ (8 * n)) <<< (8 * i))

/-- The request is complete: it leaves the table and completes in its class (R18, R183). -/
def State.reqEnd (s : State) (op : Nat) (r : MReq) : State :=
  let s := { s with reqs := s.reqs.del op }
  if r.uns then s else s.completeOp r.pid op

/-- A request all of whose parts have finished completes; an acquire first takes its actions (R202). -/
def State.finishReq (s : State) (op : Nat) : State :=
  match s.reqs.get op with
  | none => s
  | some r =>
    if r.parts.any MPart.unfinished || r.acq then s
    else
      let isAcq := match r.ord with
        | .acq => true
        | .ar => true
        | _ => false
      if isAcq then
        let s := s.acqBegin op r.pid r.scope r.rp
        if s.acqDone op then s.reqEnd op r else { s with reqs := s.reqs.set op { r with acq := true } }
      else s.reqEnd op r

/-- The register words of an element (R66, R181). -/
def elemWords (ty : Ty) (x : Nat) : List Word :=
  if ty64 ty then toWords 2 x else if tyInt ty then [BitVec.ofNat 32 (wrapNat 32 (extInt ty x))] else [BitVec.ofNat 32 x]

/-- The register words of a lane's data. -/
def loadWords (ty : Ty) (n : Nat) (bs : List Byte) : List Word :=
  (List.range n).flatMap fun k => elemWords ty (leNat ((bs.drop (k * tyBytes ty)).take (tyBytes ty)))

/-- Words arrive in a request's destination in one lane (R30, R33). -/
def State.arriveLane (s : State) (op : Nat) (r : MReq) (tid : Nat) (ws : List Word) : State := match r.dst with
  | .v n => s.updThread r.skein tid fun t => { t with regs := t.regs.arrive op n ws }
  | .s n => s.arriveS r.pid op n ws
  | _ => s
/-- A fault record arrives in one lane (R31). -/
def State.faultLane (s : State) (op : Nat) (r : MReq) (tid sub : Nat) : State :=
  let rec' := faultRecord sub (codeOff (s.ctx r.slot) r.pc.toNat)
  match r.dst with
  | .v n => s.updThread r.skein tid fun t => { t with regs := t.regs.arriveFault op n r.dregs rec' }
  | .s n => s.faultS r.pid op rec' n r.dregs
  | _ => s

/-- The outcome of a lane whose parts have all been performed: its bytes, or the first subtype (R181); none while one is open. -/
def laneResult : List MPart → Option (List Byte × Option Nat)
  | [] => some ([], none)
  | q :: qs => match q.st, laneResult qs with
    | .ready b, some (bs, f) => some (b ++ bs, f)
    | .bad n, some (bs, _) => some (bs, some n)
    | _, _ => none

/-- A part waits for an answer of another package or of the host. -/
def MPart.inFlight (q : MPart) : Bool := match q.st with
  | .sent _ => true
  | _ => false

/-- A ply is saved: what arrives for it waits until it is restored (R313). -/
def State.uidAway (s : State) (uid : Nat) : Bool := s.saved.any fun v => v.2.plies.any fun p => p.2.uid == uid

/-- DELIVER A LANE (R181): every destination register of the lane takes its data or the fault record. The lanes of a combined atomic are answered
together (R186, R188). -/
def State.deliver (s : State) (op lane : Nat) : State :=
  match s.reqs.get op with
  | none => s
  | some r =>
    let ps := r.parts.filter fun q => q.lane == lane && q.st != .fin
    if s.uidAway r.uid || (r.kind == .atom && ps.any fun q => r.parts.any fun o => o.ga == q.ga && o.inFlight) then s
    else match ps, laneResult ps with
    | q :: _, some (bs, f) =>
      let s := match f with
        | some sub => s.faultLane op r q.tid sub
        | none => s.arriveLane op r q.tid (loadWords r.ty r.n bs)
      let s := { s with reqs := s.reqs.upd op fun r => { r with parts := r.parts.map fun (q : MPart) =>
        if q.lane == lane then { q with st := .fin } else q } }
      s.finishReq op
    | _, _ => s

/-! ## Performing the parts of loads -/

/-- The maker of a request, for translation and records. -/
def State.whoReq (s : State) (r : MReq) : Who :=
  { asid := s.slotAsid r.slot, slot := some r.slot, core := plyCore r.pid, part := plyPart r.pid, pslot := plySlot r.pid,
    uid := some r.uid, dev := 0, inb := false, off := codeOff (s.ctx r.slot) r.pc.toNat }

/-- A line can be reached without a page walk: the cache holds it, or a TLB its page. -/
def State.mapped (s : State) (asid line : Nat) : Bool :=
  (s.mc.get (mcKey asid line)).isSome || (s.tlbFind asid (line * 64)).isSome

/-- Bytes [i, i + n) of a line. -/
def lineSlice (x : Line) (i n : Nat) : List Byte := (List.range n).map fun j => lineByte x (i + j)

/-- A load or returning atomic's part meets a refusal (R332, R336): held when firmware can answer and the hold has room, refused
at once otherwise. KIND 0. -/
def State.loadFault (s : State) (op idx : Nat) (r : MReq) (va cause : Nat) : State :=
  let w := s.whoReq r
  if serviceable cause then match s.holdRoom (sliceOf va) w.asid with
    | (s, false) => s
    | (s, true) =>
      let (s, rid) := s.record w va cause 0 true
      s.setPSt op idx (.held (sliceOf va) rid)
  else ((s.record w va cause 0 false).1).setPSt op idx (.bad 1)

/-- A part reads a line at its home slice (R171, R172, R195): what it reads, a request to the host, or a refusal. Weak loads fill
the L1. -/
def State.loadHome (s : State) (op idx : Nat) (r : MReq) (q : MPart) (line i : Nat) (weak : Bool) : State :=
  let w := s.whoReq r
  let core := plyCore r.pid
  if s.atBay w.asid line then s
  else match s.home w line .read with
    | (s, .ok x) =>
      let s := if weak then s.l1Fill core w.asid line (some x) (s.homeW w.asid line) else s
      let x' := if weak then match s.l1.get (l1Key core w.asid line) with
          | some e => e.data
          | none => x
        else x
      s.setPSt op idx (.ready (lineSlice x' i q.n))
    | (s, .poison) =>
      let s := if weak then s.l1Fill core w.asid line none (s.homeW w.asid line) else s
      s.setPSt op idx (.bad 5)
    | (s, .host a) =>
      let (s, n) := s.hostSend { use := .part op idx, dev := 0, off := a + i, clock := none, core := core, slot := r.slot, pid := r.pid,
                                 write := false, host := true } (fun n => .read n (a + i) q.n)
      s.setPSt op idx (.sent n)
    | (s, .fail c) => s.loadFault op idx r (line * 64 + i) c

/-- A part that waits tries to read (R163, R164, R171, R172, R181). It stays as it is while an older access of the thread or a page
walk stands before it. -/
def State.loadTry (s : State) (op idx : Nat) (r : MReq) (q : MPart) : State :=
  if s.blocked op r q then s
  else
    let weak := r.ord == .weak
    let core := plyCore r.pid
    match q.place with
    | .bad => s.setPSt op idx (.bad 1)
    | .pod _ _ => s
    | .loc c off =>
      let k := segKey c off
      let read (seg : Nat) : State := match s.lsRead (segBase seg + off % 4096) q.n with
        | some bs => (s.heard core seg (off % 4096 / 64)).setPSt op idx (.ready bs)
        | none => s.setPSt op idx (.bad 5)
      match (s.seg k).st with
      | .t _ => s
      | .s => if weak then (if s.replicaWaits core k (off % 4096 / 64) op then s else read k) else read (s.seg k).home
      | _ => read k
    | .global va =>
      let asid := s.slotAsid r.slot
      let line := va / 64
      let i := va % 64
      if weak then
        match s.l1.get (l1Key core asid line) with
        | some e =>
          if byteSpan i q.n &&& ~~~e.valid = 0 then s.setPSt op idx (.ready (lineSlice e.data i q.n))
          else if e.poison then s.setPSt op idx (.bad 5)
          else if s.mapped asid line then s.loadHome op idx r q line i true else s
        | none => if s.mapped asid line then s.loadHome op idx r q line i true else s
      else if !s.mapped asid line then s
      else match s.l1Purge core asid line with
        | (s, true) => s.loadHome op idx r q line i false
        | (s, false) => s

/-- Try every waiting part of a lane. -/
def State.loadLane (s : State) (op lane : Nat) : State :=
  match s.reqs.get op with
  | none => s
  | some r => r.numbered.foldl (fun s x => if x.1.lane == lane && x.1.st == .wait then s.loadTry op x.2 r x.1 else s) s

/-! ## Performing the parts of stores -/

/-- An earlier lane's part of the same request to some of the same bytes is still to be performed, so that this one waits: the highest lane's
value remains, and the lanes' stores keep their order (R182). -/
def State.behind (s : State) (op idx : Nat) (q : MPart) : Bool := match s.reqs.get op with
  | some r => (r.parts.take idx).any fun o => (match o.st with
      | .wait => true
      | .sent _ => s.opens o q
      | _ => false) && s.overlap o.place o.n q.place q.n
  | none => false

/-- Drain the write-combining entries of a slot that name lines of a test, and whether none of their writes is still unacknowledged (R208,
R209). -/
def State.wcClear (s : State) (core slot : Nat) (meets : Nat → Nat → Bool) : State × Bool :=
  let s := s.wcDrain core fun e => e.slot == slot && meets e.dev e.line
  (s, !s.wcWaiting core slot meets)

/-- The L1 gives up the lines of the package's own memory that pod lines name (R156, R172, R194); false where a side log is full. -/
def State.ownPurge (s : State) (core asid : Nat) (ls : List (Nat × Nat)) : State × Bool :=
  (ls.filter fun x => x.1 == s.mgmt.devidx).foldl (fun (acc : State × Bool) x =>
    let (t, ok) := acc.1.l1Purge core asid (podVa (x.2 * 64) / 64)
    (t, acc.2 && ok)) (s, true)

/-- The part of a weak store at issue (R171, R208): global bytes enter the L1, as soon as its set has room; pod bytes the write-combining
buffer. A line without write permission is probed. -/
def State.storeWeak (s : State) (op idx : Nat) (r : MReq) (q : MPart) : State :=
  let core := plyCore r.pid
  if s.behind op idx q then s
  else match q.place with
  | .global va =>
    let asid := s.slotAsid r.slot
    match s.wcClear core r.slot fun d l => d == s.mgmt.devidx && podVa (l * 64) / 64 == va / 64 with
    | (s, false) => s
    | (s, true) => match s.l1Room core asid (va / 64) with
    | (s, false) => s
    | (s, true) =>
      let s := s.l1Put core asid (va / 64) (lineAt (va % 64) q.n q.data) (byteSpan (va % 64) q.n) r.uid
      match s.l1.get (l1Key core asid (va / 64)) with
      | some e =>
        if e.w then s.setPSt op idx .fin
        else { s with l1 := s.l1.set (l1Key core asid (va / 64)) { e with probe := true } }.setPSt op idx .inL1
      | none => s
  | .pod d o => match s.ownPurge core (s.slotAsid r.slot) [(d, o / 64)] with
    | (s, false) => s
    | (s, true) => (s.wcStore core r.slot d (o / 64) (lineAt (o % 64) q.n q.data) (byteSpan (o % 64) q.n)).setPSt op idx .fin
  | _ => s

/-- A waiting part of a store tries to be performed (R162, R171, R172, R183). -/
def State.storeTry (s : State) (op idx : Nat) (r : MReq) (q : MPart) : State :=
  if s.blocked op r q || s.behind op idx q then s
  else
    let core := plyCore r.pid
    match q.place with
    | .bad => s.setPSt op idx .fin
    | .pod _ _ => if r.ord == .weak then s.storeWeak op idx r q else s
    | .loc c off =>
      match s.segHome (segKey c off) with
      | none => s
      | some h => (s.segWrite h (off % 4096 / 64) (lineAt (off % 64) q.n q.data) (byteSpan (off % 64) q.n) core).setPSt op idx .fin
    | .global va =>
      let asid := s.slotAsid r.slot
      let line := va / 64
      if r.ord == .weak then
        match q.st, s.l1.get (l1Key core asid line) with
        | .inL1, some e => if e.probe then s else s.setPSt op idx .fin
        | .inL1, none => s.setPSt op idx .fin
        | _, _ => s.storeWeak op idx r q
      else match s.l1Purge core asid line with
        | (s, false) => s
        | (s, true) => match s.homeWrite (s.whoReq r) line (lineAt (va % 64) q.n q.data) (byteSpan (va % 64) q.n) 2 false (some (op, idx)) with
          | (s, .fin) => s.setPSt op idx .fin
          | (s, .logged) => s.setPSt op idx .logged
          | (s, .fail _) => (s.storeFault (some r.uid) 1 va).setPSt op idx .fin
          | (s, .full) => s

/-- Try every waiting part of a store. -/
def State.storeAll (s : State) (op : Nat) : State :=
  match s.reqs.get op with
  | none => s
  | some r => r.numbered.foldl (fun s x => if x.1.st == .wait || x.1.st == .inL1 then s.storeTry op x.2 r x.1 else s) s

/-! ## Atomics (R185, R186) -/

/-- The new value of an atomic operation (R185). -/
def opNew (op : Nat) (ty : Ty) (old b : Nat) : Nat :=
  let w := tyBits ty
  match op with
  | 0 => (old + b) % 2 ^ w
  | 1 => (faddVal .f32 rmSatDefault 0 old b).1
  | 2 => if ty == .f32 then fmnmx .f32 false old b else if extInt ty b < extInt ty old then b else old
  | 3 => if ty == .f32 then fmnmx .f32 true old b else if extInt ty old < extInt ty b then b else old
  | 4 => old &&& b
  | 5 => old ||| b
  | 6 => old ^^^ b
  | 7 => b
  | 8 => if b ≤ old then 0 else old + 1
  | 9 => if old = 0 ∨ b < old then b else old - 1
  | _ => old

/-- One lane's step: `cas` compares bit patterns (R185, R186). -/
def atomStep (cas : Bool) (op : Nat) (ty : Ty) (v b new : Nat) : Nat :=
  if cas then (if v = b then new else v) else opNew op ty v b

/-- The steps of the lanes in order (R186): what each lane receives, and the value left. -/
def atomRun (cas : Bool) (op : Nat) (ty : Ty) : Nat → List (Nat × Nat) → List Nat × Nat
  | v, [] => ([], v)
  | v, (b, new) :: xs =>
    let (rs, v') := atomRun cas op ty (atomStep cas op ty v b new) xs
    (v :: rs, v')

/-- The code that `aop` holds for ATOMCAS. -/
def aopCas : Nat := 16

/-- The parts of a request at a location, numbered, that wait. -/
def MReq.atLoc (r : MReq) (ga : Nat) : List (MPart × Nat) := r.numbered.filter fun x => x.1.ga == ga && x.1.st == .wait

/-- Give the lanes of a location what they receive from an old value (R186); RED returns nothing. -/
def State.atomGive (s : State) (op : Nat) (r : MReq) (xs : List (MPart × Nat)) (old : Nat) : State × Nat :=
  let (rs, v) := atomRun (r.aop == aopCas) r.aop r.ty old (xs.map fun x => (x.1.data, x.1.data2))
  let s := (xs.zip rs).foldl (fun s x =>
    s.setPSt op x.1.2 (if r.kind == .red then .fin else .ready (leBytes (tyBytes r.ty) x.2))) s
  (s, v)

/-- The lanes of a location fail (R188, R336, R417): FAULTED for a returning atomic, a deferred condition for a RED. -/
def State.atomFail (s : State) (op : Nat) (r : MReq) (xs : List (MPart × Nat)) (ga sub : Nat) : State :=
  if r.kind == .red then (xs.foldl (fun s x => s.setPSt op x.2 .fin) s).storeFault (some r.uid) sub ga
  else xs.foldl (fun s x => s.setPSt op x.2 (.bad sub)) s

/-- The AtomicOp of R188 for one lane; none where the table has no such operation (RED has no Swap). -/
def hostAtomic (red : Bool) (aop : Nat) (ty : Ty) (b new : Nat) : Option HostAtomic :=
  if aop = aopCas then some (.cas (tyBytes ty) b new)
  else match aop with
    | 0 => if ty == .f32 then none else some (.fetchAdd (tyBytes ty) b)
    | 7 => if red then none else some (.swap (tyBytes ty) b)
    | _ => none

/-- The KIND of an atomic's record (R331). -/
def MReq.atomKind (r : MReq) : Nat := if r.kind == .red then 2 else 0

/-- The lanes of a location go to the host, one AtomicOp each; where one has none, the request is refused with HOSTOP (R188, R330). -/
def State.atomHost (s : State) (op : Nat) (r : MReq) (xs : List (MPart × Nat)) (va a : Nat) : State :=
  let one (x : MPart × Nat) : Option HostAtomic := hostAtomic (r.kind == .red) r.aop r.ty x.1.data x.1.data2
  if xs.all fun x => (one x).isSome then
    xs.foldl (fun s x => match one x with
      | some h =>
        let (s, n) := s.hostSend { use := .part op x.2, dev := 0, off := a + va % 64, clock := none, core := plyCore r.pid, slot := r.slot,
                                   pid := r.pid, write := r.kind == .red, host := true } (fun n => .atomic n (a + va % 64) h)
        s.setPSt op x.2 (.sent n)
      | none => s) s
  else ((s.record (s.whoReq r) va 8 r.atomKind false).1).atomFail op r xs va 4

/-- A combined atomic on global memory at its home slice (R186 to R188, R334, R417): behind the side log's entries of its line, or, for a
RED that firmware must serve, into it. -/
def State.atomGlobal (s : State) (op : Nat) (r : MReq) (xs : List (MPart × Nat)) (va : Nat) : State :=
  let w := s.whoReq r
  let line := va / 64
  let z := tyBytes r.ty
  let log (s : State) (rid : Option Nat) : State :=
    xs.foldl (fun s x => s.setPSt op x.2 .logged)
      (s.logAppend { who := w, line := line, act := .red op va, kind := r.atomKind, unres := false, req := some (op, 0), rid := rid })
  match s.l1Purge (plyCore r.pid) w.asid line with
  | (s, false) => s
  | (s, true) =>
    if s.logFull line || s.shutOut w.asid line then s
    else if s.logged w.asid line then log s none
    else if !s.mapped w.asid line && r.kind != .red then s
    else match s.home w line .write with
      | (s, .ok x) =>
        let (s, v) := s.atomGive op r xs (leNat (lineSlice x (va % 64) z))
        s.mcPut w.asid line (lineAt (va % 64) z v) (byteSpan (va % 64) z)
      | (s, .poison) => s.atomFail op r xs va 5
      | (s, .host a) => s.atomHost op r xs va a
      | (s, .fail c) =>
        if !serviceable c then ((s.record w va c r.atomKind false).1).atomFail op r xs va 1
        else if r.kind == .red then
          let (s, rid) := s.record w va c 2 true
          log s (some rid)
        else match s.holdRoom (sliceOf va) w.asid with
          | (s, false) => s
          | (s, true) =>
            let (s, rid) := s.record w va c 0 true
            xs.foldl (fun s x => s.setPSt op x.2 (.held (sliceOf va) rid)) s

/-- A combined atomic in local store: the ALU of the home segment's core (R187). -/
def State.atomLocal (s : State) (op : Nat) (r : MReq) (xs : List (MPart × Nat)) (c off ga : Nat) : State :=
  match s.segHome (segKey c off) with
  | none => s
  | some h =>
    let z := tyBytes r.ty
    match s.lsRead (segBase h + off % 4096) z with
    | none => s.atomFail op r xs ga 5
    | some bs =>
      let (s, v) := (s.heard (plyCore r.pid) h (off % 4096 / 64)).atomGive op r xs (leNat bs)
      s.segWrite h (off % 4096 / 64) (lineAt (off % 64) z v) (byteSpan (off % 64) z) (plyCore r.pid)

/-! ## Issue of loads, stores and atomics -/

/-- A lane's address (R156). -/
def laneGa (s : State) (e : Env) (f : Full) (l : Nat) : Nat :=
  wrapNat 64 ((opVal s e.pid e.p l true .n64 0 f.a : Int) + sextInt 12 (mf f 11 0)) % 2 ^ 56

/-- The lanes that act: one for a scalar instruction (R27). -/
def memLanes (e : Env) (scalar : Bool) : List Nat := if scalar then e.lanes.take 1 else e.lanes

/-- The operand names an s register. -/
def isS : Operand → Bool
  | .s _ => true
  | _ => false

/-- A trap of some lanes, each with its address. -/
def trapLanes (code sub : Nat) (xs : List (Nat × Nat)) (s : State) : Res :=
  .trap s { Trap.plain code sub (maskOf (xs.map Prod.fst)) with vas := xs.map fun x => (x.1, BitVec.ofNat 56 x.2) }

/-- MISALIGN of the lanes whose address is no multiple of z (R180); a scalar access concerns every executing lane. -/
def misaligned (e : Env) (scalar : Bool) (z : Nat) (gas : List (Nat × Nat)) : List (Nat × Nat) :=
  let bad := gas.filter fun x => x.2 % z ≠ 0
  if scalar then bad.flatMap fun x => e.lanes.map fun l => (l, x.2) else bad

/-- The pod lines that an access names. -/
def podLines (ps : List MPart) : List (Nat × Nat) := ps.filterMap fun q => match q.place with
  | .pod d o => some (d, o / 64)
  | _ => none

/-- The global lines that an access names. -/
def globalLines (ps : List MPart) : List Nat := ps.filterMap fun q => match q.place with
  | .global va => some (va / 64)
  | _ => none

/-- WHAT AN ACCESS TO THE POD WINDOW OR TO THE LINES BEHIND IT DOES FIRST, and whether it may go out: the write-combining entries of its lines
drain and are acknowledged (R208, R209); where the package's own exported space and its global memory meet, the L1 gives up its line and the
thread's older accesses are performed (R156, R194, R196). -/
def State.podClear (s : State) (pid : Nat) (p : Ply) (ps : List MPart) : State × Bool :=
  let ls := podLines ps
  let gs := globalLines ps
  let own := s.mgmt.devidx
  let (s, dry) := s.wcClear (plyCore pid) p.ctx fun d l => ls.contains (d, l) || (d == own && gs.contains (podVa (l * 64) / 64))
  let (s, ok) := s.ownPurge (plyCore pid) (s.slotAsid p.ctx) ls
  (s, dry && ok && !ps.any fun q => match q.place with
    | .pod d _ => d == own && s.blockedBy s.nextOp p.skein p.uid q
    | _ => false)

/-- A new request of the ply. -/
def newReq (e : Env) (kind : ReqKind) (cls : Cls) (f : Full) (dregs : Nat) (scalar : Bool) (parts : List MPart) : MReq :=
  { kind := kind, pid := e.pid, uid := e.p.uid, skein := e.p.skein, slot := e.p.ctx, pc := e.pc, cls := cls, uns := false, dst := f.d,
    dregs := dregs, scalar := scalar, ty := mTyD f, n := mCount f, ord := mOrd f, scope := mScope f, rp := mRp f, aop := 0, parts := parts,
    acq := false, tids := (e.p.threadsOf e.exec).map Prod.snd }

/-- Enter a request: its number, its table entry and its count (R18). -/
def State.enter (s : State) (r : MReq) : State × Nat :=
  let (op, s) := s.freshOp
  let s := { s with reqs := s.reqs.set op r }
  (if r.uns then s else s.updPly r.pid fun p => p.issueOp op r.cls, op)

/-- Send the pod parts of a request, one packet for each (R210, R358). -/
def State.sendParts (s : State) (op : Nat) (mk : MPart → PodOp) (write : Bool) : State :=
  match s.reqs.get op with
  | none => s
  | some r => r.numbered.foldl (fun s x => match x.1.place, x.1.st with
    | .pod d o, .wait =>
      let (s, n) := s.podSend { use := .part op x.2, dev := d, off := o, clock := none, core := plyCore r.pid, slot := r.slot, pid := r.pid,
                                write := write, host := false } (mk x.1)
      s.setPSt op x.2 (.sent n)
    | _, _ => s) s

/-- Lanes with a part that leads nowhere take their fault at once (R157). -/
def State.badLanes (s : State) (op : Nat) : State :=
  match s.reqs.get op with
  | none => s
  | some r =>
    let ls := ((r.parts.filter fun q => q.place == .bad).map MPart.lane).eraseDups
    ls.foldl (fun s l =>
      let s := { s with reqs := s.reqs.upd op fun r => { r with parts := r.parts.map fun (q : MPart) =>
        if q.lane == l then { q with st := .bad 1 } else q } }
      s.deliver op l) s

/-- The release of an instruction at a scope comes first (R202); the ply waits in it. -/
def releaseThen (need : Bool) (scope : Scope) (e : Env) (s : State) (k : State → Res) : Res :=
  if !need then k s
  else match s.release e.pid scope with
    | (t, true) => k t
    | (t, false) => waitIn e (.redo 1) t

/-- The order code releases. -/
def ordRel : Ord → Bool
  | .rel => true
  | .ar => true
  | _ => false

/-- The load of parts already formed (R181): the destinations become EMPTY, and the request goes out. -/
def loadIssue (e : Env) (f : Full) (kind : ReqKind) (dregs : Nat) (scalar : Bool) (ps : List MPart) (s : State) : Res :=
  match s.podClear e.pid e.p ps with
  | (t, false) => waitIn e (.redo 1) t
  | (t, true) =>
    let (t, op) := t.enter (newReq e kind .ld f dregs scalar ps)
    let t := emptyD t e op f.d dregs
    .done (((t.sendParts op (fun q => .read q.n) false).badLanes op).finishReq op)

/-- LD (R181). -/
def ldBody (f : Full) (e : Env) (s : State) : Res :=
  let scalar := isS f.d
  let ty := mTyD f
  let n := mCount f
  let total := n * tyBytes ty
  let gas := (memLanes e scalar).map fun l => (l, laneGa s e f l)
  let mis := misaligned e scalar (if mOrd f == .weak then tyBytes ty else total) gas
  if !mis.isEmpty then trapLanes 0x104 0 mis s
  else if s.acquiring e.p e.pid then .stall s
  else loadIssue e f .ld (n * if ty64 ty then 2 else 1) scalar
    (gas.flatMap fun x => s.mkParts e.pid e.p x.1 ((e.p.tidAt x.1).getD 0) x.2 total 0 0) s

/-- LD (R181). -/
def execLd (f : Full) (s : State) : Out := issueFull (formLd f) (some .ld) (whenExec (ldBody f)) f s

/-- The data of a lane of ST: n elements of z bytes (R182). -/
def storeData (s : State) (e : Env) (f : Full) (l : Nat) : Nat :=
  let ty := mTyD f
  let w := ty64 ty
  let regs := if w then 2 else 1
  (List.range (mCount f)).foldl (fun acc k =>
    let o := match f.b with
      | .v n => Operand.v (n + k * regs)
      | .s n => Operand.s (n + k * regs)
      | x => x
    acc + opVal s e.pid e.p l w .n32 0 o % 2 ^ (tyBits ty) * 2 ^ (tyBits ty * k)) 0

/-- Drop the lanes of a store that lead nowhere: for each of them the ply holds a condition with the lane's address (R157). -/
def State.dropBad (s : State) (uid : Nat) (ps : List MPart) : State × List MPart :=
  let bad := ps.filter fun q => q.place == .bad
  let lanes := (bad.map MPart.lane).eraseDups
  (lanes.foldl (fun s l => match bad.find? fun q => q.lane == l with
    | some q => s.storeFault (some uid) 1 q.ga
    | none => s) s, ps.filter fun q => !lanes.contains q.lane)

/-- Weak parts at issue, in lane order (R182). -/
def State.weakParts (s : State) (op : Nat) (r : MReq) : State := r.numbered.foldl (fun s x => s.storeWeak op x.2 r x.1) s

/-- The store of parts already formed (R182). -/
def storeIssue (e : Env) (f : Full) (ord : Ord) (scalar : Bool) (ps : List MPart) (s : State) : Res :=
  let weak := ord == .weak
  let r0 := { newReq e .st .st f 0 scalar ps with ord := ord, dst := .special .zero }
  if weak && ps.any fun q => (match q.place with
      | .global _ => true
      | _ => false) && s.blocked s.nextOp r0 q then .stall s
  else match (if weak then (s, true) else s.podClear e.pid e.p ps) with
    | (t, false) => waitIn e (.redo 1) t
    | (t, true) =>
      let (t, ps) := t.dropBad e.p.uid ps
      let t := if ps.any fun q => (match q.place with
          | .pod _ _ => true
          | _ => false) then t.updPly e.pid fun p => { p with podStore := true } else t
      let r := { r0 with parts := ps }
      let (t, op) := t.enter r
      .done ((if weak then t.weakParts op r
        else t.sendParts op (fun q => .strongWrite (leBytes q.n q.data)) true).finishReq op)

/-- ST (R182). -/
def stBody (f : Full) (e : Env) (s : State) : Res :=
  let scalar := isS f.b
  let ty := mTyD f
  let total := mCount f * tyBytes ty
  let gas := (memLanes e scalar).map fun l => (l, laneGa s e f l)
  let mis := misaligned e scalar (if mOrd f == .weak then tyBytes ty else total) gas
  if !mis.isEmpty then trapLanes 0x104 0 mis s
  else if s.acquiring e.p e.pid then .stall s
  else releaseThen (ordRel (mOrd f)) (mScope f) e s fun t =>
    storeIssue e f (mOrd f) scalar
      (gas.flatMap fun x => t.mkParts e.pid e.p x.1 ((e.p.tidAt x.1).getD 0) x.2 total (storeData t e f x.1) 0) t

/-- ST (R182). -/
def execSt (f : Full) (s : State) : Out := issueFull (formSt f) (some .st) (whenExec (stBody f)) f s

/-- The lanes whose atomic names the scratchpad window of the other die (R187); the window is named by the address alone, whether or
not its segment is granted. -/
def otherDie (e : Env) (gas : List (Nat × Nat)) : List (Nat × Nat) := gas.filter fun x => match scratchOf x.2 with
  | some (c, _) => coreDie c ≠ coreDie (plyCore e.pid)
  | none => false

/-- Send the combined pod requests of an atomic, one for each location (R186, R210). -/
def State.sendAtoms (s : State) (op : Nat) : State :=
  match s.reqs.get op with
  | none => s
  | some r =>
    let locs := (r.parts.filterMap fun q => match q.place with
      | .pod d o => some (q.ga, d, o)
      | _ => none).eraseDups
    locs.foldl (fun s x =>
      let ps := r.numbered.filter fun y => y.1.ga == x.1
      let body : PodOp := if r.aop = aopCas
        then .cas r.ty (ps.map fun y => (BitVec.ofNat 64 y.1.data, BitVec.ofNat 64 y.1.data2))
        else .atomic (r.kind == .red) r.aop r.ty (ps.map fun y => BitVec.ofNat 64 y.1.data)
      let (s, n) := s.podSend { use := .part op ((ps.head?.map Prod.snd).getD 0), dev := x.2.1, off := x.2.2, clock := none,
                                core := plyCore r.pid, slot := r.slot, pid := r.pid, write := r.kind == .red, host := false } body
      ps.foldl (fun s y => s.setPSt op y.2 (.sent n)) s) s

/-- An atomic's issue (R186, R187): `cas` holds the lanes' second operand in D. -/
def atomBody (kind : ReqKind) (cas : Bool) (f : Full) (e : Env) (s : State) : Res :=
  let red := kind == .red
  let scalar := if red then isS f.b else isS f.d
  let ty := mTyD f
  let z := tyBytes ty
  let w := ty64 ty
  let gas := (memLanes e scalar).map fun l => (l, laneGa s e f l)
  let mis := misaligned e scalar z gas
  if !mis.isEmpty then trapLanes 0x104 0 mis s
  else
    let ps := gas.flatMap fun x => s.mkParts e.pid e.p x.1 ((e.p.tidAt x.1).getD 0) x.2 z
      (opVal s e.pid e.p x.1 w .n32 0 f.b) (if cas then opVal s e.pid e.p x.1 w .n32 0 f.d else 0)
    let far := otherDie e gas
    let far := if scalar then far.flatMap fun x => e.lanes.map fun l => (l, x.2) else far
    if !far.isEmpty then trapLanes 0x106 0 far s
    else if s.acquiring e.p e.pid then .stall s
    else releaseThen (ordRel (mOrd f)) (mScope f) e s fun t =>
      match t.podClear e.pid e.p ps with
      | (t, false) => waitIn e (.redo 1) t
      | (t, true) =>
        let (t, ps) := if red then t.dropBad e.p.uid ps else (t, ps)
        let t := if red && !(podLines ps).isEmpty then t.updPly e.pid fun p => { p with podStore := true } else t
        let cls : Cls := if red then .st else .ld
        let dregs := if w then 2 else 1
        let r := { newReq e kind cls f dregs scalar ps with aop := if cas then aopCas else mf f 17 14, n := 1 }
        let ord : Ord := match r.ord with
          | .weak => .strong
          | o => o
        let (t, op) := t.enter { r with ord := ord, dst := if red then .special .zero else f.d }
        let t := if red then t else emptyD t e op f.d dregs
        .done (((t.sendAtoms op).badLanes op).finishReq op)

/-- ATOM (R186). -/
def execAtom (f : Full) (s : State) : Out := issueFull (formAtom f) (some .ld) (whenExec (atomBody .atom false f)) f s
/-- ATOMCAS (R186). -/
def execAtomcas (f : Full) (s : State) : Out := issueFull (formAtomcas f) (some .ld) (whenExec (atomBody .atom true f)) f s
/-- RED (R186). -/
def execRed (f : Full) (s : State) : Out := issueFull (formRed f) (some .st) (whenExec (atomBody .red false f)) f s

/-- PREF of one address (R184): the line comes to the L1 or to the home slice; what cannot be reached is dropped. -/
def State.prefLine (s : State) (core : Nat) (w : Who) (l1 : Bool) (va : Nat) : State :=
  let line := va / 64
  if s.atBay w.asid line then s
  else match s.home w line .read with
    | (t, .ok x) => if l1 then t.l1Fill core w.asid line (some x) (t.homeW w.asid line) else t
    | (t, .poison) => t
    | (t, .host _) => t
    | (_, .fail _) => s

/-- PREF (R184). -/
def prefDo (f : Full) (e : Env) (s : State) : State :=
  let w := s.whoPly e.pid
  e.lanes.foldl (fun s l => match s.placeOf e.pid e.p (laneGa s e f l) with
    | .global va => s.prefLine (plyCore e.pid) w (mf f 23 21 = 0) va
    | _ => s) s

/-- PREF (R184). -/
def execPref (f : Full) (s : State) : Out := issueFull (formPref f) none (always (prefDo f)) f s

/-- The address of a lane's slot (R189, R192). -/
def slotGa (s : State) (e : Env) (f : Full) (l : Nat) : Nat :=
  let c := s.ctx e.p.ctx
  let sk := match s.skeins.get e.p.skein with
    | some k => k.idx
    | none => 0
  (threadArea c sk (plyPart e.pid) ((e.p.tidAt l).getD 0) + 4 * mf f 11 0) % 2 ^ 56

/-- The slots of SPILL or FILL pass the area of a thread (R192). -/
def slotsPass (s : State) (e : Env) (f : Full) : Bool := pktSz (s.ctx e.p.ctx) - 512 < 4 * (mf f 11 0 + mCount f)

/-- SPILL (R192). -/
def spillBody (f : Full) (e : Env) (s : State) : Res :=
  if slotsPass s e f then trapExec e 0x107 0 s
  else if s.acquiring e.p e.pid then .stall s
  else
    let data (l : Nat) : Nat := match f.a with
      | .v n => (List.range (mCount f)).foldl (fun acc k => acc + vWord s e.p l (n + k) * 2 ^ (32 * k)) 0
      | _ => 0
    storeIssue e f .weak false (e.lanes.flatMap fun l =>
      s.mkParts e.pid e.p l ((e.p.tidAt l).getD 0) (slotGa s e f l) (4 * mCount f) (data l) 0) s

/-- SPILL (R192). -/
def execSpill (f : Full) (s : State) : Out := issueFull (formSpill f) (some .st) (whenExec (spillBody f)) f s

/-- FILL (R192): words, whatever TY's zero stands for. -/
def fillBody (f : Full) (e : Env) (s : State) : Res :=
  if slotsPass s e f then trapExec e 0x107 0 s
  else if s.acquiring e.p e.pid then .stall s
  else loadIssue e { f with m := f.m ||| (BitVec.ofNat 32 (17 <<< 27)) } .ld (mCount f) false (e.lanes.flatMap fun l =>
    s.mkParts e.pid e.p l ((e.p.tidAt l).getD 0) (slotGa s e f l) (4 * mCount f) 0 0) s

/-- FILL (R192). -/
def execFill (f : Full) (s : State) : Out := issueFull (formFill f) (some .ld) (whenExec (fillBody f)) f s

/-! ## The steps that complete requests -/

/-- Whether the ply that made a refill still waits for it (R217). -/
def State.refillWanted (s : State) (op : Nat) (r : MReq) : Bool := match s.ply? r.pid with
  | some p => p.wait == some (.op op) || (match p.wait with
    | some (.frame _ o) => o == some op
    | _ => false)
  | none => false

/-- A refill's data has arrived in every lane: it completes in its class and stays until its RET takes it (R217). -/
def State.refillEnd (s : State) (op : Nat) : State :=
  match s.reqs.get op with
  | none => s
  | some r =>
    if r.parts.any fun q => (match q.st with
      | .ready _ => false
      | .bad _ => false
      | _ => true) then s
    else
      let s := s.completeOp r.pid op
      if s.refillWanted op r then s else { s with reqs := s.reqs.del op }

/-- The write permission of an L1 line is confirmed (R171). -/
def State.probeOk (s : State) (key : Nat) : State := { s with l1 := s.l1.upd key fun e => { e with probe := false, w := true } }

/-- A permission probe is refused (R171): the line's bytes go to the home, into its side log or to the host, or are discarded. -/
def State.probeRefused (s : State) (key : Nat) : State :=
  match s.l1Back (key / 2 ^ 55) (key / 2 ^ 42 % 8192) (l1LineNo key) (~~~0#64) with
  | (t, true) => { t with l1 := t.l1.upd key fun e => { e with probe := false } }
  | (t, false) => t

/-- The maker of a permission probe: the ply whose bytes came first. -/
def State.probeWho (s : State) (key : Nat) : Who :=
  let core := key / 2 ^ 55
  let asid := key / 2 ^ 42 % 8192
  match (s.l1.get key).map L1Line.owners with
  | some (o :: _) => s.whoUid o.1 core asid
  | _ => { asid := asid, slot := none, core := core, part := 0, pslot := 0, uid := none, dev := 0, inb := false }

/-- The physical line of the other die that a probe asks for, where it crosses the die link (R171, R430, R432): its page is translated and permits the
write. -/
def State.probeCross (s : State) (key : Nat) : Option Nat :=
  let va := l1LineNo key * 64
  if !s.dlLinked || va / 2 ^ 47 % 2 = coreDie (key / 2 ^ 55) then none
  else match s.tlbFind (key / 2 ^ 42 % 8192) va with
    | some l => if l.host || (permCause l .write false).isSome then none else some (leafPhys l va)
    | none => none

/-- PERMISSION_PROBE_REPLY (R171): the home confirms the line's write permission, takes the bytes into its side log, discards them,
or, for a HOST page, sends them to the host. For a line of the other die the probe crosses as a PROBEW (R430). -/
def execPermissionProbeReply (core line : Nat) (s : State) : Out :=
  let key := core * 2 ^ 55 + line
  match s.l1.get key with
  | none => .next s
  | some e =>
    if !e.probe then .next s
    else
      let asid := line / 2 ^ 42
      let ln := line % 2 ^ 42
      if s.shutOut asid ln then .next s
      else if s.logged asid ln then .next (s.probeRefused key)
      else match s.probeCross key with
      | some pa =>
        if s.dlReqs.any fun q => q.2.use == .probe key then .next s
        else .next (((s.dlAsk (3 * coreDie core + 1) (fun tag => dlMake 0 0x04 asid pa tag 0 false []) (.probe key)).map Prod.fst).getD s)
      | none => match s.home (s.probeWho key) ln .write with
        | (t, .ok _) => .next (t.probeOk key)
        | (t, .poison) => .next (t.probeOk key)
        | (_, _) => .next (s.probeRefused key)

end Sys2Proof.Machine
end

