-- ==== Sys2Proof/Machine/Order.lean ====
section
/-! DEFINITION. Ordering and subscription: deferred conditions and who takes them (R109, R226), FENCE (R204), SUBS, UNSUBS and
SEGSTAT (R166 to R169), replica updates and sync markers (R162, R165), promotion (R206), ageing (R209), and what replies do to the
parts of requests (R338, R441). -/

namespace Sys2Proof.Machine

/-! ## Deferred conditions -/

/-- A store fault. -/
def isStoreCond : CondKind → Bool
  | .store => true
  | _ => false
/-- A remote-store error. -/
def isRemoteCond : CondKind → Bool
  | .remote => true
  | _ => false
/-- An engine fault of a class. -/
def isEngineCond (c : Cls) : CondKind → Bool
  | .engine d => c == d
  | _ => false
/-- A COL condition. -/
def isColCond : CondKind → Bool
  | .col => true
  | _ => false

/-- Remove the first condition that a test accepts: the earliest raised (R109). Where an ADDR and a COL condition are held together, R105
names ADDR first and R109 the earliest; the earliest decides (DEDUCED, log entry 123). -/
def takeFirst (ok : Cond → Bool) : List Cond → Option (Cond × List Cond)
  | [] => none
  | c :: cs => if ok c then some (c, cs) else (takeFirst ok cs).map fun x => (x.1, c :: x.2)

/-- TAKE A DEFERRED CONDITION (R109): the earliest raised among the kinds taken, in the executing lanes; else go on. In the trap
handler nothing is taken (R226) but by what ends the ply. -/
def takeThen (e : Env) (ending : Bool) (ok : Cond → Bool) (s : State) (k : State → Res) : Res :=
  match s.ply? e.pid with
  | none => k s
  | some p =>
    if p.hnd.isSome && !ending then k s
    else match takeFirst ok p.conds with
      | none => k s
      | some (c, cs) => .trap (s.setPly e.pid { p with conds := cs })
          { Trap.plain c.code c.sub e.exec with vas := e.lanes.map fun l => (l, BitVec.ofNat 56 c.va) }

/-- Set what the ply waits in; the first time this begins the instruction. -/
def waitSet (e : Env) (w : Wait) (s : State) : Res :=
  let t := s.updPly e.pid fun p => { p with wait := some w }
  match e.p.wait with
  | none => .hold t
  | some _ => .stall t

/-! ## FENCE -/

/-- UNRES of a ply now (R335). -/
def State.unres (s : State) (pid : Nat) : Nat := match s.ply? pid with
  | some p => p.unres
  | none => 0

/-- Loads and atomics of the ply's threads that are not complete. -/
def State.loadsOpen (s : State) (p : Ply) : Bool := s.reqs.any fun e => e.2.ofPly p && match e.2.kind with
  | .ld => true
  | .atom => true
  | .red => true
  | _ => false

/-- The last step of FENCE (R204): the conditions it takes. -/
def fenceTake (f : Full) (e : Env) (s : State) : Res :=
  let cov := ordRel (mOrd f) && remoteScope (mScope f)
  takeThen e false (fun c => isStoreCond c.kind || (cov && isRemoteCond c.kind)) s .done

/-- FENCE's acquire actions (R202, R204, R206). -/
def fenceAcq (f : Full) (e : Env) (s : State) : Res :=
  match mOrd f with
  | .rel => fenceTake f e s
  | _ =>
    let (id, t) := s.freshOp
    let t := t.acqBegin id e.pid (mScope f) (mRp f)
    if t.acqDone id then fenceTake f e t else waitSet e (.op id) t

/-- FENCE (R204). -/
def fenceBody (f : Full) (e : Env) (s : State) : Res :=
  match e.p.wait with
  | some (.op id) => if s.acqDone id then fenceTake f e s else .stall s
  | _ =>
    if ordRel (mOrd f) then releaseThen true (mScope f) e s fun t =>
      if t.unres e.pid = 0 then fenceAcq f e t else waitIn e (.redo 1) t
    else if s.loadsOpen e.p || s.acquiring e.p e.pid || s.unres e.pid ≠ 0 then waitIn e (.redo 1) s
    else fenceAcq f e s

/-- FENCE (R204). -/
def execFence (f : Full) (s : State) : Out := issueFull (formFence f) none (whenExec (fenceBody f)) f s

/-! ## Subscription -/

/-- The segment that a scratchpad-window address names, in range or not of a grant (R156). -/
def scratchSeg (ga : Nat) : Option Nat :=
  let off := ga % 2 ^ 48
  if ga / 2 ^ 48 % 256 ≠ 0x71 || fld off 47 33 ≠ 0 || bit off 31 || fld off 23 21 ≠ 0 || 95 < fld off 30 24 then none
  else some (segKey (b2n (bit off 32) * 96 + fld off 30 24) (fld off 20 0))

/-- A segment granted to a slot. -/
def State.grantedTo (s : State) (seg slot : Nat) : Bool := (s.seg seg).cond == .scratch slot

/-- The status of SUBS (R168): 0 when every condition holds. -/
def State.subsStatus (s : State) (pid slot a b : Nat) : Nat :=
  match scratchSeg a, scratchSeg b with
  | some g, some h =>
    if a % 4096 ≠ 0 || b % 4096 ≠ 0 then 6
    else if g / 512 ≠ plyCore pid || !s.grantedTo g slot || (s.seg g).st != .o || !(s.seg g).subs.isEmpty then 1
    else if coreDie (h / 512) ≠ coreDie (plyCore pid) || h = g then 3
    else if !s.grantedTo h slot || (s.seg h).st != .o then 2
    else if 32 ≤ (s.seg h).subs.length then 4
    else 0
  | _, _ => 6

/-- The status of UNSUBS (R168). -/
def State.unsubsStatus (s : State) (pid slot a : Nat) : Nat :=
  match scratchSeg a with
  | some g =>
    if a % 4096 ≠ 0 then 6
    else if g / 512 ≠ plyCore pid || !s.grantedTo g slot || (s.seg g).st != .s then 1
    else 0
  | none => 6

/-- The one part of a request that is no memory access. -/
def onePart (e : Env) (n : Nat) (st : PSt) : MPart :=
  let l := e.lanes.headD 0
  { lane := l, tid := (e.p.tidAt l).getD 0, k := 0, ga := 0, place := .bad, n := n, data := 0, data2 := 0, st := st }

/-- Enter a request of a single answer (SUBS, UNSUBS, SEGSTAT): D becomes EMPTY, counted in `cl.ld`. -/
def enterOne (e : Env) (f : Full) (kind : ReqKind) (ty : Ty) (dregs : Nat) (st : PSt) (s : State) : State × Nat :=
  let r := { newReq e kind .ld f dregs true [onePart e (4 * dregs) st] with ty := ty, n := 1, ord := .weak }
  let (s, op) := s.enter r
  (emptyD s e op f.d dregs, op)

/-- SUBS (R166, R168). -/
def subsBody (f : Full) (e : Env) (s : State) : Res :=
  if s.acquiring e.p e.pid then .stall s
  else
    let a := sPairVal s e.p f.a % 2 ^ 56
    let b := sPairVal s e.p f.b % 2 ^ 56
    match s.subsStatus e.pid e.p.ctx a b, scratchSeg a, scratchSeg b with
    | 0, some g, some h =>
      let (t, op) := enterOne e f (.subs g h) .n32 1 .wait s
      .done ((t.updSeg g fun x => { x with st := .t op }).updSeg h fun x => { x with subs := x.subs ++ [g] })
    | k, _, _ => .done (enterOne e f (.subs 0 0) .n32 1 (.ready (leBytes 4 k)) s).1

/-- SUBS (R166). -/
def execSubs (f : Full) (s : State) : Out := issueFull (formSubs f) (some .ld) (whenExec (subsBody f)) f s

/-- The place at a home of a byte of its replica. -/
def homePlace (seg home : Nat) : Place → Place
  | .loc c off => if segKey c off = seg then .loc (home / 512) (home % 512 * 4096 + off % 4096) else .loc c off
  | p => p

/-- The writes that the core's instructions before an UNSUBS still have pending against the home go there (R163, R167); what they read
waits until the segment has left T (R161). -/
def State.homeward (s : State) (core seg home : Nat) : State :=
  let part (q : MPart) : MPart :=
    let p := homePlace seg home q.place
    if p = q.place then q else { q with place := p, fwd := true }
  let ref (r : TbRef) : TbRef := match r with
    | .scratch c off => match homePlace seg home (.loc c off) with
      | .loc d o => .scratch d o
      | _ => r
    | _ => r
  let upd (u : TbUpd) : TbUpd := if plyCore u.pid = core && u.req.isSome then { u with ref := ref u.ref } else u
  { s with reqs := s.reqs.mapVals fun _ r => if plyCore r.pid = core && r.writes then { r with parts := r.parts.map part } else r,
           tbq := s.tbq.map upd }

/-- UNSUBS (R167, R168). -/
def unsubsBody (f : Full) (e : Env) (s : State) : Res :=
  if s.acquiring e.p e.pid then .stall s
  else
    let a := sPairVal s e.p f.a % 2 ^ 56
    match s.unsubsStatus e.pid e.p.ctx a, scratchSeg a with
    | 0, some g =>
      let (t, op) := enterOne e f (.unsubs g) .n32 1 .wait (s.homeward (g / 512) g (s.seg g).home)
      .done (t.updSeg g fun x => { x with st := .t op })
    | k, _ => .done (enterOne e f (.unsubs 0) .n32 1 (.ready (leBytes 4 k)) s).1

/-- UNSUBS (R167). -/
def execUnsubs (f : Full) (s : State) : Out := issueFull (formUnsubs f) (some .ld) (whenExec (unsubsBody f)) f s

/-- The value of SEGSTAT (R169). A segment of the other die is answered as one of this die, with BAD 0 (DESIGN CHOICE, log entry 154). -/
def State.segstatVal (s : State) (pid : Nat) (p : Ply) (ga : Nat) : Nat :=
  let seg : Option Nat := if ga / 2 ^ 48 % 256 = 0x70 then match s.placeOf pid p ga with
      | .loc c o => some (segKey c o)
      | _ => none
    else scratchSeg ga
  match seg with
  | none => 2 ^ 63
  | some g =>
    let x := s.seg g
    let shm := match x.cond with
      | .shared _ => true
      | _ => false
    let gr := s.grantedTo g p.ctx
    let home := (s.replicaHome x).getD g
    let st : Nat := if shm then 2 else if !gr then 0 else match x.st with
      | .i => 0 | .s => 1 | .o => 2 | .t _ => 3
    (min 255 (s.pending (plyCore pid) home s.nextOp)) <<< 40
      + (if st = 1 then (x.home / 512 / 96) <<< 32 + (x.home / 512 % 96) <<< 25 + (x.home % 512) <<< 16 else 0)
      + (if st = 2 then x.subs.length <<< 4 else 0) + b2n gr <<< 3 + b2n shm <<< 2 + st

/-- SEGSTAT (R169). -/
def segstatBody (f : Full) (e : Env) (s : State) : Res :=
  if s.acquiring e.p e.pid then .stall s
  else .done (enterOne e f .segstat .n64 2 (.ready (leBytes 8 (s.segstatVal e.pid e.p (sPairVal s e.p f.a % 2 ^ 56)))) s).1

/-- SEGSTAT (R169). -/
def execSegstat (f : Full) (s : State) : Out := issueFull (formSegstat f) (some .ld) (whenExec (segstatBody f)) f s

/-- REPLICA_UPDATE (R162): the replica applies its next update. Updates of different lines, to which R162 gives no order, reach it in the home's
(DESIGN CHOICE, log entry 147). -/
def execReplicaUpdate (replica : Nat) (s : State) : Out :=
  match (s.seg replica).msgs with
  | .update line q m x _ _ :: rest =>
    .next ((s.lsPut replica line x m).updSeg replica fun g => { g with msgs := rest, applied := g.applied.set line q })
  | _ => .next s

/-- The end of an acquire: its cache action, and the completion of the access that made it (R202). -/
def State.acqFinish (s : State) (id : Nat) (a : Acq) : State :=
  let s := s.acqEnd a
  let s := { s with acqs := s.acqs.del id }
  match s.reqs.get id with
  | some r => if r.acq then s.reqEnd id r else s
  | none => s

/-- SYNC_MARKER_RETURN (R165): a marker has come back through the replica. -/
def execSyncMarkerReturn (replica : Nat) (s : State) : Out :=
  match (s.seg replica).msgs with
  | .marker id :: rest =>
    let s := s.updSeg replica fun g => { g with msgs := rest }
    match s.acqs.get id with
    | none => .next s
    | some a =>
      let a := { a with markers := a.markers.filter (· != replica) }
      .next (if a.markers.isEmpty then s.acqFinish id a else { s with acqs := s.acqs.set id a })
  | _ => .next s

/-- A core writes back what was written before its latest release, and acknowledges (R206). -/
def State.promote (s : State) (op core : Nat) : State :=
  match s.acqs.get op with
  | none => s
  | some a => match a.promo with
    | none => s
    | some cs =>
      if !cs.contains core || !s.stamped core ((s.relOp.get (remKey core a.slot)).getD 0) then s
      else match s.l1BackAll core (s.slotAsid a.slot) true with
        | (t, false) => t
        | (t, true) => { t with acqs := t.acqs.set op { a with promo := some (cs.filter (· != core)) } }

/-- PROMOTION_COMPLETE (R206): every core has acknowledged; the acquire takes its `.pkg` actions. -/
def execPromotionComplete (op : Nat) (s : State) : Out :=
  match s.acqs.get op with
  | none => .next s
  | some a =>
    if a.promo != some [] then .next s
    else if (s.replicas a.core).isEmpty then .next (s.acqFinish op a)
    else .next (s.sendMarkers op a)

/-- The ageing time in core clocks (R209, R349). -/
def State.wage (s : State) : Nat := fld s.mgmt.fabcfg.toNat 17 10 * 300

/-- WC_AGEING_DRAIN (R209): the entries that have reached the ageing time. -/
def execWcAgeingDrain (core : Nat) (s : State) : Out :=
  .next (s.wcDrain core fun e => e.clock + s.wage ≤ s.clock)

/-! ## Replies -/

/-- What a reply means to a part: data, an acknowledgement, or a failure with its subtype and, for a NACK, its cause. -/
inductive Reply where
  | data (bytes : List Byte)
  | ack
  | fail (sub : Nat) (cause : Option Nat)
  deriving DecidableEq, Repr

/-- A reply from another package (R338, R344). -/
def replyOf : RemoteReply → Reply
  | .data b => .data b
  | .poisoned => .fail 5 none
  | .ack => .ack
  | .nack c => .fail 2 (some c)
  | .aunsup => .fail 4 none

/-- A completion of the host (R441). -/
def hostReplyOf : HostReply → Reply
  | .data b => .data b
  | .error => .fail 1 none
  | .poisoned => .fail 5 none

/-- The cause of a NACK, and of a record, for a page of the host that fails: the spec names none, a free choice among those of R330. -/
def State.hostCause (s : State) : Nat × State :=
  let (n, s) := s.drawFree
  (1 + Config.freeNat n % 8, s)

/-- What a failed completion of the host concerns: every lane of a combined atomic at its location (R188); an error counts as a failed
translation, which is recorded (R330, R441). -/
def State.hostFail (s : State) (r : MReq) (xs : List (MPart × Nat)) (sub : Nat) : State × List (MPart × Nat) := match xs with
  | [] => (s, [])
  | x :: _ =>
    let all := if (r.kind == .atom || r.kind == .red) && sub = 1 then r.numbered.filter fun y => y.1.ga == x.1.ga && y.1.unfinished else xs
    if sub ≠ 1 then (s, all)
    else
      let (c, s) := s.hostCause
      ((s.record (s.whoReq r) x.1.ga c (if r.kind == .st then 2 else r.atomKind) false).1, all)

/-- A reply reaches the parts that wait for it (R211, R338, R359): a load or atomic takes its data or fault (an atomic at a HOST page one
value for each lane, R188); a store or RED finishes, and a refusal or timeout is a remote-store error. -/
def State.partReply (s : State) (n : Nat) (q : RReq) (op : Nat) (x : Reply) : State :=
  match s.reqs.get op with
  | none => s
  | some r =>
    let xs := r.numbered.filter fun y => y.1.st == .sent n
    match x with
    | .data bs =>
      let z := tyBytes r.ty
      if r.kind == .atom then
        if bs.length ≤ z then (s.atomGive op r xs (leNat bs)).1
        else (xs.zipIdx).foldl (fun s y => s.setPSt op y.1.2 (.ready ((bs.drop (z * y.2)).take z))) s
      else xs.foldl (fun s y => s.setPSt op y.2 (if r.writes then .fin else .ready (bs.take y.1.n))) s
    | .ack => xs.foldl (fun s y => s.setPSt op y.2 (if r.writes then .fin else .ready (List.replicate y.1.n 0))) s
    | .fail sub cause =>
      let (s, xs) := if q.host then s.hostFail r xs sub else (s, xs)
      if r.kind == .st || r.kind == .red then
        let s := xs.foldl (fun s y => s.setPSt op y.2 .fin) s
        if xs.isEmpty then s
        else if !q.host && (sub == 2 || sub == 3) then s.remoteErr q.core q.slot q.dev q.off cause
        else s.storeFault (some r.uid) sub (match xs with
          | y :: _ => y.1.ga
          | [] => 0)
      else xs.foldl (fun s y => s.setPSt op y.2 (.bad sub)) s

/-- The fabric timeout in core clocks (R360). -/
def State.tout (s : State) : Nat := fld s.mgmt.fabcfg.toNat 9 0 * 60000

end Sys2Proof.Machine
end

