-- ==== Sys2Proof/Machine/Translate.lean ====
section
/-! DEFINITION. The steps of the translation system (R329 to R342): walks, the replay of side logs,
instruction lines, shootdowns, and inbound pod accesses. -/

namespace Sys2Proof.Machine

/-! ## Walks -/

/-- A part of a request waits for a translation of a page. -/
def MPart.onPage (q : MPart) (page : Nat) : Bool := q.st == .wait && match q.place with
  | .global va => va / 65536 == page
  | _ => false

/-- A request whose reads ask for a page as an access kind does: loads read, returning atomics write. -/
def MReq.asks (r : MReq) (k : AccKind) : Bool := match r.kind, k with
  | .ld, .read => true
  | .refill, .read => true
  | .atom, .write => true
  | _, _ => false

/-- WALK_COMPLETE (R329, R331, R332): the walk fills the TLBs, which keep an entry that they hold already, or the loads and returning atomics that
wait for the page meet its
failure: held on a fault record, or refused. -/
def execWalkComplete (asid page : Nat) (kind : AccKind) (s : State) : Out :=
  match s.walk asid (page * 65536) with
  | .ok l => .next (if (s.tlbFind asid (page * 65536)).isSome then s else s.tlbPut asid (page * 65536) l)
  | .fail c =>
    .next (s.reqs.foldl (fun s e =>
      if e.2.asks kind && s.slotAsid e.2.slot == asid then
        e.2.numbered.foldl (fun s x => match x.1.place with
          | .global va => if x.1.onPage page && !s.mapped asid (va / 64) && !s.atBay asid (va / 64) && !s.blocked e.1 e.2 x.1
              then s.loadFault e.1 x.2 e.2 va c else s
          | _ => s) s
      else s) s)

/-! ## Side-log replay and answers (R333 to R336) -/

/-- A side-log entry leaves: UNRES goes down (R335). -/
def State.unlog (s : State) (e : LogEnt) : State :=
  if e.unres then s.updUid e.uid fun p => { p with unres := p.unres - 1 } else s

/-- The parts of an atomic request that a side-log entry stands for. -/
def MReq.loggedAt (r : MReq) (loc : Nat) : List (MPart × Nat) := r.numbered.filter fun x => x.1.ga == loc && x.1.st == .logged

/-- The part that a logged write stands for is performed. -/
def State.logFin (s : State) (e : LogEnt) : State := match e.req with
  | some (op, idx) => s.setPSt op idx .fin
  | none => s

/-- Discard a logged write, or fail a logged atomic (R336). -/
def State.logFail (s : State) (e : LogEnt) (sub : Nat) : State :=
  match e.act with
  | .write _ _ => ((s.unlog e).logFin e).storeFault e.uid sub (e.line * 64)
  | .red op loc => match s.reqs.get op with
    | some r => s.atomFail op r (r.loggedAt loc) (e.line * 64) sub
    | none => s
  | .unit _ => s

/-- The first byte of a logged access. -/
def LogEnt.va (e : LogEnt) : Nat := match e.act with
  | .write _ m => e.line * 64 + (lanesOf m).headD 0
  | .red _ loc => loc
  | .unit m => e.line * 64 + (lanesOf m).headD 0

/-- Replay one entry under the translation that holds now (R334): the state, and the entry again with its record where it still
faults. -/
def State.replay (s : State) (e : LogEnt) : State × Option LogEnt :=
  match s.home e.who e.line .write with
  | (s, .fail c) =>
    if serviceable c && e.kind != 6 then
      let (s, rid) := s.record e.who e.va c e.kind true
      (s, some { e with rid := some rid })
    else match e.act with
      | .unit _ => (s, none)
      | _ => ((s.record e.who e.va c e.kind false).1.logFail e 1, none)
  | (s, .host a) => match e.act with
    | .write x m => (((s.hostWrite a x m).unlog e).logFin e, none)
    | .red op loc => match s.reqs.get op with
      | some r => (s.atomHost op r (r.loggedAt loc) loc a, none)
      | none => (s, none)
    | .unit _ => (s, none)
  | (s, r) => match e.act with
    | .write x m => (((s.mcPut e.asid e.line x m).unlog e).logFin e, none)
    | .red op loc => match r, s.reqs.get op with
      | .ok x, some q =>
        let xs := q.loggedAt loc
        let z := tyBytes q.ty
        let (s, v) := s.atomGive op q xs (leNat (lineSlice x (loc % 64) z))
        ((s.mcPut e.asid e.line (lineAt (loc % 64) z v) (byteSpan (loc % 64) z)), none)
      | .ok _, none => (s, none)
      | _, _ => (s.logFail e 5, none)
    | .unit _ => (s, none)

/-- Replay, in log order, the entries of a page that a test accepts and no earlier entry of their line holds back; the others stay. -/
def replayList (asid page : Nat) (ok : LogEnt → Bool) : State → List LogEnt → List LogEnt → State × List LogEnt
  | s, kept, [] => (s, kept)
  | s, kept, e :: es =>
    if e.asid == asid && e.line / 1024 == page && ok e && !(kept.any fun o => o.asid == e.asid && o.line == e.line) then
      match s.replay e with
      | (s, none) => replayList asid page ok s kept es
      | (s, some e') => replayList asid page ok s (kept ++ [e']) es
    else replayList asid page ok s (kept ++ [e]) es

/-- Replay the side log of a slice for a page (R333, R334): the entries that a test accepts. -/
def State.replayPage (s : State) (slice asid page : Nat) (ok : LogEnt → Bool) : State :=
  let log := (s.slice slice).log
  let (s, kept) := replayList asid page ok (s.updSlice slice fun x => { x with log := [] }) [] log
  s.updSlice slice fun x => { x with log := kept }

/-- Close a record. -/
def State.closeRec (s : State) (slice rid : Nat) : State :=
  s.updSlice slice fun x => { x with recs := x.recs.filter fun r => r.rid != rid }
/-- What is held on a record takes a new state. -/
def State.heldTo (s : State) (slice rid : Nat) (st : PSt) : State :=
  let f (q : MPart) : MPart := if q.st = .held slice rid then { q with st := st } else q
  { s with reqs := s.reqs.mapVals fun _ r => { r with parts := r.parts.map f } }

/-! ## Instruction lines (R86, R332) -/

/-- The key of an instruction-cache line: core, ASID, line. -/
def icKey (core asid line : Nat) : Nat := l1Key core asid line

/-- The ply of a core under an ASID that fetches a line: one whose next instruction lies in it, else any resident one (R331, R332). -/
def State.fetcher (s : State) (core asid ln : Nat) : Option Nat :=
  let ps := s.plies.filter fun e => plyCore e.1 == core && s.slotAsid e.2.ctx == asid
  let at' (a : Nat) : Bool := a / 64 % 2 ^ 42 == ln
  ((ps.find? fun e => at' (s.plyPc e.2).toNat || at' ((s.plyPc e.2).toNat + 11)).or ps.head?).map Prod.fst

/-- Put a line into a core's instruction cache of 128 KiB (R10): a full one gives up a line of its choice (log entry 130). -/
def State.icPut (s : State) (core k : Nat) (x : IcLine) : State :=
  let ls := s.ic.range (core * 2 ^ 55) ((core + 1) * 2 ^ 55)
  if ls.length < 2048 || (s.ic.get k).isSome then { s with ic := s.ic.set k x }
  else
    let (n, s) := s.drawFree
    match ls[Config.freeNat n % 2048]? with
    | some v => { s with ic := (s.ic.del v.1).set k x }
    | none => { s with ic := s.ic.set k x }

/-- A fetch fails with a cause (R332): it is held on a record of KIND 5 that firmware answers, as far as the hold has room, or the line is
one that cannot be fetched. -/
def State.fetchFault (s : State) (w : Who) (core k ln cause : Nat) : State :=
  let va := ln * 64
  if !serviceable cause then (s.record w va cause 5 false).1.icPut core k .bad
  else
    let sl := sliceOf va
    if (s.slice sl).recs.any fun r => r.fetches.contains k then s
    else match s.holdRoom sl w.asid with
      | (s, false) => s
      | (s, true) =>
        let (s, rid) := s.record w va cause 5 true
        s.updSlice sl fun x => { x with recs := x.recs.map fun r => if r.rid = rid then { r with fetches := r.fetches ++ [k] } else r }

/-- INSTRUCTION_LINE_ARRIVAL (R86, R193, R332): a line, named ASID * 2^42 + VA / 64, arrives in a core's instruction cache as it stood when
its context started, or its fetch faults. -/
def execInstructionLineArrival (core line : Nat) (s : State) : Out :=
  let k := core * 2 ^ 55 + line
  let asid := line / 2 ^ 42
  let ln := line % 2 ^ 42
  match s.ic.get k with
  | some _ => .next s
  | none => match s.fetcher core asid ln with
    | none => .next s
    | some pid =>
      let w := s.whoPly pid
      if s.atBay asid ln then .next s
      else match s.home w ln .fetch with
        | (s, .ok x) => .next (s.icPut core k (.data ((s.oldCode.get (mcKey asid ln)).getD x)))
        | (s, .poison) => .next (s.icPut core k .bad)
        | (s, .host a) =>
          .next (s.hostSend { use := .eng 2 k 0, dev := 0, off := a, clock := none, core := core, slot := 0, pid := pid, write := false,
                              host := true } (fun n => .read n a 64)).1
        | (s, .fail c) => .next (s.fetchFault w core k ln c)

/-- A context starts: its code is fetched as it stands now (R193). -/
def State.codeFresh (s : State) (asid : Nat) : State :=
  { s with oldCode := s.oldCode.filter fun e => mcAsid e.1 != asid, ic := s.ic.filter fun e => e.1 / 2 ^ 42 % 8192 != asid }

/-! ## Shootdowns (R340 to R342) -/

/-- SHOOTDOWN_REQUEST (R340): a whole 32-byte write queues a request; a partial one is dropped; a full queue makes it wait. -/
def execShootdownRequest (bytes : List Byte) (s : State) : Out :=
  s.served (
    if bytes.length ≠ 32 || 16 ≤ s.shoot.length then .next s
    else .next { s with shoot := s.shoot ++ [BitVec.ofNat 256 (leNat bytes)] })

/-- The record is malformed (R340). -/
def shootBad (x : Nat) : Bool :=
  fld x 15 13 ≠ 0 || fld x 63 48 ≠ 0 || fld x 127 96 ≠ 0 || fld x 191 184 ≠ 0 || (fld x 95 64 = 0 && !bit x 12)
/-- A VA lies in a request's range. -/
def shootHit (x va : Nat) : Bool :=
  bit x 12 || (fld x 47 16 * 65536 ≤ va && va < (fld x 47 16 + fld x 95 64) * 65536)

/-- Purge L1 lines: written back, then gone; false where a side log was full. -/
def State.purgeAll (s : State) (ks : List Nat) : State × Bool :=
  ks.foldl (fun (acc : State × Bool) k =>
    let (t, ok) := acc.1.l1Purge (k / 2 ^ 55) (k / 2 ^ 42 % 8192) (k % 2 ^ 42)
    (t, acc.2 && ok)) (s, true)

/-- Write back and purge memory-side lines that a test names (R341). -/
def State.mcPurge (s : State) (ok : Nat → Bool) : State :=
  let s' := s.mc.foldl (fun s e => if ok e.1 then s.mcBack e.1 e.2 else s) s
  { s' with mc := s'.mc.filter fun e => !ok e.1 }

/-! ## Inbound pod accesses (R337, R358, R359) -/

/-- The slot that receives a context's traffic (R323): the lowest that carries the CTXID and is RUNNING, SAVING, SAVED or
RESTORING. -/
def State.slotFor (s : State) (ctxid : Nat) : Option Nat :=
  (s.ctxs.findVal fun _ c => pktCtxid c == ctxid && match c.st with
    | .running => true | .saving => true | .saved => true | .restoring => true | _ => false).map Prod.fst

/-- Who makes an inbound access. -/
def State.whoPod (s : State) (dev ctxid : Nat) : Who :=
  { asid := s.podAsid ctxid, slot := s.slotFor ctxid, core := 0, part := 0, pslot := 0, uid := none, dev := dev, inb := true }

/-- Answer a remote request (R359). -/
def State.answer (s : State) (p : PodAccess) (r : RemoteReply) : State := s.fabSend .rsp 4095 p.dev (.reply p.req r)

/-- Refuse an inbound access: recorded with KIND 4, and a NACK with the cause (R337). -/
def State.podRefuse (s : State) (w : Who) (va cause : Nat) (p : PodAccess) : State :=
  ((s.record w va cause 4 false).1).answer p (.nack cause)

/-- The bytes and mask of a masked write from byte 0. -/
def maskedLine (bs : List (Option Byte)) : Line × Mask :=
  bs.zipIdx.foldl (fun (acc : Line × Mask) x => match x.1 with
    | some b => (lineSet acc.1 x.2 b, acc.2 ||| (1#64 <<< x.2))
    | none => acc) (0, 0)

/-- Send the PCIe requests of an inbound access to a HOST page: it is answered when the last has completed (R188, R359). -/
def State.podHostSend (s : State) (p : PodAccess) (va : Nat) (msgs : List (Nat → PcieMsg)) : State :=
  let (k, s) := s.freshOp
  let s := { s with podHost := s.podHost.set k { dev := p.dev, req := p.req, ctxid := p.ctxid, va := va, left := msgs.length, vals := [], bad := none } }
  msgs.zipIdx.foldl (fun s m => (s.hostSend { use := .eng 1 k m.2, dev := 0, off := 0, clock := none, core := 0, slot := 0, pid := 0, write := false,
                                              host := true } m.1).1) s

/-- A read at the target. -/
def State.podRead (s : State) (w : Who) (va n : Nat) (p : PodAccess) : State :=
  match s.home w (va / 64) .read with
  | (s, .ok x) => s.answer p (.data (lineSlice x (va % 64) n))
  | (s, .poison) => s.answer p .poisoned
  | (s, .host a) => s.podHostSend p va [fun m => .read m (a + va % 64) n]
  | (s, .fail c) => s.podRefuse w va c p

/-- A write at the target. -/
def State.podWrite (s : State) (w : Who) (va : Nat) (x : Line) (m : Mask) (p : PodAccess) : State :=
  match s.homeWrite w (va / 64) x m 4 false none with
  | (s, .fail c) => s.answer p (.nack c)
  | (s, _) => s.answer p .ack

/-- An atomic at the target: operands in lane order (R186, R338). -/
def State.podAtomic (s : State) (red : Bool) (w : Who) (va aop : Nat) (ty : Ty) (xs : List (Nat × Nat)) (p : PodAccess) : State :=
  let z := tyBytes ty
  match s.home w (va / 64) .write with
  | (s, .ok x) =>
    let old := leNat (lineSlice x (va % 64) z)
    let v := (atomRun (aop == aopCas) aop ty old xs).2
    (s.mcPut w.asid (va / 64) (lineAt (va % 64) z v) (byteSpan (va % 64) z)).answer p (.data (leBytes z old))
  | (s, .poison) => s.answer p .poisoned
  | (s, .host a) =>
    if xs.all fun x => (hostAtomic red aop ty x.1 x.2).isSome then
      s.podHostSend p va (xs.filterMap fun x => (hostAtomic red aop ty x.1 x.2).map fun h => fun m => .atomic m (a + va % 64) h)
    else s.podRefuse w va 8 p
  | (s, .fail c) => s.podRefuse w va c p

/-- No earlier packet of its flow waits in the switch (R354). -/
def State.firstOfFlow (s : State) (i : Nat) (p : FabPkt) : Bool :=
  !((s.fabOut.take i).any fun q => q.cls == p.cls && q.src == p.src && q.agent == p.agent && q.dst == p.dst)

/-- A packet to the package itself waits in the switch, the first of its flow: the access or reply is taken from it (R156, R354,
R358). -/
def State.takeLoop (s : State) (body : FabBody) : Option State :=
  match s.fabOut.zipIdx.find? fun x => x.1.dst == s.mgmt.devidx && x.1.body == body && s.firstOfFlow x.2 x.1 with
  | some x => some { s with fabOut := s.fabOut.eraseIdx x.2 }
  | none => none

/-- Perform an inbound access (R337, R338, R358). -/
def State.podAccess (s : State) (p : PodAccess) : State :=
  let w := s.whoPod p.dev p.ctxid
  let va := podVa p.off
  match p.op with
  | .read n => s.podRead w va n p
  | .write bs => let (x, m) := maskedLine bs; s.podWrite w (va / 64 * 64) x m p
  | .strongWrite bs => s.podWrite w va (lineAt (va % 64) bs.length (leNat bs)) (byteSpan (va % 64) bs.length) p
  | .atomic red o ty xs => s.podAtomic red w va o ty (xs.map fun x => (x.toNat, 0)) p
  | .cas ty xs => s.podAtomic false w va aopCas ty (xs.map fun x => (x.1.toNat, x.2.toNat)) p

end Sys2Proof.Machine
end

