-- ==== Sys2Proof/Machine/Lifecycle.lean ====
section
/-! DEFINITION. The end of lanes, plies, skeins and contexts (R85, R95, R121, R295), the barriers of R122, and messages to the
host (R442). -/

namespace Sys2Proof.Machine

/-- Signal an MSI-X entry (R442): a masked one sets its PBA bit. -/
def State.msix (s : State) (entry : Nat) : State :=
  if s.mgmt.msixMask.contains entry then
    { s with mgmt := { s.mgmt with pba := if s.mgmt.pba.contains entry then s.mgmt.pba else s.mgmt.pba ++ [entry] } }
  else { s with pcieOut := s.pcieOut ++ [.msix entry] }

/-! ## Barriers of the work levels (R122 to R124) -/

/-- Two plies of one context are in one instance of a level (R21, R122). -/
def sameInst (level : Scope) (a b : Nat × Ply) : Bool := match level with
  | .core => a.2.skein == b.2.skein
  | .quad => a.2.ctx == b.2.ctx && coreQuad (plyCore a.1) == coreQuad (plyCore b.1)
  | .die => a.2.ctx == b.2.ctx && coreDie (plyCore a.1) == coreDie (plyCore b.1)
  | .pkg => a.2.ctx == b.2.ctx
  | .pod => a.2.ctx == b.2.ctx

/-- The key of a context's barrier of a level for a core. -/
def barKey (level : Scope) (core : Nat) : Nat := match level with
  | .core => 0
  | .quad => 1000 + coreQuad core
  | .die => 2000 + coreDie core
  | .pkg => 3000
  | .pod => 4000

/-- The barrier of a ply's level. -/
def State.barOf (s : State) (pid : Nat) (p : Ply) (level : Scope) : PlyBar := match level with
  | .core => match s.skeins.get p.skein with
    | some k => k.bar
    | none => PlyBar.launch
  | l => ((s.ctx p.ctx).bars.get (barKey l (plyCore pid))).getD PlyBar.launch

/-- Change the barrier of a ply's level. -/
def State.setBar (s : State) (pid : Nat) (p : Ply) (level : Scope) (b : PlyBar) : State := match level with
  | .core => s.updSkein p.skein fun k => { k with bar := b }
  | l => s.updCtx p.ctx fun c => { c with bars := c.bars.set (barKey l (plyCore pid)) b }

/-- The next phase (R122). -/
def PlyBar.advance (b : PlyBar) : PlyBar :=
  { phase := b.phase + 1, arrivals := 0, count := 0, pkgDone := false, reports := b.reports.filter fun r => r.2 != b.phase.toNat }

/-- Every package of the pod context has reported that its plies have completed the open phase (R122). -/
def PlyBar.podDone (b : PlyBar) (members : List Nat) : Bool := members.all fun d => b.reports.contains (d, b.phase.toNat)

/-- A phase completes when the arrivals reach the count; under count 0, every live ply, saved ones too, and at least one (R122). At `.pod` the
package reports to every package of the pod context, and the phase ends when all have reported (log entry 128). -/
def State.evalBar (s : State) (pid : Nat) (p : Ply) (level : Scope) : State :=
  let b := s.barOf pid p level
  let live := ((s.plies ++ s.saved.flatMap fun v => v.2.plies).filter fun e => sameInst level (pid, p) e).length
  if b.arrivals = 0 || b.arrivals < (if b.count = 0 then live else b.count) then s
  else if level = .pod then
    if b.pkgDone then s
    else
      let ctxid := pktCtxid (s.ctx p.ctx)
      (Config.podMembers ctxid).foldl (fun s d => s.fabSend .ctl 4094 d (.podBar ctxid b.phase.toNat))
        (s.setBar pid p level { b with pkgDone := true })
  else s.setBar pid p level b.advance

/-- Every level. -/
def levels : List Scope := [.core, .quad, .die, .pkg, .pod]
/-- A ply has ended or joined: the open phases of its instances are evaluated again (R122). -/
def State.evalBars (s : State) (pid : Nat) (p : Ply) : State := levels.foldl (fun s l => s.evalBar pid p l) s

/-- An arrival (R122, R124): the phase before it, and the state after. -/
def State.arrive (s : State) (pid : Nat) (p : Ply) (level : Scope) (count : Nat) : Word × State :=
  let b := s.barOf pid p level
  let b' := { b with arrivals := b.arrivals + 1, count := if b.arrivals = 0 then count else b.count }
  (b.phase, (s.setBar pid p level b').evalBar pid p level)

/-! ## The end of a skein and of a context -/

/-- Return the segments of a skein to free; a retired one is not assigned again (R85, R419). -/
def State.freeSegs (s : State) (core : Nat) (ns : List Nat) : State :=
  ns.foldl (fun s n => s.updSeg (core * 512 + n) fun g => { Seg.reset with retired := g.retired }) s

/-- Every skein of the context has been placed and has ended (R295). -/
def ctxEnded (c : Ctx) : Bool :=
  let n := (pktCores c).length * pktSkeins c
  c.placed.length == n && c.ended.length == n

/-- CONTEXT DONE (R295): once every skein has ended, every core of CMASK writes back the context's L1 bytes and its drains finish;
then the slot is in DONE. -/
def State.tryDone (s : State) (slot : Nat) : State :=
  let c := s.ctx slot
  if c.st != .running || !ctxEnded c then s
  else
    let asid := s.slotAsid slot
    let (s, ok) := (pktCores c).foldl (fun (acc : State × Bool) core =>
      let (t, k) := acc.1.l1BackAll core asid false
      (t.wcDrain core fun e => e.slot == slot, acc.2 && k)) (s, true)
    if ok && !((pktCores c).any fun core => s.wcWaiting core slot fun _ _ => true) then
      (s.updCtx slot fun c => { c with st := .done }).msix slot
    else s

/-- A skein ends when it has no ply and no thread in a bobbin (R85). -/
def State.endSkein (s : State) (k : Nat) : State :=
  match s.skeins.get k with
  | none => s
  | some sk =>
    if s.plies.any (fun e => e.2.skein == k) || s.parts.any (fun e => e.2.bobbins.any fun b => b.2.skein == k) then s
    else
      let s := s.freeSegs sk.core sk.segs
      let s := { s with skeins := s.skeins.del k }
      (s.updCtx sk.ctx fun c => { c with ended := c.ended ++ [sk.idx] }).tryDone sk.ctx

/-- A ply ends (R85): barriers stop awaiting it, and its skein may end; its slot and registers return at the end of the clock. -/
def State.endPly (s : State) (pid : Nat) : State :=
  match s.ply? pid with
  | none => s
  | some p => (({ s with plies := s.plies.del pid, gone := s.gone.set pid p.skein }).evalBars pid p).endSkein p.skein

/-- Lanes leave their ply (R85, R95, R97, R121): they are no longer live, and leave the held mask. -/
def Ply.dropLanes (p : Ply) (m : Mask) : Ply :=
  { p with lanes := p.lanes.zipIdx.map fun x => if m.getLsbD x.2 then none else x.1
           csr := { p.csr with trapmask := if p.hnd.isSome then p.csr.trapmask &&& ~~~m else p.csr.trapmask } }

/-- Whether a ply is the context's last on its core (R209): no other ply, and no thread in a bobbin. -/
def State.lastOnCore (s : State) (pid : Nat) (p : Ply) : Bool :=
  !(s.plies.any fun e => e.1 != pid && plyCore e.1 == plyCore pid && e.2.ctx == p.ctx) &&
  !(s.parts.any fun e => e.1 / 4 == plyCore pid && e.2.bobbins.any fun b => match s.skeins.get b.2.skein with
    | some k => k.ctx == p.ctx
    | none => false)

end Sys2Proof.Machine
end

