-- ==== Sys2Proof/Machine/Control.lean ====
section
/-! DEFINITION. The ply sequencer's instructions: control flow and the return-address stacks (R90 to R121, R215 to R223), REFORM and
the draw from bobbins (R96 to R100), barriers and waits (R122 to R126), traps and their return (R127, R128, R224 to R227), and
CSRs (R129 to R134). -/

namespace Sys2Proof.Machine

/-! ## Transfers -/

/-- A full form with no destination of the next instruction to check in general (R31): the meaning checks it where a lane goes on. -/
def issueJump (fm : Form) (early : Env → State → Pre) (body : Env → State → Res) (f : Full) (s : State) : Out :=
  issue (fullSpec s fm none false f) early body s

/-- The context of the issuing ply. -/
def envCtx (e : Env) (s : State) : Ctx := s.ctx e.p.ctx
/-- The next instruction. -/
def nextPc (e : Env) : Addr := e.pc + 12
/-- The lanes that would leave the code window (R31, R105, R116): those that name a target outside it, and those of `fall`, which go on at the next
instruction, where it lies outside. -/
def outLanes (e : Env) (s : State) (ts : List (Nat × Addr)) (fall : Mask) : Mask :=
  maskOf ((ts.filter fun t => !inWindow (envCtx e s) t.2.toNat).map Prod.fst) |||
    (if inWindow (envCtx e s) (nextPc e).toNat then 0 else fall)

/-- The check of where lanes go on (R31, R105, R116): the window first, ILLOP 0x01 in the lanes that leave it, then the low bits of computed
targets. -/
def pathsThen (e : Env) (computed : Bool) (ts : List (Nat × Addr)) (fall : Mask) (s : State) (k : Unit → Res) : Res :=
  if outLanes e s ts fall ≠ 0 then .trap s (Trap.plain 0x100 1 (outLanes e s ts fall))
  else
    let bad := ts.filter fun t => computed && t.2.toNat % 4 ≠ 0
    if bad.isEmpty then k () else trapLanes 0x104 0 (bad.map fun t => (t.1, t.2.toNat)) s

/-- An offset of 4-byte units from the instruction (R117, R118). -/
def pcRel (e : Env) (w x : Nat) : Addr := e.pc + BitVec.ofNat 56 (wrapNat 56 (4 * sextInt w x))

/-- NOP (R50, R115). -/
def execNop (f : Full) (s : State) : Out := issueFull (formBare f) none (always fun _ s => s) f s

/-! ## Spill-stack writes (R94, R216, R217) -/

/-- The index of the next frame in the ply's frame area: the entries already spilled (R94, R191). -/
def spilledEnts (p : Ply) : Nat := p.depth - 16
/-- The address of a frame. -/
def frameAt (e : Env) (s : State) (i : Nat) : Nat :=
  let sk := match s.skeins.get e.p.skein with
    | some k => k.idx
    | none => 0
  (frameArea (envCtx e s) sk (plyPart e.pid) (plySlot e.pid) + 16 * i) % 2 ^ 56

/-- A push has no room (R191): 16 entries are on chip and the frame area is full. -/
def frameFull (p : Ply) : Bool := 16 ≤ p.depth && 256 ≤ spilledEnts p

/-- STACK when a push has no room (R191, R219), with the frame address. -/
def frameThen (e : Env) (push : Bool) (m : Mask) (s : State) (k : Unit → Res) : Res :=
  if push && frameFull e.p then
    trapLanes 0x107 0 ((lanesOf m).map fun l => (l, frameAt e s (spilledEnts e.p))) s
  else k ()

/-- A weak request of the ply sequencer (R217). -/
def seqReq (e : Env) (kind : ReqKind) (cls : Cls) (ty : Ty) (ps : List MPart) : MReq :=
  { kind := kind, pid := e.pid, uid := e.p.uid, skein := e.p.skein, slot := e.p.ctx, pc := e.pc, cls := cls, uns := false,
    dst := .special .zero, dregs := 0, scalar := false, ty := ty, n := 1, ord := .weak, scope := .core, rp := false, aop := 0,
    parts := ps, acq := false, tids := (ps.map MPart.tid).eraseDups }

/-- Weak stores that the ply sequencer makes for threads: lane, thread, address, bytes, data (R217). -/
def State.seqStore (s : State) (e : Env) (xs : List (Nat × Nat × Nat × Nat × Nat)) : State :=
  if xs.isEmpty then s
  else
    let ps := xs.flatMap fun x => s.mkParts e.pid e.p x.1 x.2.1 x.2.2.1 x.2.2.2.1 x.2.2.2.2 0
    let (s, ps) := s.dropBad e.p.uid ps
    let r := seqReq e .st .st .n32 ps
    let (s, op) := s.enter r
    (s.weakParts op r).finishReq op

/-- The least number that a list does not name. -/
def leastFree (used : List Nat) : Nat := ((List.range (used.length + 1)).find? fun n => !used.contains n).getD 0

/-- The entries that a push moves to memory, each with its frame (R94, R191): those that would be on chip beside the 16 newest; in push order, that is
the oldest on chip. -/
def Ply.spillPlan (p : Ply) : List (Nat × Nat) :=
  let out := (p.allEnts.zipIdx.filter fun x => x.2 + 16 ≤ p.depth && !x.1.spilled).map Prod.snd
  out.foldl (fun plan i => plan ++ [(i, leastFree (((p.allEnts.filter fun d => d.spilled).map DEntry.frame) ++ plan.map Prod.snd))]) []

/-- The frames that a push stores. -/
def frameStore (e : Env) (s : State) : List (Nat × Nat × Nat × Nat × Nat) :=
  match e.p.threadsOf e.act with
  | (l, t) :: _ => e.p.spillPlan.filterMap fun x => (e.p.allEnts[x.1]?).map fun d => (l, t, frameAt e s x.2, 16, s.frameOf e.p d)
  | [] => []

/-- Entry i is now in memory only, in a frame (R94). -/
def Ply.markSpilled (p : Ply) (i n : Nat) : Ply := p.mapEnt i fun d => { d with spilled := true, frame := n }

/-- Push a divergence entry, spilling what does not stay on chip (R90, R94). -/
def pushSpill (e : Env) (d : DEntry) (s : State) : State :=
  let t := s.seqStore e (frameStore e s)
  (t.updPly e.pid fun p => p.spillPlan.foldl (fun p x => p.markSpilled x.1 x.2) p).pushEntry e.pid e.pc d

/-- What n stores of the ply sequencer wait for before they issue: an acquire, room in their counter (R18, R217), or an older access to
their bytes. -/
def seqStall (e : Env) (s : State) (n : Nat) : Bool :=
  n != 0 && (s.acquiring e.p e.pid || 63 < e.p.count .st + n || s.loadsOpen e.p)

/-- BRA (R90, R117). A target or reconvergence point outside the window traps every executing lane, and every active lane where none executes
(DESIGN CHOICE, log entry 125). -/
def braBody (f : Full) (e : Env) (s : State) : Res :=
  let t := pcRel e 16 (mf f 31 16)
  let r := pcRel e 16 (mf f 15 0)
  let fall := e.act &&& ~~~e.exec
  pathsThen e false ((lanesOf (if e.exec = 0 then e.act else e.exec)).flatMap fun l => [(l, t), (l, r)]) fall s fun _ =>
    if fall = 0 then .moved (s.setPc e.p e.act t)
    else if e.exec = 0 then .moved (s.setPc e.p e.act (nextPc e))
    else frameThen e true e.exec s fun _ =>
      if seqStall e s e.p.spillPlan.length then .stall s
      else
        let s := pushSpill e { calli := false, lanes := e.act, rpc := some r, cpc := 0, cur := 0,
                               parts := [⟨fall, nextPc e⟩, ⟨e.exec, t⟩], spilled := false } s
        .moved ((s.setPc e.p fall (nextPc e)).setPc e.p e.exec t)

/-- BRA (R117). -/
def execBra (f : Full) (s : State) : Out := issueJump (formBra f) noEarly (braBody f) f s

/-- A jump of the whole part. -/
def jumpTo (e : Env) (computed : Bool) (t : Addr) (s : State) : Res :=
  pathsThen e computed ((lanesOf e.act).map fun l => (l, t)) 0 s fun _ => .moved (s.setPc e.p e.act t)

/-- JMP (R118). -/
def execJmp (f : Full) (s : State) : Out :=
  issueJump (formJump f) noEarly (fun e s => jumpTo e false (pcRel e 32 f.m.toNat) s) f s

/-- JMPR (R118). -/
def execJmpr (f : Full) (s : State) : Out :=
  issueJump (formJmpr f) noEarly (fun e s => jumpTo e true (BitVec.ofNat 56 (sPairVal s e.p f.a)) s) f s

/-! ## Return addresses (R119, R216 to R222) -/

/-- RaSlot of R216. -/
def raSlot (e : Env) (s : State) (tid n : Nat) : Nat :=
  let c := envCtx e s
  let sk := match s.skeins.get e.p.skein with
    | some k => k.idx
    | none => 0
  (threadArea c sk (plyPart e.pid) tid + pktSz c - 8 * (n + 1)) % 2 ^ 56

/-- The threads of a mask, with lane, number and state. -/
def State.threadList (s : State) (p : Ply) (m : Mask) : List (Nat × Nat × Thread) :=
  (p.threadsOf m).filterMap fun x => (s.thread p.skein x.2).map fun t => (x.1, x.2, t)

/-- Lanes whose push has no room (R216). -/
def pushFull (ts : List (Nat × Nat × Thread)) : List (Nat × Nat) :=
  (ts.filter fun x => x.2.2.ra.length = 4 && 64 ≤ x.2.2.rsn).map fun x => (x.1, 0)

/-- PushRA (R216) for the threads of a mask. -/
def pushRas (e : Env) (m : Mask) (ra : Addr) (s : State) : State :=
  let ts := s.threadList e.p m
  let out := (ts.filter fun x => x.2.2.ra.length = 4).map fun x =>
    (x.1, x.2.1, raSlot e s x.2.1 x.2.2.rsn, 8, match x.2.2.ra.getLast? with
      | some a => a.toNat
      | none => 0)
  let s := s.seqStore e out
  s.updThreads e.p.skein (ts.map fun x => x.2.1) fun _ t =>
    if t.ra.length = 4 then { t with ra := ra :: t.ra.take 3, rsn := t.rsn + 1 } else { t with ra := ra :: t.ra }

/-- A push spills for some thread. -/
def pushSpills (e : Env) (m : Mask) (s : State) : Bool := (s.threadList e.p m).any fun x => x.2.2.ra.length = 4

/-- CALL (R119, R216). -/
def callBody (f : Full) (e : Env) (s : State) : Res :=
  let t := pcRel e 32 f.m.toNat
  pathsThen e false ((lanesOf e.act).map fun l => (l, t)) 0 s fun _ =>
    let bad := pushFull (s.threadList e.p e.act)
    if !bad.isEmpty then trapLanes 0x107 0 bad s
    else if seqStall e s (b2n (pushSpills e e.act s)) then .stall s
    else .moved ((pushRas e e.act (nextPc e) s).setPc e.p e.act t)

/-- CALL (R119). -/
def execCall (f : Full) (s : State) : Out := issueJump (formJump f) noEarly (callBody f) f s

/-- Lanes grouped by address, in ascending address order. -/
def groupByPc (xs : List (Nat × Addr)) : List DPart :=
  let pcs := sortBy (fun a : Addr => a.toNat) (xs.map Prod.snd).eraseDups
  pcs.map fun a => ⟨maskOf ((xs.filter fun x => x.2 == a).map Prod.fst), a⟩

/-- A CALLI entry (R220): its parts in callee order, the first running. -/
def calliEntry (e : Env) (rpc : Option Addr) (parts : List DPart) : DEntry :=
  { calli := true, lanes := e.act, rpc := rpc, cpc := (parts.head?.map DPart.pc).getD 0, cur := 0, parts := parts,
    spilled := false }

/-- CALLI (R119, R219). -/
def calliBody (f : Full) (e : Env) (s : State) : Res :=
  if e.exec = 0 then pathsThen e true [] e.act s fun _ => .moved (s.setPc e.p e.act (nextPc e))
  else
    let cs := e.lanes.map fun l => (l, BitVec.ofNat 56 (opVal s e.pid e.p l true .n64 0 f.a))
    let out := e.act &&& ~~~e.exec
    pathsThen e true cs out s fun _ =>
      let groups := groupByPc cs
      let many := 1 < groups.length || out != 0
      frameThen e many e.exec s fun _ =>
        let bad := pushFull (s.threadList e.p e.exec)
        if !bad.isEmpty then trapLanes 0x107 0 bad s
        else if seqStall e s ((if many then e.p.spillPlan.length else 0) + b2n (pushSpills e e.exec s)) then .stall s
        else
          let t := pushRas e e.exec (nextPc e) s
          let d := calliEntry e (some (nextPc e)) (groups ++ if out != 0 then [⟨out, nextPc e⟩] else [])
          let t := if many then pushSpill e d t else t
          .moved ((t.setPcs e.p cs).setPc e.p out (nextPc e))

/-- CALLI (R219). -/
def execCalli (f : Full) (s : State) : Out := issueJump (formCalli f) noEarly (calliBody f) f s

/-- A refill's address for a lane (R216, R217). -/
def refillVal (r : MReq) (l : Nat) : Option Nat :=
  let ps := r.parts.filter fun q => q.lane == l
  if ps.isEmpty then none
  else some (leNat (ps.flatMap fun q => match q.st with
    | .ready b => b
    | _ => []) % 2 ^ 56)

/-- The last steps of RET (R222): the addresses popped are checked, the stacks pop, and lanes with different addresses part. -/
def retGo (e : Env) (ads : List (Nat × Addr)) (s : State) : Res :=
  pathsThen e true ads 0 s fun _ =>
    let groups := groupByPc ads
    let many := 1 < groups.length
    frameThen e many e.act s fun _ =>
      if seqStall e s (if many then e.p.spillPlan.length else 0) then .stall s
      else
        let tids := (e.p.threadsOf e.act).map Prod.snd
        let t := s.updThreads e.p.skein tids fun _ t => match t.ra with
          | _ :: r => { t with ra := r }
          | [] => { t with rsn := t.rsn - 1 }
        let t := if many then pushSpill e (calliEntry e e.p.innerRpc groups) t else t
        .moved (t.setPcs e.p ads)

/-- RET (R217, R222): refills are read first; they complete in `cl.ld` at the latest when the RET takes them. -/
def retBody (e : Env) (s : State) : Res :=
  let ts := s.threadList e.p e.act
  let bad := (ts.filter fun x => x.2.2.ra.isEmpty && x.2.2.rsn = 0).map fun x => (x.1, 0)
  if !bad.isEmpty then trapLanes 0x107 0 bad s
  else
    let need := ts.filter fun x => x.2.2.ra.isEmpty
    let onChip := ts.filterMap fun x => x.2.2.ra.head?.map fun a => (x.1, a)
    if need.isEmpty then retGo e onChip s
    else
      let slot (x : Nat × Nat × Thread) : Nat := raSlot e s x.2.1 (x.2.2.rsn - 1)
      match e.p.wait with
      | some (.op op) => match s.reqs.get op with
        | none => .stall s
        | some r =>
          let fin := r.parts.all fun q => match q.st with
            | .ready _ => true
            | .bad _ => true
            | _ => false
          if !fin then .stall s
          else
            let t := ({ s with reqs := s.reqs.del op }).completeOp e.pid op
            let failed := r.parts.filterMap fun q => match q.st with
              | .bad n => some (q.lane, n)
              | _ => none
            match failed with
            | (_, n) :: _ =>
              let ls := need.filter fun x => failed.any fun y => y.1 == x.1
              .trap t { Trap.plain 0x103 n (maskOf (ls.map Prod.fst)) with vas := ls.map fun x => (x.1, BitVec.ofNat 56 (slot x)) }
            | [] =>
              let more := need.filterMap fun x => (refillVal r x.1).map fun a => (x.1, BitVec.ofNat 56 a)
              match retGo e (sortBy Prod.fst (onChip ++ more)) t with
              | .stall _ => .stall s
              | x => x
      | _ =>
        if s.acquiring e.p e.pid || e.p.full .ld then .stall s
        else
          let ps := need.flatMap fun x => s.mkParts e.pid e.p x.1 x.2.1 (slot x) 8 0 0
          let (t, op) := s.enter (seqReq e .refill .ld .n64 ps)
          waitSet e (.op op) t

/-- The lanes of the part of a BRA entry that did not run stand at OPC, or at the reconvergence point where the frame says that the part is
parked (R94). -/
def frameLanes (p : Ply) (d : DEntry) (w : Nat) : List (Nat × Addr) :=
  match d.parts[1 - d.cur]? with
  | some q =>
    if d.calli || hasInner (p.allEnts.filter fun x => subMask x.lanes d.lanes && x.lanes != d.lanes) q.lanes then []
    else (lanesOf (q.lanes &&& p.live)).map fun l => (l, if bit w (88 + (1 - d.cur)) then d.rpc.getD q.pc else q.pc)
  | none => []

/-- The divergence entry that a ply reads back next (R94): the one that it waits for, or the one that is due. -/
def Ply.entNext (p : Ply) : Option Nat := match p.wait with
  | some (.frame i _) => some i
  | _ => p.entDue

/-- READ BACK the divergence entry i, which is in memory only, before the ply goes on (R94, R217): a weak load of its frame that counts in
`cl.ld`. One that fails traps FAULTED in the active lanes at the ply's PC, and the entry goes on as it was (log entry 129). -/
def State.entBack (s : State) (pid : Nat) (p : Ply) (i : Nat) : State :=
  let e : Env := { pid := pid, p := p, pc := s.plyPc p, act := p.active, exec := p.active }
  let wait (s : State) : State := { s with stall := true }
  let at' : Nat := frameAt e s (((p.allEnts[i]?).map DEntry.frame).getD 0)
  let start : State :=
    if s.acquiring p pid || p.full .ld then wait s
    else match p.threadsOf p.active with
      | (l, t) :: _ =>
        let (s, op) := s.enter (seqReq e .refill .ld .n64 (s.mkParts pid p l t at' 16 0 0))
        wait (s.updPly pid fun p => { p with wait := some (.frame i (some op)) })
      | [] => wait s
  match p.wait with
  | some (.frame _ (some op)) => match s.reqs.get op with
    | none => wait (s.updPly pid fun p => { p with wait := none })
    | some r =>
      let fin := r.parts.all fun q => match q.st with
        | .ready _ => true
        | .bad _ => true
        | _ => false
      if !fin then wait s
      else
        let t := (({ s with reqs := s.reqs.del op }).completeOp pid op).updPly pid fun p => { p with wait := none }
        match r.parts.findSome? fun q => (match q.st with
            | .bad n => some n
            | _ => none) with
        | some n =>
          (t.updPly pid fun p => p.mapEnt i fun d => { d with spilled := false }).takeTrap pid
            { Trap.plain 0x103 n e.act with vas := (lanesOf e.act).map fun l => (l, BitVec.ofNat 56 at') }
        | none =>
          let w := leNat (r.parts.flatMap fun q => match q.st with
            | .ready b => b
            | _ => [])
          let t := t.updPly pid fun p => p.mapEnt i fun d => d.ofFrame (envCtx e s) w
          match t.ply? pid with
          | some p' => wait ((match p'.allEnts[i]? with
            | some d => t.setPcs p' (frameLanes p' d w)
            | none => t).settlePly pid)
          | none => wait t
  | _ => start

/-- RET (R222). -/
def execRet (f : Full) (s : State) : Out := issueJump (formRet f) noEarly retBody f s

/-! ## REFORM, EXIT and bobbins -/

/-- Every counter and UNRES of the ply are 0 (R120, R121, R335). -/
def State.plyQuiet (s : State) (pid : Nat) : Bool := match s.ply? pid with
  | some p => p.quiet && p.unres == 0
  | none => true

/-- Every kind of condition. -/
def anyCond : Cond → Bool := fun _ => true

/-- File one thread (R97): into the bobbin of its skein and PC, or a free one; the state and whether it was filed. -/
def State.fileThread (s : State) (pid : Nat) (p : Ply) (l : Nat) (pc : Addr) : State × Bool :=
  let k := plyPartKey pid
  let bs := (s.part k).bobbins
  match p.tidAt l with
  | none => (s, false)
  | some tid =>
    let put (i : Nat) (b : Bobbin) : State × Bool :=
      let b' := { b with threads := b.threads ++ [{ tid := tid, clock := s.clock }],
                         rngctr := if b.threads.isEmpty || b.rngctr.toNat < p.csr.rngctr.toNat then p.csr.rngctr else b.rngctr,
                         fpx := b.fpx ||| p.csr.fpx }
      (((s.updPart k fun x => { x with bobbins := x.bobbins.set i b' }).updThread p.skein tid fun t => { t with pc := pc }).updPly pid
        fun p => p.dropLanes (1#64 <<< l), true)
    match bs.findVal fun _ b => b.skein == p.skein && b.pc == pc with
    | some (i, b) => put i b
    | none => match (List.range 16).find? fun i => (bs.get i).isNone with
      | some i => put i { skein := p.skein, pc := pc, threads := [], rngseed := p.csr.rngseed, rngctr := 0, fpx := 0 }
      | none => (s, false)

/-- File lanes at their addresses (R97): the state, and the lanes filed. -/
def reformFiles (e : Env) (cs : List (Nat × Addr)) (s : State) : State × Mask :=
  cs.foldl (fun (acc : State × Mask) x =>
    let (t, ok) := acc.1.fileThread e.pid e.p x.1 x.2
    (t, if ok then acc.2 ||| (1#64 <<< x.1) else acc.2)) (s, 0)

/-- The carried RNGCTR is kept through draws (R74): a bobbin in use never lists no thread. File the executing lanes (R97, R120). -/
def reformFile (e : Env) (cs : List (Nat × Addr)) (s : State) : Res :=
  let (t, filed) := reformFiles e cs s
  let rest := e.act &&& ~~~filed
  let t := t.setPc e.p rest (nextPc e)
  match t.ply? e.pid with
  | some p => if p.live = 0 then .moved (t.endPly e.pid) else .moved t
  | none => .moved t

/-- The continuation addresses of a REFORM, by lane. -/
def reformTargets (f : Full) (e : Env) (s : State) : List (Nat × Addr) :=
  e.lanes.map fun l => (l, BitVec.ofNat 56 (opVal s e.pid e.p l true .n64 0 f.a))

/-- The lanes that go on here (R97): those that do not execute, and those for which filing finds no bobbin. -/
def reformStays (e : Env) (cs : List (Nat × Addr)) (s : State) : Mask := e.act &&& ~~~(reformFiles e cs s).2

/-- REFORM (R97, R116, R120). -/
def reformBody (f : Full) (e : Env) (s : State) : Res :=
  if e.exec = 0 then pathsThen e true [] e.act s fun _ => .moved (s.setPc e.p e.act (nextPc e))
  else
    let cs := reformTargets f e s
    pathsThen e true cs (reformStays e cs s) s fun _ =>
      if e.exec &&& e.p.live = e.p.live then
        if !s.plyQuiet e.pid then waitIn e (.redo 1) s
        else takeThen e true anyCond s fun s => reformFile e cs s
      else reformFile e cs s

/-- REFORM is refused while a divergence entry is open (R101, R120), where no lane would leave the code window, which is the lower cause (R62). -/
def reformEarly (f : Full) : Env → State → Pre := fun e s =>
  let e' : Env := { e with exec := guardMask s e.p f.g e.act }
  let cs := if regsFull s e.p e'.exec [⟨f.a, 2, false⟩] then reformTargets f e' s else []
  if e.p.depth = 0 || outLanes e' s cs (reformStays e' cs s) ≠ 0 then .go s else .refuse

/-- REFORM (R120). -/
def execReform (f : Full) (s : State) : Out := issueJump (formCalli f) (reformEarly f) (reformBody f) f s

/-- Retire the executing lanes (R85, R95, R121); the lanes outside go on. -/
def exitGo (e : Env) (s : State) : Res :=
  let tids := (e.p.threadsOf e.exec).map Prod.snd
  let t := s.setPc e.p (e.act &&& ~~~e.exec) (nextPc e)
  let t := t.updSkein e.p.skein fun k => { k with threads := tids.foldl (fun ts x => Tbl.del ts x) k.threads }
  let t := t.updPly e.pid fun p => p.dropLanes e.exec
  match t.ply? e.pid with
  | some p => if p.live = 0 then .moved (t.endPly e.pid) else .moved t
  | none => .moved t

/-- EXIT (R85, R121, R209, R226, R335). -/
def exitBody (e : Env) (s : State) : Res :=
  pathsThen e false [] (e.act &&& ~~~e.exec) s fun _ =>
    if e.exec = 0 then .moved (s.setPc e.p e.act (nextPc e))
    else if e.exec &&& e.p.live = e.p.live then
      let core := plyCore e.pid
      if !s.plyQuiet e.pid then waitIn e (.redo 1) s
      else
        let last := s.lastOnCore e.pid e.p
        let t := if last then s.wcDrain core fun x => x.slot == e.p.ctx else s
        if last && t.wcWaiting core e.p.ctx fun _ _ => true then waitIn e (.redo 1) t
        else takeThen e true anyCond t fun s => exitGo e s
    else takeThen e false anyCond s fun s => exitGo e s

/-- EXIT (R121). -/
def execExit (f : Full) (s : State) : Out := issueJump (formBare f) noEarly exitBody f s

/-- PLYQ of a slot on a core (R296). -/
def State.quotaOf (s : State) (slot core : Nat) : Nat := ((s.quota.get (slot * 192 + core)).getD 0).toNat
/-- Plies of a context on a partition, with those that ended in this clock (R85). -/
def State.pliesOn (s : State) (part slot : Nat) : Nat :=
  (s.plies.filter fun e => plyPartKey e.1 == part && e.2.ctx == slot).length + (s.gone.filter fun e => plyPartKey e.1 == part && e.2 / 2 ^ 18 == slot).length
/-- The lowest free ply slot of a partition (DESIGN CHOICE, log entry 124); a slot whose ply ended in this clock is free from its end on (R85). -/
def State.freeSlot (s : State) (part : Nat) : Option Nat :=
  (List.range 32).find? fun i => (s.plies.get (part * 32 + i)).isNone && (s.gone.get (part * 32 + i)).isNone

/-- A bobbin may be drawn (R98). -/
def State.drawable (s : State) (part : Nat) (b : Bobbin) : Bool :=
  match s.skeins.get b.skein, b.threads with
  | some k, t :: _ =>
    let c := s.ctx k.ctx
    c.st == .running && s.pliesOn part k.ctx < s.quotaOf k.ctx (part / 4) % 64 &&
    (pktWidth c ≤ b.threads.length || pktBobage c ≤ s.clock - t.clock || (s.part part).idle.contains b.skein
      || !(s.plies.any fun e => plyPartKey e.1 == part && e.2.skein == b.skein))
  | _, _ => false

/-- A ply as a draw starts it (R99). -/
def State.drawnPly (s : State) (part slot : Nat) (k : Skein) (b : Bobbin) (w : Nat) : Ply :=
  let ts := b.threads.take w
  let ls := ts.map (fun t => some t.tid) ++ List.replicate (w - ts.length) none
  { uid := s.nextOp, ctx := k.ctx, skein := b.skein, idx := 32 + 4 * slot + part % 4, width := w, lanes := ls, sregs := [],
    root := maskOf (List.range ts.length), ents := [], hnd := none,
    csr := { Csrs.launch with rngseed := b.rngseed, rngctr := b.rngctr, fpx := b.fpx }, prod := false, yld := false, ops := [], conds := [],
    unres := 0, age := s.clock, starve := 0, hold := none, ripe := false, wait := none, podStore := false, stopped := false, drawnAt := some s.clock }

/-- BOBBIN_DRAW (R98, R99): the oldest bobbin that qualifies, the lower PC at equal ages; one draw a clock. Bobbins of different skeins with equal age
and PC are drawn by their number, the lower first (DESIGN CHOICE, log entry 143). -/
def execBobbinDraw (part : Nat) (s : State) : Out :=
  let x := s.part part
  let cs := x.bobbins.filter fun b => s.drawable part b.2
  let age (b : Nat × Bobbin) : Nat := ((b.2.threads.head?.map Filed.clock).getD 0) * 2 ^ 56 + b.2.pc.toNat
  if x.drawn = some s.clock then .next s
  else match sortBy age cs, s.freeSlot part with
    | (i, b) :: _, some slot => match s.skeins.get b.skein with
      | none => .next s
      | some k =>
        let w := pktWidth (s.ctx k.ctx)
        let p := s.drawnPly part slot k b w
        let rest := b.threads.drop w
        let bs := if rest.isEmpty then x.bobbins.del i else x.bobbins.set i { b with threads := rest }
        let s := s.updPart part fun x => { x with drawn := some s.clock, bobbins := bs, idle := x.idle.filter (· != b.skein) }
        .next { s with nextOp := s.nextOp + 1, plies := s.plies.set (part * 32 + slot) p }
    | _, _ => .next s

/-! ## Barriers and waits -/

/-- Leave a barrier: an acquire at its level (R123). -/
def barLeave (level : Scope) (tok : Word) (e : Env) (s : State) : Res :=
  let (id, t) := s.freshOp
  let t := t.acqBegin id e.pid level false
  if t.acqDone id then .done t else waitSet e (.barAcq level tok id) t

/-- Wait until the phase differs from a token (R123). -/
def barWait (level : Scope) (tok : Word) (e : Env) (s : State) : Res :=
  if (s.barOf e.pid e.p level).phase != tok then barLeave level tok e s
  else match e.p.wait with
    | some (.bar _ _) => .stall s
    | _ => waitSet e (.bar level tok) s

/-- The continuation of a barrier wait, or else its first steps. -/
def barStage (e : Env) (s : State) (first : State → Res) : Res :=
  match e.p.wait with
  | some (.bar l t) => barWait l t e s
  | some (.barAcq l t id) => if s.acqDone id then .done s else
      (if (s.acqs.get id).isSome then .stall s else barLeave l t e s)
  | _ => first s

/-- The level of a barrier instruction (R41). -/
def barLevel (f : Full) : Scope := (scopeOf (mf f 31 29)).getD .core

/-- What an arrival does first (R123, R211, R226): the release at the level, then the remote-store errors that it takes. -/
def arriveThen (f : Full) (e : Env) (s : State) (k : State → Res) : Res :=
  releaseThen true (barLevel f) e s fun s =>
    takeThen e false (fun c => remoteScope (barLevel f) && isRemoteCond c.kind) s k

/-- BAR (R122 to R124). -/
def barBody (f : Full) (e : Env) (s : State) : Res :=
  barStage e s fun s => arriveThen f e s fun s =>
    let (tok, t) := s.arrive e.pid e.p (barLevel f) (mf f 15 0)
    barWait (barLevel f) tok e t

/-- BAR (R123). -/
def execBar (f : Full) (s : State) : Out := issueFull (formBar f) none (whenExec (barBody f)) f s

/-- BARARR (R123). -/
def bararrBody (f : Full) (e : Env) (s : State) : Res :=
  arriveThen f e s fun s =>
    let (tok, t) := s.arrive e.pid e.p (barLevel f) (mf f 15 0)
    .done (writeD t e f.d [tok] fun _ => [])

/-- BARARR (R123). -/
def execBararr (f : Full) (s : State) : Out := issueFull (formBararr f) none (whenExec (bararrBody f)) f s

/-- BARWT (R123). -/
def barwtBody (f : Full) (e : Env) (s : State) : Res :=
  barStage e s fun s => barWait (barLevel f) ((sWords s e.p f.a 1).headD 0) e s

/-- BARWT (R123). -/
def execBarwt (f : Full) (s : State) : Out := issueFull (formBarwt f) none (whenExec (barwtBody f)) f s

/-- The conditions that a WAITC of a class takes (R109, R125, R385). -/
def waitcTakes (c : Cls) (x : Cond) : Bool := match c with
  | .ld => false
  | .st => isStoreCond x.kind || isColCond x.kind
  | .net => isColCond x.kind
  | .mma => isEngineCond .mma x.kind || isColCond x.kind
  | k => isEngineCond k x.kind

/-- The acquire of a WAITC that passes (R212). -/
def waitcAcq (c : Cls) (e : Env) (s : State) : Res := match c with
  | .ld => .done s
  | .st => .done s
  | _ =>
    let (id, t) := s.freshOp
    let t := t.acqBegin id e.pid .pkg false
    if t.acqDone id then .done t else waitSet e (.op id) t

/-- WAITC (R92, R125, R212, R335). -/
def waitcBody (f : Full) (e : Env) (s : State) : Res :=
  let c := (clsOf (mf f 31 29)).getD .ld
  match e.p.wait with
  | some (.op id) => if s.acqDone id then .done s else .stall s
  | _ =>
    if mf f 5 0 < e.p.count c then .switch s
    else if c = .st && e.p.unres ≠ 0 then .stall s
    else takeThen e false (fun x => waitcTakes c x) s (waitcAcq c e)

/-- WAITC (R125). -/
def execWaitc (f : Full) (s : State) : Out := issueFull (formWaitc f) none (whenExec (waitcBody f)) f s

/-- YIELD (R126): it retires, the pending yield is set, and the ply switches parts. -/
def execYield (f : Full) (s : State) : Out :=
  issueFull (formBare f) none (fun e s => if e.exec = 0 then .done s else .yield s) f s

/-- SLEEP (R126): it retires, and the ply is not ready for n issue slots; #0 acts as NOP. -/
def sleepBody (f : Full) (_ : Env) (s : State) : Res := if mf f 15 0 = 0 then .done s else .nap s (mf f 15 0)

/-- SLEEP (R126). -/
def execSleep (f : Full) (s : State) : Out := issueFull (formSleep f) none (whenExec (sleepBody f)) f s

/-- SLEEP_EXPIRY (R126): n issue slots have passed; the ply is ready again. -/
def execSleepExpiry (ply : Nat) (s : State) : Out :=
  .next (s.updPly ply fun p => if p.wait = some (.sleep 0) then { p with wait := none } else p)

/-- JOIN_WINDOW_EXPIRY (R39). -/
def execJoinWindowExpiry (ply : Nat) (s : State) : Out :=
  .next (s.updPly ply fun p => if p.hold = some 0 then { p with hold := none } else p)

/-- STARVATION_LIMIT (R39, R87): S has reached 256; a join window holds the ply no longer, and it is chosen by age. -/
def execStarvationLimit (ply : Nat) (s : State) : Out :=
  .next (s.updPly ply fun p => if 256 ≤ p.starve then { p with hold := none } else p)

/-! ## Traps and CSRs -/

/-- TRAP and BKPT (R107, R127): a trap in the executing lanes, with TRAPPC the next instruction. As the last instruction of the code window
it is refused with ILLOP 0x01, since its lanes would go on there (DESIGN CHOICE, log entry 117). -/
def trapBody (code : Nat) (e : Env) (s : State) : Res := .trap s { Trap.plain code 0 e.exec with resume := some (nextPc e) }

/-- TRAP (R127). -/
def execTrap (f : Full) (s : State) : Out := issueFull (formTrap f) none (whenExec (trapBody (mf f 7 0))) f s
/-- BKPT (R127). -/
def execBkpt (f : Full) (s : State) : Out := issueFull (formBare f) none (whenExec (trapBody 0x10B)) f s

/-- ERET is refused outside a handler and over an entry that the handler opened (R101, R128), where TRAPPC lies in the code window: outside it is
the lower cause (R62). -/
def eretEarly : Env → State → Pre := refuseIf fun e s => inWindow (envCtx e s) e.p.csr.trappc.toNat && match e.p.hnd with
  | none => true
  | some h => !h.ents.isEmpty

/-- ERET (R128, R227). -/
def eretBody (e : Env) (s : State) : Res :=
  let t := e.p.csr.trappc
  if !inWindow (envCtx e s) t.toNat then .trap s (Trap.plain 0x100 1 e.act)
  else if t.toNat % 4 ≠ 0 then trapLanes 0x104 0 ((lanesOf e.act).map fun l => (l, t.toNat)) s
  else .moved (s.returnTrap e.pid)

/-- ERET (R227). -/
def execEret (f : Full) (s : State) : Out := issueJump (formRet f) eretEarly eretBody f s

/-- PLYST (R132). -/
def plystVal (pid : Nat) (p : Ply) : Nat :=
  b2n p.prod <<< 16 + plySlot pid <<< 8 + b2n (16 < p.depth) <<< 7 + (min 16 p.depth) <<< 2 + b2n p.yld <<< 1 + b2n p.hnd.isSome

/-- CNTR (R133). -/
def cntrVal (p : Ply) : Nat :=
  p.count .ld + p.count .st <<< 6 + p.count .cpy <<< 12 + p.count .mma <<< 18 + p.count .gth <<< 24 + p.count .net <<< 30

/-- DEFER (R134). -/
def deferVal (p : Ply) : Nat := b2n (p.conds.any fun c => c.code == 0x105) + 2 * b2n (p.conds.any fun c => c.code == 0x10A)

/-- The value of a CSR in a lane (R130 to R134, R339). -/
def csrVal (s : State) (e : Env) (n l : Nat) : Nat :=
  let c := envCtx e s
  let sk := match s.skeins.get e.p.skein with
    | some k => k.idx
    | none => 0
  match n with
  | 0x000 => e.p.csr.fpx.toNat
  | 0x001 => e.p.csr.rngseed.toNat
  | 0x002 => e.p.csr.rngctr.toNat
  | 0x010 => e.p.csr.trappc.toNat
  | 0x012 => e.p.csr.trapsrc.toNat
  | 0x014 => ((e.p.csr.trapva.get l).getD 0).toNat
  | 0x016 => e.p.csr.trapcode
  | 0x017 => e.p.csr.trapsub
  | 0x018 => e.p.csr.trapmask.toNat
  | 0x020 => spBase c sk (plyPart e.pid)
  | 0x022 => spLim c sk (plyPart e.pid)
  | 0x024 => codeBase c
  | 0x026 => pktHandler c
  | 0x030 => plystVal e.pid e.p
  | 0x032 => cntrVal e.p
  | 0x034 => deferVal e.p
  | 0x080 => ((s.remerr.get (remKey (plyCore e.pid) e.p.ctx)).getD 0).toNat
  | _ => 0

/-- Registers of a CSR. -/
def csrRegs (n : Nat) : Nat := match csrKind n with
  | some (true, _) => 2
  | _ => 1

/-- CSRR (R129). -/
def csrrDo (f : Full) (e : Env) (s : State) : State :=
  let n := mf f 11 0
  let ws (l : Nat) : List Word := toWords (csrRegs n) (csrVal s e n l)
  writeD s e f.d (ws (e.lanes.headD 0)) ws

/-- CSRR (R129). -/
def execCsrr (f : Full) (s : State) : Out := issueFull (formCsrr f) none (always (csrrDo f)) f s

/-- CSRW (R6, R7, R129, R339): read-only CSRs ignore the write. -/
def csrwDo (f : Full) (e : Env) (s : State) : State :=
  let n := mf f 11 0
  let v := opVal s e.pid e.p (e.lanes.headD 0) (csrRegs n = 2) .n32 0 f.a
  match n with
  | 0x000 => s.updPly e.pid fun p => { p with csr := { p.csr with fpx := fpxWrite (BitVec.ofNat 32 v) } }
  | 0x001 => s.updPly e.pid fun p => { p with csr := { p.csr with rngseed := BitVec.ofNat 32 v } }
  | 0x002 => s.updPly e.pid fun p => { p with csr := { p.csr with rngctr := BitVec.ofNat 32 v } }
  | 0x010 => s.updPly e.pid fun p => { p with csr := { p.csr with trappc := BitVec.ofNat 56 v } }
  | 0x080 =>
    let k := remKey (plyCore e.pid) e.p.ctx
    { s with remerr := s.remerr.upd k fun x => x &&& ~~~(BitVec.ofNat 64 (v &&& (3 <<< 62))) }
  | _ => s

/-- CSRW (R129). -/
def execCsrw (f : Full) (s : State) : Out := issueFull (formCsrw f) none (always (csrwDo f)) f s

end Sys2Proof.Machine
end

