-- ==== Sys2Proof/Machine/Engine.lean ====
section
/-! DEFINITION. What the engines share: reading and writing at the memory side (R214, R242), tensor identifiers and their caches
(R229 to R235), and transaction barriers at their homes (R19, R250 to R256). -/

namespace Sys2Proof.Machine

/-! ## Reading and writing at the memory side -/

/-- For whom an engine acts: the maker of its accesses, the context slot, the skein whose shared window it names, and the core. -/
structure Agent where
  who   : Who
  slot  : Nat
  skein : Nat
  core  : Nat
  kind  : Nat
  deriving DecidableEq, Repr

/-- What an engine's read finds: bytes, a failure with its subtype and its first failing address, a HOST line by its bus address, or a wait. -/
inductive EngGet where
  | ok (bytes : List Byte)
  | fail (sub va : Nat)
  | host (line : Nat)
  | wait
  deriving DecidableEq, Repr

/-- How an engine's write ends; a failure with its subtype and its first failing address. -/
inductive EngPut where
  | ok
  | fail (sub va : Nat)
  | wait
  deriving DecidableEq, Repr

/-- A skein is saved: its segments are away (R314). -/
def State.skeinAway (s : State) (skein : Nat) : Bool := (s.skeins.get skein).isNone && (s.saved.get skein).isSome

/-- A generic address lies in the shared window (R156). -/
def isShared (ga : Nat) : Bool := ga / 2 ^ 48 % 256 == 0x70

/-- The place an engine's address leads to; none where its segment is away. -/
def State.engPlace (s : State) (g : Agent) (ga : Nat) : Option Place :=
  if isShared ga && s.skeinAway g.skein then none else some (s.placeIn g.core g.skein g.slot ga)

/-- READ n bytes of one line for an engine (R214): from the home slice, the copy of local store that the address names, or the HOST
lines already fetched. A failure is recorded. -/
def State.engGet (s : State) (g : Agent) (host : Tbl Line) (ga n : Nat) : State × EngGet :=
  match s.engPlace g ga with
  | none => (s, .wait)
  | some (.loc c off) => match (s.seg (segKey c off)).st, s.lsRead (segBase (segKey c off) + off % 4096) n with
    | .t _, _ => (s, .wait)
    | .s, r => if s.replicaWaits g.core (segKey c off) (off % 4096 / 64) s.nextOp then (s, .wait) else match r with
      | some bs => (s, .ok bs)
      | none => (s, .fail 5 (ga + ((List.range n).find? fun i => s.lsBad (segBase (segKey c off) + off % 4096 + i) 1).getD 0))
    | _, some bs => (s, .ok bs)
    | _, none => (s, .fail 5 (ga + ((List.range n).find? fun i => s.lsBad (segBase (segKey c off) + off % 4096 + i) 1).getD 0))
  | some (.global va) =>
    if s.atBay g.who.asid (va / 64) then (s, .wait)
    else match s.home g.who (va / 64) .read with
      | (s, .ok x) => (s, .ok (lineSlice x (va % 64) n))
      | (s, .poison) => (s, .fail 5 ga)
      | (s, .host a) => match host.get a with
        | some x => (s, .ok (lineSlice x (va % 64) n))
        | none => (s, .host a)
      | (s, .fail c) => ((s.record g.who va c g.kind false).1, .fail 1 ga)
  | some _ => (s, .fail 1 ga)

/-- An engine's bytes for a segment of the other die cross the die link as an SPWR (R432): sent, awaited, or ended. -/
def State.engCross (s : State) (g : Agent) (c off : Nat) (ga : Nat) (bs : List Byte) : State × EngPut :=
  match s.dlReqs.findVal fun _ q => match q.use with
    | .bytes w a x _ => w == g.who && a == ga && x == bs
    | _ => false with
  | some (tag, q) => match q.use with
    | .bytes _ _ _ (some true) => ({ s with dlReqs := s.dlReqs.del tag }, .ok)
    | .bytes _ _ _ (some false) => ({ s with dlReqs := s.dlReqs.del tag }, .fail 1 ga)
    | _ => (s, .wait)
  | none =>
    let x := lineSlots (lineAt (off % 64) bs.length (leNat bs)) (byteSpan (off % 64) bs.length) 0
    (((s.dlAsk (3 * coreDie g.core + 1) (fun tag => dlMake 0 0x05 g.who.asid (scratchGa c (off / 64 * 64)) tag 1 true x)
      (.bytes g.who ga bs none)).map Prod.fst).getD s, .wait)

/-- WRITE bytes of one line for an engine (R214): at the home slice, behind the side log's entries of its line (R334), at the home segment,
or to the host. -/
def State.engPut (s : State) (g : Agent) (ga : Nat) (bs : List Byte) : State × EngPut :=
  match s.engPlace g ga with
  | none => (s, .wait)
  | some (.loc c off) => match s.segHome (segKey c off) with
    | none => (s, .wait)
    | some h => if s.dlLinked && coreDie g.core ≠ coreDie c then s.engCross g c off ga bs
      else (s.segWrite h (off % 4096 / 64) (lineAt (off % 64) bs.length (leNat bs)) (byteSpan (off % 64) bs.length) g.core, .ok)
  | some (.global va) =>
    let x := lineAt (va % 64) bs.length (leNat bs)
    let m := byteSpan (va % 64) bs.length
    let line := va / 64
    if s.shutOut g.who.asid line then (s, .wait)
    else match s.unitWaits g.who line m g.kind with
    | (s, true) => (s, .wait)
    | (s, false) => match s.home g.who line .write with
      | (s, .fail c) => ((s.record g.who va c g.kind false).1, .fail 1 ga)
      | (s, .host a) => (s.hostWrite a x m, .ok)
      | (s, _) => (s.mcPut g.who.asid line x m, .ok)
  | some _ => (s, .fail 1 ga)

/-- Read a run of bytes for an engine, line by line; the first failure ends it. -/
def State.engRead (s : State) (g : Agent) (host : Tbl Line) (ga n : Nat) : State × EngGet :=
  (pieces (ga % 2 ^ 56) n).foldl (fun (acc : State × EngGet) x => match acc.2 with
    | .ok bs => match acc.1.engGet g host ((x.1 * 64 + x.2.1) % 2 ^ 56) x.2.2 with
      | (t, .ok b) => (t, .ok (bs ++ b))
      | r => r
    | _ => acc) (s, .ok [])

/-- Write a run of bytes for an engine, line by line. -/
def State.engWrite (s : State) (g : Agent) (ga : Nat) (bs : List Byte) : State × EngPut :=
  (pieces (ga % 2 ^ 56) bs.length).foldl (fun (acc : State × EngPut) x => match acc.2 with
    | .ok =>
      let a := x.1 * 64 + x.2.1
      acc.1.engPut g (a % 2 ^ 56) ((bs.drop (a - ga % 2 ^ 56)).take x.2.2)
    | _ => acc) (s, .ok)

/-- The first address of a run that lies on a line of host memory. -/
def State.hostAt (s : State) (g : Agent) (ga n line : Nat) : Nat :=
  match (pieces (ga % 2 ^ 56) n).find? fun x => match s.home g.who x.1 .read with
    | (_, .host a) => a == line
    | _ => false with
  | some x => x.1 * 64 + x.2.1
  | none => ga % 2 ^ 56

/-- A shootdown for an ASID is pending: the oldest request of the queue is one (R341). -/
def State.shooting (s : State) (asid : Nat) : Bool := match s.shoot with
  | r :: _ => !shootBad r.toNat && fld r.toNat 11 0 == asid
  | [] => false

/-- Ask the host for a line for an engine: `use` says which engine, for which operation (R441). -/
def State.askHost (s : State) (use op line slot : Nat) : State :=
  (s.hostSend { use := .eng use op line, dev := 0, off := line, clock := none, core := 0, slot := slot, pid := 0, write := false,
                host := true } (fun n => .read n line 64)).1

/-- A ply's operation acts for its ply; `kind` is the KIND of R331. -/
def State.plyAgent (s : State) (pid uid skein slot kind : Nat) : Agent :=
  { who := { asid := s.slotAsid slot, slot := some slot, core := plyCore pid, part := plyPart pid, pslot := plySlot pid,
             uid := some uid, dev := 0, inb := false }
    slot := slot, skein := skein, core := plyCore pid, kind := kind }

/-- An agent that acts for the instruction at an offset of the code window (R422). -/
def Agent.at' (g : Agent) (off : Nat) : Agent := { g with who := { g.who with off := off } }

/-- An operation of an engine completes for a ply, resident or saved (R18, R313). -/
def State.engComplete (s : State) (uid op : Nat) : State := s.updUid (some uid) fun p => p.completeOp op
/-- An engine fault that the ply takes at a WAITC of the class (R109). -/
def State.engFault (s : State) (uid : Nat) (c : Cls) (sub va : Nat) : State :=
  s.updUid (some uid) fun p => { p with conds := p.conds ++ [{ kind := .engine c, code := 0x105, sub := sub, va := va }] }

/-! ## Tensor identifiers (R229 to R235) -/

/-- The bits of an element of an entry's format (R231). -/
def tidBits (e : Nat) : Nat := match tyOf (fld e 60 56) with
  | some t => tyBits t
  | none => 8
/-- RANK. -/
def tidRank (e : Nat) : Nat := fld e 63 61
/-- The extent of a dimension. -/
def tidDim (e k : Nat) : Nat := fld e (159 + 32 * k) (128 + 32 * k)
/-- The stride of a dimension in elements; dimension 0 is dense. -/
def tidStride (e k : Nat) : Nat := if k = 0 then 1 else fld e (287 + 32 * k) (256 + 32 * k)
/-- The layout expected of destination pages (R234). -/
def tidNl (e : Nat) : Nat := fld e 499 496
/-- TSCALE as it is used: 1.0 with TSEN 0. -/
def tidTscale (e : Nat) : Nat := if bit e 504 && bit e 505 then fld e 447 416 else 0x3F800000
/-- RCP as it is used. -/
def tidRcp (e : Nat) : Nat := if bit e 504 && bit e 505 then fld e 479 448 else 0x3F800000

/-- The checks of R232, but for VALID. -/
def tidChecks (e : Nat) : Bool :=
  let r := tidRank e
  let z := tidBits e
  1 ≤ r && r ≤ 5 && (tyOf (fld e 60 56)).isSome && ((List.range r).all fun k => 1 ≤ tidDim e k) &&
  (z < 8 || fld e 55 0 % (z / 8) == 0) &&
  (z != 4 || (tidDim e 0 % 2 == 0 && (List.range r).all fun k => k == 0 || tidStride e k % 2 == 0)) &&
  (!bit e 506 || (fld e 124 120 == 7 && fld e 495 480 == 32)) &&
  fld e 127 125 == 0 && fld e 503 500 == 0 && fld e 511 507 == 0
/-- A valid entry (R232). -/
def tidValid (e : Nat) : Bool := bit e 504 && tidChecks e

/-- The coordinates are in the tensor (R231). -/
def inTensor (e : Nat) (cs : List Nat) : Bool :=
  (cs.zipIdx).all fun c => if c.2 < tidRank e then c.1 < tidDim e c.2 else c.1 == 0
/-- The index of an element from BASE, in elements (R231). -/
def tidIndex (e : Nat) (cs : List Nat) : Nat :=
  ((cs.zipIdx.filter fun c => c.2 < tidRank e).map fun c => c.1 * tidStride e c.2).sum
/-- The address of the byte that holds an element (R231). -/
def tidAddr (e : Nat) (cs : List Nat) : Nat := (fld e 55 0 + tidIndex e cs * tidBits e / 8) % 2 ^ 56

/-- The units that keep a cache of entries (R229): copy engines, cores, matrix engines, the collective and the receive engine. -/
def unitCopy (quad : Nat) : Nat := quad
/-- A core's cache, for CVTS. -/
def unitCore (core : Nat) : Nat := 64 + core
/-- A matrix engine's cache. -/
def unitMatrix (part : Nat) : Nat := 256 + part
/-- The collective engine's cache. -/
def unitCol : Nat := 1024
/-- The receive engine's cache. -/
def unitRecv : Nat := 1025

/-- The key of a cached entry. -/
def tidKey (unit slot i : Nat) : Nat := (unit * 256 + slot) * 4096 + i % 4096
/-- The address of an entry in its context's table (R229). -/
def tidVa (c : Ctx) (i : Nat) : Nat := (pktTidt c + 64 * i) % 2 ^ 56
/-- Drop entries of a context from every cache. -/
def State.tidDrop (s : State) (slot : Nat) (ok : Nat → Bool) : State :=
  { s with tidc := s.tidc.filter fun e => !(e.1 / 4096 % 256 == slot && ok (e.1 % 4096)) }

/-- READ AN ENTRY (R229, R232, R235): from the unit's cache, else from the table; 0, which is invalid, where it cannot be fetched;
none while the line's side log holds the read. -/
def State.tidGet (s : State) (unit : Nat) (g : Agent) (i : Nat) : State × Option Nat :=
  match s.tidc.get (tidKey unit g.slot i) with
  | some e => (s, some e.toNat)
  | none =>
    let va := tidVa (s.ctx g.slot) i
    if 2 ^ 48 ≤ va then (s, some 0)
    else match s.engGet g [] va 64 with
      | (s, .ok bs) => ({ s with tidc := s.tidc.set (tidKey unit g.slot i) (lineOf bs) }, some (leNat bs))
      | (s, .wait) => (s, none)
      | (s, _) => (s, some 0)

/-! ## Transaction barriers -/

/-- How a ply's generic address names a barrier. -/
def State.tbRef (s : State) (pid : Nat) (p : Ply) (ga : Nat) : TbRef :=
  if isShared ga then TbRef.shared p.skein (ga % 2 ^ 48)
  else match s.placeOf pid p ga with
    | .global va => .global va
    | .loc c off => .scratch c off
    | _ => .bad ga

/-- Where an update finds its barrier: at a home, by a key and the segment with the byte offset in it; in global memory; with its
segment away or in transit; or nowhere (R255). -/
inductive TbAt where
  | seg (k off : Nat)
  | global (va : Nat)
  | wait
  | gone
  deriving DecidableEq, Repr

/-- Find the home of a barrier (R19, R314). -/
def State.tbFind (s : State) (slot : Nat) (r : TbRef) : TbAt :=
  let at' (k off : Nat) : TbAt := match s.segHome k with
    | some h => .seg h (off % 4096)
    | none => .wait
  match r with
  | .bad _ => .gone
  | .global va => .global va
  | .scratch c off => if (s.seg (segKey c off)).cond = .scratch slot then at' (segKey c off) off else .gone
  | .shared sk off =>
    if s.skeinAway sk then .wait
    else match s.skeins.get sk with
      | none => .gone
      | some k => match k.segs[off / 4096]? with
        | some n => at' (k.core * 512 + n) off
        | none => .gone

/-- The number of a home, by which updates of one clock are combined: the byte of local store, or 2^60 and ASID and VA above it; one number for
what has no home. -/
def tbKey (asid : Nat) : TbAt → Option Nat
  | .seg k off => some (segBase k + off)
  | .global va => some ((asid + 1) * 2 ^ 60 + va)
  | .wait => none
  | .gone => some (2 ^ 80)

/-- The scope of a barrier (R213), by its address. -/
def tbScope (ga : Nat) : Scope := match ga / 2 ^ 48 % 256 with
  | 0x70 => .core
  | 0x71 => .die
  | _ => .pkg

/-- SECT of R250. -/
def tbSect (b : Nat) : Int := sextInt 40 (fld b 103 64)

/-- UPDATE of R251 on the 16 bytes of a barrier, after ABT and ERR that the combined updates set; and whether the phase advanced. -/
def tbUpdate (b arr : Nat) (sect : Int) (abt err : Bool) : Nat × Bool :=
  let pend := fld b 63 32
  let past := pend < arr
  let a := if past then 0 else pend - arr
  let x := tbSect b + sect
  let wrap := x < -(2 ^ 39) || 2 ^ 39 ≤ x
  let s := wrapNat 40 x
  let adv := a = 0 && s = 0
  let ph := if adv then (fld b 3 0 + 1) % 16 else fld b 3 0
  (ph + b2n (bit b 4 || abt) <<< 4 + b2n (bit b 5 || err || past || wrap) <<< 5 + fld b 31 8 <<< 8
    + (if adv then fld b 31 8 else a) <<< 32 + s <<< 64, adv)

/-- TBINIT's 16 bytes (R252). -/
def tbInit (n : Nat) : Nat := n <<< 8 + n <<< 32

/-- Read a barrier at its home: its bits, or a failure; `wait` where a side log holds the line. -/
inductive TbGet where
  | ok (b : Nat)
  | fail (sub cause : Nat)
  | wait
  deriving DecidableEq, Repr

/-- READ A BARRIER for an access of a kind. A HOST page is an address fault (R255). Cause 0 is none of R330's. -/
def State.tbGet (s : State) (w : Who) (h : TbAt) (k : AccKind) : State × TbGet :=
  match h with
  | .wait => (s, .wait)
  | .gone => (s, .fail 1 0)
  | .seg g off => match s.lsRead (segBase g + off) 16 with
    | some bs => (s, .ok (leNat bs))
    | none => (s, .fail 5 0)
  | .global va =>
    if s.shutOut w.asid (va / 64) || (k != .write && s.logged w.asid (va / 64)) then (s, .wait)
    else match s.unitWaits w (va / 64) (byteSpan (va % 64) 16) 2 with
    | (s, true) => (s, .wait)
    | (s, false) => match s.home w (va / 64) k with
      | (s, .ok x) => (s, .ok (leNat (lineSlice x (va % 64) 16)))
      | (s, .poison) => (s, .fail 5 0)
      | (s, .host _) => (s, .fail 1 0)
      | (s, .fail c) => (s, .fail 1 c)

/-- Write a barrier that `tbGet` has reached. -/
def State.tbPut (s : State) (w : Who) (h : TbAt) (b : Nat) : State :=
  match h with
  | .seg g off => s.segWrite g (off / 64) (lineAt (off % 64) 16 b) (byteSpan (off % 64) 16) (g / 512)
  | .global va => s.mcPut w.asid (va / 64) (lineAt (va % 64) 16 b) (byteSpan (va % 64) 16)
  | _ => s

/-- The maker of an update. -/
def State.tbWho (s : State) (u : TbUpd) : Who :=
  { asid := s.slotAsid u.slot, slot := some u.slot, core := plyCore u.pid, part := plyPart u.pid, pslot := plySlot u.pid,
    uid := some u.uid, dev := 0, inb := false }

/-- The signals of a context that are parked for its saved segments (R314). -/
def State.parked (s : State) (slot : Nat) : Nat := (s.tbq.filter fun u => u.slot == slot && match u.ref with
  | .shared sk _ => s.skeinAway sk
  | _ => false).length
/-- The parking store of a context holds 4,096 signals: PFULL, and its MSI-X. A later signal waits at its engine, behind them (R314). -/
def State.parkCheck (s : State) (slot : Nat) : State :=
  if s.parked slot < 4096 || (s.ctx slot).pfull then s else (s.updCtx slot fun c => { c with pfull := true }).msix slot

/-- Put an update on its way; one aimed at a saved segment is parked (R314). -/
def State.tbPush (s : State) (u : TbUpd) : State :=
  let t := { s with tbq := s.tbq ++ [u] }
  match u.ref with
  | .shared sk _ => if s.skeinAway sk then t.parkCheck u.slot else t
  | _ => t

/-- Put an engine's update on its way: sectors, ABT, ERR (R17, R19). -/
def State.tbSend (s : State) (ref : TbRef) (slot pid uid : Nat) (sect : Int) (abt err : Bool) (eng : Option (Nat × Cls)) : State :=
  s.tbPush { ref := ref, slot := slot, pid := pid, uid := uid, init := none, arr := 0, sect := sect, abt := abt, err := err, req := none,
             eng := eng, held := none }

/-- An update that an instruction made is waiting behind an older access of its ply to the same bytes. -/
def State.tbBlocked (s : State) (u : TbUpd) : Bool := match u.req with
  | none => false
  | some op => match s.reqs.get op with
    | none => false
    | some r => r.parts.any fun q =>
        s.reqs.any fun e => e.1 < op && e.2.kind != .tb && e.2.skein == r.skein &&
          e.2.parts.any fun o => o.open' && (e.2.uid == r.uid || o.tid == q.tid) && s.overlap o.place o.n q.place q.n

/-- An update of a barrier in the other die's scratchpad that has not crossed the die link yet (R432): its core and byte. A TBINIT is no update
(R251). -/
def State.tbCross (s : State) (u : TbUpd) : Option (Nat × Nat) := match u.ref, s.tbFind u.slot u.ref with
  | .scratch c off, .seg _ _ =>
    if s.dlLinked && u.init.isNone && coreDie c ≠ coreDie (plyCore u.pid) && (u.link.map Prod.snd).getD false = false then some (c, off) else none
  | _, _ => none

/-- Send the updates of a home that are to cross the die link, each as a TBUPD (R430): arrivals in bits [31:0] of its slot, sectors in [71:32], ABT in
[72], ERR in [73] (DESIGN CHOICE, log entry 159). -/
def State.tbDepart (s : State) (key : Nat) : State :=
  s.tbq.zipIdx.foldl (fun s x => match s.tbCross x.1 with
    | some (c, off) =>
      if x.1.link.isSome || tbKey (s.slotAsid x.1.slot) (s.tbFind x.1.slot x.1.ref) != some key then s
      else
        let d := BitVec.ofNat 128 (x.1.arr % 2 ^ 32 + wrapNat 40 x.1.sect <<< 32 + b2n x.1.abt <<< 72 + b2n x.1.err <<< 73)
        match s.dlAsk (3 * coreDie (plyCore x.1.pid) + 1)
            (fun tag => dlMake 0 0x06 (s.slotAsid x.1.slot) (scratchGa c off) tag 0 true [d]) .update with
        | some (t, tag) => { t with tbq := t.tbq.zipIdx.map fun y => if y.2 = x.2 then { y.1 with link := some (tag, false) } else y.1 }
        | none => s
    | none => s) s

/-- The updates that a home can take now, with their places in the queue. The spec leaves open in which order updates of different agents
reach a home; they reach it in the order in which they were sent (DESIGN CHOICE, log entry 116). -/
def State.tbReady (s : State) (key : Nat) : List (TbUpd × Nat) :=
  s.tbq.zipIdx.filter fun u => u.1.held.isNone && !s.tbBlocked u.1 && (s.tbCross u.1).isNone
    && tbKey (s.slotAsid u.1.slot) (s.tbFind u.1.slot u.1.ref) == some key

/-- A gate's address as a barrier (R300). -/
def State.gateRef (s : State) (slot ga : Nat) : TbRef := match s.placeIn 0 0 slot ga with
  | .global va => .global va
  | .loc c off => if isShared ga then .bad ga else .scratch c off
  | _ => .bad ga

/-- A barrier's home reports the completion of a phase to the controllers whose entries it gates (R301). -/
def State.gateDue (s : State) (key : Nat) : State :=
  let hit (slot : Nat) (g : Nat × Nat) : Bool :=
    tbKey (s.slotAsid slot) (s.tbFind slot (s.gateRef slot g.1)) == some key
  let mark (slot : Nat) (x : DSlot) : DSlot := if x.st = .waiting && x.gates.any (hit slot) then { x with due := true } else x
  let deck (k : Nat) (d : Deck) : Deck := { d with slots := d.slots.mapVals fun _ x => mark (k / 64) x }
  { s with decks := s.decks.mapVals deck }

/-- Set the one part of a barrier instruction's request: performed or failed; then it completes or waits for delivery (R252, R253,
R255). -/
def State.tbDone (s : State) (u : TbUpd) (st : PSt) (va : Nat) : State :=
  match u.req with
  | none => match u.eng, st with
    | some (n, .net), _ => s.engComplete u.uid n
    | some (_, c), .bad sub => s.engFault u.uid c sub va
    | _, _ => s
  | some op => match s.reqs.get op with
    | none => s
    | some r =>
      if r.cls == .ld then s.setPSt op 0 st
      else
        let s := match st with
          | .bad sub => s.storeFault (some u.uid) sub va
          | _ => s
        (s.setPSt op 0 .fin).finishReq op

/-- Remove the entries of a list of places from the queue. -/
def tbDrop (q : List TbUpd) (is : List Nat) : List TbUpd := (q.zipIdx.filter fun x => !is.contains x.2).map Prod.fst

/-- The generic address of a barrier, for TRAPVA. -/
def tbGa (r : TbRef) : Nat := match r with
  | .shared _ off => 0x70 * 2 ^ 48 + off
  | .scratch c off => 0x71 * 2 ^ 48 + c / 96 * 2 ^ 32 + c % 96 * 2 ^ 24 + off
  | .global va => va
  | .bad ga => ga

/-- Before a barrier access of its core to global memory, the L1 gives up the barrier's line (R172); false where a side log is full. -/
def State.tbPurge (s : State) (w : Who) (h : TbAt) : State × Bool := match h with
  | .global va => s.l1Purge w.core w.asid (va / 64)
  | _ => (s, true)

/-- The same for every update that an instruction made, and room for their writes at the slice (R334). -/
def State.tbPurgeAll (s : State) (h : TbAt) (us : List TbUpd) : State × Bool :=
  let own := us.filter fun u => u.req.isSome
  let full := match h with
    | .global va => s.logFull (va / 64)
    | _ => false
  own.foldl (fun acc u => let (t, ok) := acc.1.tbPurge (acc.1.tbWho u) h; (t, acc.2 && ok)) (s, own.isEmpty || !full)

/-- COMBINED UPDATE AT A HOME (R19, R251, R252): TBINITs first, then one update with the sums. A refusal that firmware can answer
holds what instructions made; what engines made is dropped and recorded, also where the context no longer holds the segment (R255; its CAUSE
is NOMAP, log entry 132). -/
def State.tbApply (s : State) (us : List (TbUpd × Nat)) : State :=
  match us with
  | [] => s
  | (u, _) :: _ =>
    let w := s.tbWho u
    let h := s.tbFind u.slot u.ref
    let is := us.map Prod.snd
    let ups := (us.map Prod.fst).filter fun x => x.init.isNone
    let sum (f : TbUpd → Nat) : Nat := (ups.map f).sum
    let inits := us.filterMap fun x => x.1.init
    match s.tbPurgeAll h (us.map Prod.fst) with
    | (s, false) => s
    | (s, true) => match s.tbGet w h .write with
    | (s, .wait) => s
    | (s, .fail sub cause) =>
      if inits.isEmpty || sub = 1 then
        let serv := serviceable cause
        let eng := us.any fun x => x.1.req.isNone
        let (s, rid) := if cause ≠ 0 then s.record w (tbGa u.ref) cause 2 (serv && us.any fun x => x.1.req.isSome)
          else if eng && h = .gone then (us.foldl (fun s x =>
            if x.1.req.isNone then (s.record (s.tbWho x.1) (tbGa x.1.ref) 1 2 false).1 else s) s, 0) else (s, 0)
        let hold (x : TbUpd) : Bool := serv && x.req.isSome
        let k := sliceOf (tbGa u.ref)
        let q := s.tbq.zipIdx.map fun x => if is.contains x.2 && hold x.1 then { x.1 with held := some (k, rid) } else x.1
        let out := us.filter fun x => !hold x.1
        let s := { s with tbq := tbDrop q (out.map Prod.snd) }
        out.foldl (fun s x => s.tbDone x.1 (.bad sub) (tbGa x.1.ref)) s
      else
        let b := inits.foldl (fun _ n => tbInit n) 0
        let s := { (s.tbPut w h b) with tbq := tbDrop s.tbq ((us.filter fun x => x.1.init.isSome).map Prod.snd) }
        (us.filter fun x => x.1.init.isSome).foldl (fun s x => s.tbDone x.1 .fin 0) s
    | (s, .ok old) =>
      let b0 := inits.foldl (fun _ n => tbInit n) old
      let b := if ups.isEmpty then (b0, false)
        else tbUpdate b0 (sum TbUpd.arr) (ups.map TbUpd.sect).sum (ups.any TbUpd.abt) (ups.any TbUpd.err)
      let s := { (s.tbPut w h b.1) with tbq := tbDrop s.tbq is }
      let s := match b.2, tbKey w.asid h with
        | true, some k => s.gateDue k
        | _, _ => s
      us.foldl (fun s x => s.tbDone x.1 (match x.1.init with
        | some _ => .fin
        | none => .ready (leBytes 4 (b0 % 2 ^ 32))) 0) s

/-- BARRIER_UPDATE (R19, R251): the first `count` updates that have reached a home in one clock; the place is the home's number. Those from the other
die set out (R432). -/
def execBarrierUpdate (place count : Nat) (s : State) : Out :=
  let t := s.tbDepart place
  .next (t.tbApply ((t.tbReady place).take count))

/-! ## The barrier instructions (R252 to R255) -/

/-- MISALIGN of a barrier address (R255), in every executing lane. -/
def tbAligned (e : Env) (ga : Nat) (s : State) (k : Unit → Res) : Res :=
  if ga % 16 = 0 then k () else trapLanes 0x104 0 (e.lanes.map fun l => (l, ga)) s

/-- The barrier address in an s pair. -/
def tbAddr (s : State) (e : Env) (o : Operand) : Nat := sPairVal s e.p o % 2 ^ 56
/-- The scalar B of a barrier instruction. -/
def tbB (s : State) (e : Env) (f : Full) : Nat := opVal s e.pid e.p (e.lanes.headD 0) false .n32 0 f.b

/-- Issue an update from an instruction: the request, and the update on its way; an address that leads nowhere ends at once (R157,
R255). -/
def tbIssue (e : Env) (f : Full) (cls : Cls) (init : Option Nat) (arr : Nat) (sect : Int) (s : State) : Res :=
  let ga := tbAddr s e f.a
  let ref := s.tbRef e.pid e.p ga
  let place := s.placeOf e.pid e.p ga
  let part := { onePart e 16 .wait with ga := ga, place := match place with
    | .pod _ _ => .bad
    | x => x }
  let r := { newReq e .tb cls f (if cls == .ld then 1 else 0) true [part] with ty := .n32, n := 1, ord := .strong }
  let (t, op) := s.enter r
  let t := if cls == .ld then emptyD t e op f.d 1 else t
  let u : TbUpd := { ref := ref, slot := e.p.ctx, pid := e.pid, uid := e.p.uid, init := init, arr := arr, sect := sect, abt := false,
                     err := false, req := some op, eng := none, held := none }
  if part.place == .bad then .done (if cls == .ld then (t.setPSt op 0 (.bad 1)).deliver op part.lane else t.tbDone u (.bad 1) ga)
  else .done { t with tbq := t.tbq ++ [u] }

/-- The reload count that TBINIT refuses (R252). -/
def tbinitVals (f : Full) : Env → State → Pre := refuseVals [⟨f.b, 1, false⟩] fun e s => fld (tbB s e f) 31 24 != 0

/-- TBINIT (R252). -/
def tbinitBody (f : Full) (e : Env) (s : State) : Res :=
  tbAligned e (tbAddr s e f.a) s fun _ =>
    if s.acquiring e.p e.pid then .stall s else tbIssue e f .st (some (tbB s e f)) 0 0 s

/-- TBINIT (R252). -/
def execTbinit (f : Full) (s : State) : Out := issueFullPre (tbinitVals f) (formTbinit f) (some .st) (whenExec (tbinitBody f)) f s

/-- TBEXP (R253). -/
def tbexpBody (f : Full) (e : Env) (s : State) : Res :=
  tbAligned e (tbAddr s e f.a) s fun _ =>
    if s.acquiring e.p e.pid then .stall s else tbIssue e f .st none 0 (tbB s e f) s

/-- TBEXP (R253). -/
def execTbexp (f : Full) (s : State) : Out := issueFull (formTbinit f) (some .st) (whenExec (tbexpBody f)) f s

/-- The class of TBARR (R236). -/
def tbarrCls (f : Full) : Cls := if isS f.d then .ld else .st

/-- TBARR (R213, R253): a release at the barrier's scope. -/
def tbarrBody (f : Full) (e : Env) (s : State) : Res :=
  let ga := tbAddr s e f.a
  tbAligned e ga s fun _ =>
    if s.acquiring e.p e.pid then .stall s
    else releaseThen true (tbScope ga) e s fun s => tbIssue e f (tbarrCls f) none (tbB s e f) 0 s

/-- TBARR (R253). -/
def execTbarr (f : Full) (s : State) : Out := issueFull (formTbarr f) (some (tbarrCls f)) (whenExec (tbarrBody f)) f s

/-- The number of the request in which a ply's TBWAIT is held on a fault record (R255). -/
def State.tbHeld (s : State) (p : Ply) : Option (Nat × MReq) := s.reqs.findVal fun _ r => r.uns && r.uid == p.uid && r.kind == .tbtest

/-- TBWAIT ends with an address fault or poison (R255). -/
def tbwaitFail (f : Full) (e : Env) (sub : Nat) (s : State) : Res := match f.d with
  | .s n => .done (s.updS e.pid n fun r => r.put n { val := faultRecord sub (codeOff (s.ctx e.p.ctx) e.pc.toNat), st := .faulted, pend := none })
  | _ => .done (s.storeFault (some e.p.uid) sub (tbAddr s e f.a))

/-- An acquire from the home of a transaction barrier: one at `.core`, too, gives up the clean bytes of the L1, since what the barrier counted may
have been written at the home (R199, R213, DEDUCED, log entry 150). -/
def State.tbFresh (s : State) (core slot : Nat) : State := (s.l1Inval core (s.slotAsid slot)).hearAll core

/-- The last step of TBWAIT: an acquire at the barrier's scope, and the word of the test that passed (R254). -/
def tbwaitPass (f : Full) (e : Env) (b : Nat) (s : State) : Res :=
  let (id, t) := s.freshOp
  let t := writeD ((t.tbFresh (plyCore e.pid) e.p.ctx).acqBegin id e.pid (tbScope (tbAddr s e f.a)) false) e f.d [BitVec.ofNat 32 b] fun _ => []
  if t.acqDone id then .done t else waitSet e (.op id) t

/-- TBWAIT tests the barrier at its home (R254, R255). -/
def tbwaitTest (f : Full) (e : Env) (s : State) : Res :=
  let ga := tbAddr s e f.a
  let w := s.whoPly e.pid
  let wait (t : State) : Res := waitIn e (.redo 1) t
  let place := s.placeOf e.pid e.p ga
  let probe : MReq := newReq e .tbtest .ld f 0 true [{ onePart e 16 .wait with ga := ga, place := place }]
  if s.acquiring e.p e.pid then .stall s
  else if (match probe.parts with
    | q :: _ => s.blocked s.nextOp { probe with kind := .st } q
    | [] => false) then wait s
  else match s.tbPurge w (s.tbFind e.p.ctx (s.tbRef e.pid e.p ga)) with
  | (s, false) => wait s
  | (s, true) => match s.tbGet w (s.tbFind e.p.ctx (s.tbRef e.pid e.p ga)) .read with
    | (t, .wait) => wait t
    | (t, .ok b) => if fld b 3 0 = tbB s e f % 16 then wait t else tbwaitPass f e b t
    | (t, .fail sub c) =>
      if serviceable c then
        let (t, rid) := t.record w ga c 0 true
        let (n, t) := t.freshOp
        let q : MPart := { onePart e 16 (.held (sliceOf ga) rid) with ga := ga, place := place }
        wait { t with reqs := t.reqs.set n { probe with uns := true, parts := [q] } }
      else
        let t := if c = 0 then t else (t.record w ga c 0 false).1
        tbwaitFail f e sub t

/-- TBWAIT (R254). -/
def tbwaitBody (f : Full) (e : Env) (s : State) : Res :=
  match e.p.wait with
  | some (.op id) => if s.acqDone id then .done s else .stall s
  | _ => tbAligned e (tbAddr s e f.a) s fun _ =>
    match s.tbHeld e.p with
    | none => tbwaitTest f e s
    | some (n, r) => match r.parts with
      | q :: _ => match q.st with
        | .wait => tbwaitTest f e { s with reqs := s.reqs.del n }
        | .bad sub => tbwaitFail f e sub { s with reqs := s.reqs.del n }
        | _ => waitIn e (.redo 1) s
      | [] => tbwaitTest f e { s with reqs := s.reqs.del n }

/-- TBWAIT (R254). -/
def execTbwait (f : Full) (s : State) : Out := issueFull (formTbarr f) none (whenExec (tbwaitBody f)) f s

/-- TBTEST (R254): D is EMPTY until the read returns; the token goes with the request. -/
def tbtestBody (f : Full) (e : Env) (s : State) : Res :=
  let ga := tbAddr s e f.a
  tbAligned e ga s fun _ =>
    if s.acquiring e.p e.pid then .stall s
    else
      let place := match s.placeOf e.pid e.p ga with
        | .pod _ _ => Place.bad
        | x => x
      let q : MPart := { onePart e 16 .wait with ga := ga, place := place, data := tbB s e f % 16 }
      let r := { newReq e .tbtest .ld f 1 true [q] with ty := .n32, n := 1, ord := .acq, scope := tbScope ga }
      let (t, op) := s.enter r
      let t := emptyD t e op f.d 1
      let stop (t : State) : State := { t with reqs := t.reqs.upd op fun r => { r with ord := .strong } }
      .done (if place == .bad then ((stop t).setPSt op 0 (.bad 1)).deliver op q.lane else t)

/-- TBTEST (R254). -/
def execTbtest (f : Full) (s : State) : Out := issueFull (formTbtest f) (some .ld) (whenExec (tbtestBody f)) f s

/-- The read of a TBTEST at the barrier's home (R254, R255). -/
def State.tbtestTry (s : State) (op : Nat) (r : MReq) : State :=
  match r.parts with
  | [] => s
  | q :: _ =>
    if q.st != .wait || s.blocked op { r with kind := .st } q then s
    else
      let w := s.whoReq r
      let h := match q.place with
        | .global va => TbAt.global va
        | .loc c off => match s.segHome (segKey c off) with
          | some k => .seg k (off % 4096)
          | none => .wait
        | _ => .gone
      let weak (t : State) : State := { t with reqs := t.reqs.upd op fun r => { r with ord := .strong } }
      match s.tbPurge w h with
      | (s, false) => s
      | (s, true) => match s.tbGet w h .read with
      | (t, .wait) => t
      | (t, .ok b) =>
        let passed := fld b 3 0 != q.data
        let v := b % 2 ^ 32 - (b / 2 ^ 6 % 4) * 2 ^ 6 + b2n passed * 2 ^ 7
        (if passed then t.tbFresh (plyCore r.pid) r.slot else weak t).setPSt op 0 (.ready (leBytes 4 v))
      | (t, .fail sub c) => if c = 0 then (weak t).setPSt op 0 (.bad sub) else
          (if serviceable c then t else weak t).loadFault op 0 r q.ga c

end Sys2Proof.Machine
end

