-- ==== Sys2Proof/Machine/Cvts.lean ====
section
/-! DEFINITION. CVTS (R77, R148): scaled narrowing under a tensor identifier. -/

namespace Sys2Proof.Machine

/-- The block scale of a lane (R148): 1 but for E2M1 and SLUB4. -/
def cvtsScale (ty : Ty) (b : Nat) : FVal := match ty with
  | .e2m1 => decodeE8M0 (b % 256)
  | .slub4 => decodeE8M0 (b % 256)
  | _ => FVal.one

/-- The scaled input of an element (R77, R148): the exact quotient under EX, else the product with RCP over the block scale. -/
def cvtsIn (ex : Bool) (tscale rcp : Nat) (g : FVal) (x : Nat) : FVal × Flags :=
  if ex then
    let p := (f32 tscale).mul g
    (f32 x).div p.1
  else
    let p := (f32 x).mul (f32 rcp)
    let q := p.1.div g
    (q.1, p.2 ||| q.2)

/-- The packed result of CVTS from its scaled inputs (R69, R148). -/
def cvtsPack (ty : Ty) (r : RmSat) (sr : Nat → Nat) (ts : List (FVal × Flags)) : Nat × Flags :=
  if ty = .slub4 then
    (List.range (ts.length / 2)).foldl (fun acc k =>
      let a := (ts[2 * k]?).getD (FVal.zero false, 0)
      let b := (ts[2 * k + 1]?).getD (FVal.zero false, 0)
      let y := slub4EncodePair r.rm a.1 b.1
      (acc.1 + (y.1 + y.2.1 * 16) <<< (8 * k), acc.2 ||| y.2.2 ||| a.2 ||| b.2)) (0, 0)
  else
    ts.zipIdx.foldl (fun acc t =>
      let y := rndF ty r (sr t.2) t.1
      (acc.1 + y.1 <<< (tyBits ty * t.2), acc.2 ||| y.2)) (0, 0)

/-- The block exponent of B (R148): an inline floating-point constant is rounded to E8M0 (R23). -/
def cvtsB (f : Full) (b : Nat) : Nat := match f.b with
  | .fp i => inlineFor .e8m0 i
  | _ => b

/-- CVTS with the scales of the entry it read. -/
def cvtsDo (f : Full) (tscale rcp : Nat) (e : Env) (s : State) : State :=
  let ty := mTyD f
  aluDo (aluSr f) (fun i =>
    let g := cvtsScale ty (cvtsB f i.b)
    cvtsPack ty (rmSat f) i.sr ((List.range (cvtsN f)).map fun k => cvtsIn (mEx f) tscale rcp g (opWord s e i.l f.a k))) f e s

/-- CVTS (R148): the entry as it stands when CVTS issues; one that is not valid reads as 1.0. -/
def cvtsBody (f : Full) (e : Env) (s : State) : Res :=
  let g := s.plyAgent e.pid e.p.uid e.p.skein e.p.ctx 0
  match s.tidGet (unitCore (plyCore e.pid)) g (mf f 11 0) with
  | (t, none) => .stall t
  | (t, some x) =>
    if tidValid x then .done (cvtsDo f (tidTscale x) (tidRcp x) e t)
    else .done (cvtsDo f 0x3F800000 0x3F800000 e t)

/-- CVTS (R148). -/
def execCvts (f : Full) (s : State) : Out := issueFull (formCvts f) none (whenExec (cvtsBody f)) f s

end Sys2Proof.Machine
end

