-- ==== Sys2Proof/Machine/Probe.lean ====
section
/-! DEFINITION. The pre-probe (R234, R243) of copies, matrix operations, calls and messages: what it asks, its outcome, and the
instruction that waits in it. -/

namespace Sys2Proof.Machine

/-- The first address of each 4 KiB that a run touches. -/
def pageStarts (a n : Nat) : List Nat :=
  if n = 0 then []
  else (List.range ((a + n - 1) / 4096 - a / 4096 + 1)).map fun i => (if i = 0 then a else (a / 4096 + i) * 4096) % 2 ^ 56

/-- PROBE ONE ADDRESS (R234, R243): none, or the cause, 0 for an address that leads nowhere. `host` allows HOST pages; `nl` is what
a destination's layout must be. -/
def State.probeAt (s : State) (g : Agent) (ga : Nat) (write host : Bool) (nl : Nat) : State × Option Nat :=
  match s.engPlace g ga with
  | some (.loc _ _) => (s, none)
  | some (.global va) => match s.xlate g.who.asid va (if write then .write else .read) false with
    | (s, .fail c) => (s, some c)
    | (s, .ok l) =>
      if l.host then (s, if host then none else some 0)
      else if !s.ownerOk l (leafPhys l va) g.who.asid write then (s, some 3)
      else if nl ≠ 15 && l.nl ≠ nl then (s, some 7)
      else (s, none)
  | _ => (s, some 0)

/-- Probe a list of addresses: those that fail, with their causes. -/
def State.probeAll (s : State) (g : Agent) (xs : List ProbeAsk) : State × List (Nat × Nat) :=
  xs.foldl (fun (acc : State × List (Nat × Nat)) x => match acc.1.probeAt g x.ga x.write x.host x.nl with
    | (t, none) => (t, acc.2)
    | (t, some c) => (t, acc.2 ++ [(x.ga, c)])) (s, [])

/-- The lowest address of a list. -/
def lowest : List (Nat × Nat) → Nat
  | [] => 0
  | [x] => x.1
  | x :: xs => min x.1 (lowest xs)

/-- Record what a probe met, KIND 3, and whether a refusal is final, and on which records it waits (R243, R331, R333). -/
def State.probeRecord (s : State) (g : Agent) (xs : List (Nat × Nat)) : State × Bool × List (Nat × Nat) :=
  xs.foldl (fun (acc : State × Bool × List (Nat × Nat)) x =>
    let (t, fin, h) := acc
    if x.2 = 0 then (t, true, h)
    else
      let (t, rid) := t.record g.who x.1 x.2 3 (serviceable x.2)
      if serviceable x.2 then (t, fin, if h.contains (sliceOf x.1, rid) then h else h ++ [(sliceOf x.1, rid)])
      else (t, true, h)) (s, false, [])

/-- The generic address of a barrier for the probe. -/
def barAsks (b : Option TbRef) : List ProbeAsk := match b with
  | some r => [{ ga := tbGa r, write := true, host := false, nl := 15 }]
  | none => []

/-- The place of an operation in its class is taken when it issues; a probe's operation has a number from then on. -/
def probeStart (e : Env) (cls : Option Cls) (asks : List ProbeAsk) (what : ProbeFor) (s : State) : Res :=
  let (op, t) := s.freshOp
  let t := match cls with
    | some c => t.updPly e.pid fun p => p.issueOp op c
    | none => t
  let pr : Probe := { pid := e.pid, uid := e.p.uid, skein := e.p.skein, slot := e.p.ctx, asks := asks, ph := .going [], what := what }
  waitSet e (.op op) { t with probes := t.probes.set op pr }

/-- A precise ADDR trap of a probe: TRAPVA holds the lowest faulting address in every lane of Exec (R243). -/
def probeTrap (e : Env) (va : Nat) (s : State) : Res := trapLanes 0x105 1 (e.lanes.map fun l => (l, va)) s

/-- The instruction whose probe is under way goes on when it has passed and traps when it failed, leaving no trace (R241); `first`
are its first steps. -/
def probeAwait (e : Env) (s : State) (k : Nat → ProbeFor → State → Res) (first : State → Res) : Res :=
  match e.p.wait with
  | some (.op op) => match s.probes.get op with
    | none => .stall s
    | some pr =>
      let t := { s with probes := s.probes.del op }
      match pr.ph with
      | .passed => k op pr.what t
      | .failed va => probeTrap e va (t.updPly e.pid fun p => { p with ops := p.ops.filter fun o => o.id != op })
      | .going _ => .stall s
  | _ => first s

/-- A copy of two sectors into a launch window (R290): its slot. -/
def State.winCopy (s : State) (o : CopyOp) : Option Nat := match o.kind with
  | .cpy => if o.total = 2 && o.dstA % 64 = 0 && o.dstA < 2 ^ 48 then s.winSlot (s.slotAsid o.slot) o.dstA else none
  | _ => none

/-- What a probe need not ask: the destination of a copy into a launch window (R290). -/
def State.winAsk (s : State) (pr : Probe) (a : ProbeAsk) : Bool := match pr.what with
  | .copy o => a.write && a.ga == o.dstA && (s.winCopy o).isSome
  | _ => false

/-- COPY_PROBE_DONE (R243): the probe passes, fails, or is held on a fault record until firmware answers. -/
def execCopyProbeDone (op : Nat) (s : State) : Out :=
  match s.probes.get op with
  | none => .next s
  | some pr => match pr.ph with
    | .going [] =>
      let g := s.plyAgent pr.pid pr.uid pr.skein pr.slot 3
      let (t, bad) := s.probeAll g (pr.asks.filter fun a => !s.winAsk pr a)
      let set (t : State) (ph : ProbePh) : Out := .next { t with probes := t.probes.set op { pr with ph := ph } }
      if bad.isEmpty then set t .passed
      else
        let (t, fin, h) := t.probeRecord g bad
        set t (if fin || h.isEmpty then .failed (lowest bad) else .going h)
    | _ => .next s

/-- A probe is held on a record. -/
def ProbePh.on (p : ProbePh) (slice rid : Nat) : Bool := match p with
  | .going h => h.contains (slice, rid)
  | _ => false

/-- Firmware fails the record of a page that a probe is held on: the probe fails, at the lowest address that lies on the page or fails still
(R333, R336, R243). -/
def State.probeFail (s : State) (op page : Nat) (pr : Probe) : State :=
  let (t, bad) := s.probeAll (s.plyAgent pr.pid pr.uid pr.skein pr.slot 3) pr.asks
  let here := (pr.asks.filter fun a => a.ga / 65536 == page).map fun a => (a.ga, 0)
  { t with probes := t.probes.set op { pr with ph := .failed (lowest (here ++ bad)) } }

end Sys2Proof.Machine
end

