-- ==== Sys2Proof/Machine/Copy.lean ====
section
/-! DEFINITION. The copy engines (R228, R236 to R249): CPY, TCPY, TGATH, TSCAT, CPYF, TIDLD and TIDINV, their probes, the landing of
their data, and their completion. -/

namespace Sys2Proof.Machine

/-! ## The elements of an operation -/

/-- Elements of a row as the engine moves them: a pair of 4-bit elements moves as one byte. -/
def copyHalf (e : Nat) : Nat := if tidBits e = 4 then 2 else 1
/-- Bytes of a unit that moves at once. -/
def CopyOp.unit (o : CopyOp) : Nat := match o.kind with
  | .cpy => 32
  | .cpyf _ => 32
  | .tidld => 64
  | .tidinv => 64
  | _ => max 1 (tidBits o.srcE.toNat / 8)

/-- A word of the block. -/
def CopyOp.word (o : CopyOp) (i : Nat) : Nat := (o.block[i]?).getD 0

/-- Rk of R245. -/
def CopyOp.rank (o : CopyOp) : Nat := max (tidRank o.srcE.toNat) (tidRank o.dstE.toNat)

/-- The extents of a box in units (R245). -/
def CopyOp.extents (o : CopyOp) : List Nat :=
  (List.range 5).map fun k => if k < o.rank then (if k = 0 then o.word 10 / copyHalf o.srcE.toNat else o.word (10 + k)) else 1

/-- Units that the operation moves. -/
def CopyOp.units (o : CopyOp) : Nat := match o.kind with
  | .cpy => o.total
  | .cpyf _ => o.total
  | .tcpy => o.extents.foldl (fun a b => a * b) 1
  | .rows _ rs => o.word 2 / copyHalf o.srcE.toNat * rs.length
  | .tidld => o.total
  | .tidinv => o.total

/-- The mixed-radix digits of a number, the first the least significant. -/
def digits : List Nat → Nat → List Nat
  | [], _ => []
  | b :: bs, n => (if b = 0 then 0 else n % b) :: digits bs (if b = 0 then 0 else n / b)

/-- The source and destination coordinates of a unit (R245, R246). -/
def CopyOp.coords (o : CopyOp) (i : Nat) : List Nat × List Nat :=
  let h := copyHalf o.srcE.toNat
  match o.kind with
  | .tcpy =>
    let is := digits o.extents i
    let at' (k : Nat) : Nat := (is[k]?).getD 0 * (if k = 0 then h else 1)
    ((List.range 5).map fun k => o.word k + at' k, (List.range 5).map fun k => o.word (5 + k) + at' k)
  | .rows scatter rs =>
    let w := o.word 2 / h
    let c := if w = 0 then 0 else i % w * h
    let r := (rs[if w = 0 then 0 else i / w]?).getD (0, 0)
    let lane := o.word 3 + r.1
    if scatter then ([o.word 0 + c, lane, 0, 0, 0], [o.word 1 + c, r.2, 0, 0, 0])
    else ([o.word 0 + c, r.2, 0, 0, 0], [o.word 1 + c, lane, 0, 0, 0])
  | _ => ([], [])

/-- The address that a unit is read from, none where the element reads as 0. -/
def CopyOp.src (o : CopyOp) (i : Nat) : Option Nat := match o.kind with
  | .cpy => some ((o.srcA + 32 * i) % 2 ^ 56)
  | .cpyf _ => none
  | .tidld => some ((o.srcA + 64 * i) % 2 ^ 56)
  | .tidinv => none
  | _ => if inTensor o.srcE.toNat (o.coords i).1 then some (tidAddr o.srcE.toNat (o.coords i).1) else none

/-- The address that a unit is written to, none where it is skipped. -/
def CopyOp.tgt (o : CopyOp) (i : Nat) : Option Nat := match o.kind with
  | .cpy => some ((o.dstA + 32 * i) % 2 ^ 56)
  | .cpyf _ => some ((o.dstA + 32 * i) % 2 ^ 56)
  | .tidld => some ((o.dstA + 64 * i) % 2 ^ 56)
  | .tidinv => some ((o.dstA + 64 * i) % 2 ^ 56)
  | _ => if inTensor o.dstE.toNat (o.coords i).2 then some (tidAddr o.dstE.toNat (o.coords i).2) else none

/-- Units whose data completes a sector (R241). -/
def CopyOp.perSector (o : CopyOp) : Nat := match o.kind with
  | .tidld => 1
  | .tidinv => 1
  | _ => 32 / o.unit

/-! ## The probe (R243) -/

/-- The runs of bytes that a row of units covers: those of one outer index. -/
def CopyOp.rowLen (o : CopyOp) : Nat := match o.kind with
  | .tcpy => (o.extents.headD 1)
  | .rows _ _ => o.word 2 / copyHalf o.srcE.toNat
  | _ => o.units

/-- The run of units from unit i that an address function gives: in a row, the units in the tensor are the first ones. -/
def copyRun (f : Nat → Option Nat) (unit i n : Nat) : List (Nat × Nat) :=
  match f i with
  | none => []
  | some a => [(a, unit * ((List.range n).filter fun j => (f (i + j)).isSome).length)]

/-- The runs that an operation reads or writes, row by row. -/
def CopyOp.runs (o : CopyOp) (f : Nat → Option Nat) : List (Nat × Nat) :=
  let n := o.rowLen
  if n = 0 then [] else (List.range (o.units / n)).flatMap fun r => copyRun f o.unit (r * n) n

/-- What the probe of an operation asks (R234, R238, R239, R243). -/
def CopyOp.asks (o : CopyOp) : List ProbeAsk :=
  let nl := match o.kind with
    | .tcpy => tidNl o.dstE.toNat
    | .rows _ _ => tidNl o.dstE.toNat
    | _ => 15
  let table := match o.kind with
    | .tidld => true
    | .tidinv => true
    | _ => false
  let rd := (o.runs o.src).flatMap fun r => pageStarts r.1 r.2
  let wr := (o.runs o.tgt).flatMap fun r => pageStarts r.1 r.2
  rd.map (fun a => { ga := a, write := false, host := true, nl := 15 }) ++
  wr.map (fun a => { ga := a, write := true, host := !table, nl := nl }) ++ barAsks o.bar

/-- For whom a copy acts. -/
def State.copyAgent (s : State) (o : CopyOp) : Agent := (s.plyAgent o.pid o.uid o.skein o.slot 3).at' (codeOff (s.ctx o.slot) o.pc.toNat)

/-! ## Issue (R240, R241) -/

/-- The operation begins: its instruction retires (R241), and TIDLD's D becomes EMPTY. -/
def copyBegin (f : Full) (e : Env) (op : Nat) (o : CopyOp) (s : State) : Res :=
  let s := { s with copies := s.copies.set op o }
  .done (match o.kind with
    | .tidld => emptyD s e op f.d 1
    | _ => s)

/-- Issue an operation that its checks have passed: the release of R214, the count, the probe. -/
def copyIssue (e : Env) (o : CopyOp) (s : State) : Res :=
  if s.acquiring e.p e.pid then .stall s
  else releaseThen true .pkg e s fun t => probeStart e (some o.cls) o.asks (.copy o) t

/-- An operation as its ply issues it. -/
def copyNew (f : Full) (e : Env) (kind : CopyKind) (cls : Cls) : CopyOp :=
  { full := f, kind := kind, pid := e.pid, uid := e.p.uid, skein := e.p.skein, slot := e.p.ctx, core := plyCore e.pid, pc := e.pc, cls := cls,
    srcA := 0, dstA := 0, srcE := 0, dstE := 0, block := [], bar := none, dst := f.d, total := 0, done := 0, bad := 0,
    host := [], asked := [], lost := false }

/-- The instruction's own wait, or its first steps. -/
def copyStart (f : Full) (e : Env) (s : State) (k : State → Res) : Res :=
  probeAwait e s (fun op x t => match x with
    | .copy o => copyBegin f e op o t
    | _ => .stall t) k

/-- Producer rights (R240). -/
def producerThen (e : Env) (s : State) (k : Unit → Res) : Res := if e.p.prod then k () else trapExec e 0x101 0 s

/-- The barrier that a copy names, by NB (R236). -/
def copyBarGa (s : State) (e : Env) (f : Full) : Option Nat := if mNb f then none else some (sPairVal s e.p f.d % 2 ^ 56)
/-- Its reference. -/
def copyBar (s : State) (e : Env) (f : Full) : Option TbRef := (copyBarGa s e f).map fun ga => s.tbRef e.pid e.p ga

/-- MISALIGN in operand order (R244): each address with its alignment. -/
def alignAll (e : Env) (xs : List (Nat × Nat)) (s : State) (k : Unit → Res) : Res :=
  match xs.find? fun x => x.1 % x.2 ≠ 0 with
  | some x => trapLanes 0x104 0 (e.lanes.map fun l => (l, x.1)) s
  | none => k ()

/-- The barrier's alignment, where one is named. -/
def barAlign (s : State) (e : Env) (f : Full) : List (Nat × Nat) := match copyBarGa s e f with
  | some ga => [(ga, 16)]
  | none => []

/-- CPY (R244). -/
def cpyBody (f : Full) (e : Env) (s : State) : Res :=
  copyStart f e s fun s =>
    let d := sPairVal s e.p f.a % 2 ^ 56
    let a := sPairVal s e.p f.b % 2 ^ 56
    producerThen e s fun _ => alignAll e (barAlign s e f ++ [(d, 32), (a, 32)]) s fun _ =>
      copyIssue e { copyNew f e .cpy .cpy with srcA := a, dstA := d, bar := copyBar s e f, total := mf f 23 0 } s

/-- CPY (R244). -/
def execCpy (f : Full) (s : State) : Out := issueFull (formCpy f) (some .cpy) (whenExec (cpyBody f)) f s

/-- CPYF (R244). -/
def cpyfBody (f : Full) (e : Env) (s : State) : Res :=
  copyStart f e s fun s =>
    let d := sPairVal s e.p f.a % 2 ^ 56
    let w := opVal s e.pid e.p (e.lanes.headD 0) false .f32 0 f.b
    producerThen e s fun _ => alignAll e (barAlign s e f ++ [(d, 32)]) s fun _ =>
      copyIssue e { copyNew f e (.cpyf (BitVec.ofNat 32 w)) .cpy with dstA := d, bar := copyBar s e f, total := mf f 23 0 } s

/-- CPYF (R244). -/
def execCpyf (f : Full) (s : State) : Out := issueFull (formCpyf f) (some .cpy) (whenExec (cpyfBody f)) f s

/-- Read the two entries of a tensor copy (R235); none while one is held. -/
def State.tidPair (s : State) (e : Env) (f : Full) : State × Option (Nat × Nat) :=
  let g := s.plyAgent e.pid e.p.uid e.p.skein e.p.ctx 3
  let u := unitCopy (coreQuad (plyCore e.pid))
  match s.tidGet u g (mf f 23 12) with
  | (s, none) => (s, none)
  | (s, some a) => match s.tidGet u g (mf f 11 0) with
    | (s, none) => (s, none)
    | (s, some b) => (s, some (a, b))

/-- The size checks of R245 and R246 over the operands: even 4-bit origins and lengths, fewer than 2^38 bytes. -/
def sizeBad (a so d0 e0 : Nat) (count : Nat) : Bool :=
  (tidBits a = 4 && (e0 % 2 ≠ 0 || so % 2 ≠ 0 || d0 % 2 ≠ 0)) || 2 ^ 38 ≤ tidBits a * count / 8

/-- Sectors of B bytes (R241). -/
def sectorsOf (bits count : Nat) : Nat := (bits * count / 8 + 31) / 32

/-- What R245 and R246 refuse of the entries that a copy names, whatever its operands: one that is invalid (R235), unequal element
sizes, and for a row copy a rank below 2. It is taken before the registers (R61, R101). -/
def tidPairEarly (rows : Bool) (f : Full) (e : Env) (s : State) : Pre := match s.tidPair e f with
  | (t, none) => .stall t
  | (t, some (a, b)) =>
    if !tidValid a || !tidValid b || tidBits a ≠ tidBits b || (rows && (tidRank a < 2 || tidRank b < 2)) then .refuse else .go t

/-- The elements of a TCPY's box: the product of its extents below the rank (R245). -/
def tcpyCount (a b : Nat) (ws : List Nat) : Nat :=
  (List.range (max (tidRank a) (tidRank b))).foldl (fun acc k => acc * (ws[10 + k]?).getD 0) 1

/-- What R245 refuses of TCPY's block. -/
def tcpyVals (f : Full) : Env → State → Pre := refuseVals [⟨f.a, 15, false⟩] fun e s => match s.tidPair e f with
  | (t, some (a, b)) =>
    let ws := (sWords t e.p f.a 16).map BitVec.toNat
    sizeBad a (ws.headD 0) ((ws[5]?).getD 0) ((ws[10]?).getD 0) (tcpyCount a b ws)
  | _ => false

/-- What R246 refuses of a row copy's block. -/
def rowsVals (f : Full) : Env → State → Pre := refuseVals [⟨f.b, 3, false⟩] fun e s => match s.tidPair e f with
  | (t, some (a, _)) =>
    let ws := (sWords t e.p f.b 4).map BitVec.toNat
    let e0 := (ws[2]?).getD 0
    sizeBad a (ws.headD 0) ((ws[1]?).getD 0) e0 (e0 * (lanesOf (guardMask t e.p f.g e.act)).length)
  | _ => false

/-- TCPY (R245). -/
def tcpyBody (f : Full) (e : Env) (s : State) : Res :=
  copyStart f e s fun s => match s.tidPair e f with
    | (t, none) => .stall t
    | (t, some (a, b)) =>
      let ws := (sWords t e.p f.a 16).map BitVec.toNat
      producerThen e t fun _ => alignAll e (barAlign t e f) t fun _ =>
        copyIssue e { copyNew f e .tcpy .cpy with
          srcE := BitVec.ofNat 512 a, dstE := BitVec.ofNat 512 b, block := ws, bar := copyBar t e f
          total := sectorsOf (tidBits a) (tcpyCount a b ws) } t

/-- TCPY (R245). -/
def execTcpy (f : Full) (s : State) : Out := issueFullPre (preThen (tidPairEarly false f) (tcpyVals f)) (formTcpy f) (some .cpy) (whenExec (tcpyBody f)) f s

/-- TGATH and TSCAT (R246). -/
def rowsBody (scatter : Bool) (f : Full) (e : Env) (s : State) : Res :=
  copyStart f e s fun s => match s.tidPair e f with
    | (t, none) => .stall t
    | (t, some (a, b)) =>
      let ws := (sWords t e.p f.b 4).map BitVec.toNat
      let rs := e.lanes.map fun l => (l, opVal t e.pid e.p l false .n32 0 f.a)
      producerThen e t fun _ => alignAll e (barAlign t e f) t fun _ =>
        copyIssue e { copyNew f e (.rows scatter rs) .gth with
          srcE := BitVec.ofNat 512 a, dstE := BitVec.ofNat 512 b, block := ws, bar := copyBar t e f
          total := sectorsOf (tidBits a) ((ws[2]?).getD 0 * rs.length) } t

/-- TGATH (R246). -/
def execTgath (f : Full) (s : State) : Out := issueFullPre (preThen (tidPairEarly true f) (rowsVals f)) (formTgath f) (some .gth) (whenExec (rowsBody false f)) f s
/-- TSCAT (R246). -/
def execTscat (f : Full) (s : State) : Out := issueFullPre (preThen (tidPairEarly true f) (rowsVals f)) (formTgath f) (some .gth) (whenExec (rowsBody true f)) f s

/-- TIDLD (R238): any ply may issue it. -/
def tidldBody (f : Full) (e : Env) (s : State) : Res :=
  copyStart f e s fun s =>
    let a := sPairVal s e.p f.a % 2 ^ 56
    alignAll e [(a, 64)] s fun _ =>
      copyIssue e { copyNew f e .tidld .cpy with
        srcA := a, dstA := tidVa (s.ctx e.p.ctx) (mX f), block := [mX f], total := mY f + 1 } s

/-- TIDLD (R238). -/
def execTidld (f : Full) (s : State) : Out := issueFull (formTidld f) (some .cpy) (whenExec (tidldBody f)) f s

/-- TIDINV (R239). -/
def tidinvBody (f : Full) (e : Env) (s : State) : Res :=
  copyStart f e s fun s =>
    copyIssue e { copyNew f e .tidinv .cpy with dstA := tidVa (s.ctx e.p.ctx) (mX f), block := [mX f], total := mY f + 1 } s

/-- TIDINV (R239). -/
def execTidinv (f : Full) (s : State) : Out := issueFull (formTidinv f) (some .cpy) (whenExec (tidinvBody f)) f s

/-! ## Moving (R241, R247) -/

/-- The bytes of an entry that TIDLD writes from an image (R233, R238), and whether the image is counted. -/
def tidImage (x : Nat) : Line × Bool :=
  let rcp := (frootVal frcpVal rmSatDefault (fld x 447 416)).1
  let y := x - fld x 479 448 * 2 ^ 448 + rcp * 2 ^ 448
  if tidChecks x then (BitVec.ofNat 512 y, false)
  else (BitVec.ofNat 512 (y - b2n (bit y 504) * 2 ^ 504), bit x 504)

/-- How the moving of one unit ended. -/
inductive Moved where
  | ok (bad : Nat)
  | wait
  | host (line : Nat)
  | fail (sub va : Nat)
  deriving DecidableEq, Repr

/-- Write a unit's bytes. -/
def State.moveOut (s : State) (g : Agent) (d : Option Nat) (bs : List Byte) (bad : Nat) : State × Moved :=
  match d with
  | none => (s, .ok bad)
  | some a => match s.engWrite g a bs with
    | (s, .ok) => (s, .ok bad)
    | (s, .wait) => (s, .wait)
    | (s, .fail sub va) => (s, .fail sub va)

/-- MOVE ONE UNIT (R244 to R246, R238, R239). -/
def State.moveUnit (s : State) (o : CopyOp) (i : Nat) : State × Moved :=
  let g := s.copyAgent o
  let read (s : State) (a : Nat) (k : State → List Byte → State × Moved) : State × Moved :=
    match s.engRead g o.host a o.unit with
    | (s, .ok bs) => k s bs
    | (s, .wait) => (s, .wait)
    | (s, .host x) => (s, .host x)
    | (s, .fail sub va) => (s, .fail sub va)
  match o.kind with
  | .cpyf w => s.moveOut g (o.tgt i) ((List.replicate 8 (wordBytes w)).flatten) 0
  | .tidld => read s ((o.src i).getD 0) fun s bs =>
    let (x, bad) := tidImage (leNat bs)
    s.moveOut g (o.tgt i) (lineBytes x) (b2n bad)
  | .tidinv => read s ((o.tgt i).getD 0) fun s bs =>
    let x := leNat bs
    s.moveOut g (o.tgt i) (leBytes 64 (x - b2n (bit x 504) * 2 ^ 504)) 0
  | _ => match o.src i with
    | none => s.moveOut g (o.tgt i) (List.replicate o.unit 0) 0
    | some a => read s a fun s bs => s.moveOut g (o.tgt i) bs 0

/-- Move units from `o.done` of the operation, at most n, until one waits or fails. For the operations that move elements `done`
counts units until the sectors are settled. -/
def State.moveUnits (s : State) (o : CopyOp) : Nat → Nat → State × Nat × Nat × Moved
  | 0, i => (s, i, 0, .ok 0)
  | n + 1, i => match s.moveUnit o i with
    | (s, .ok b) =>
      let (s, j, c, r) := State.moveUnits s o n (i + 1)
      (s, j, b + c, r)
    | (s, r) => (s, i, 0, r)

/-- The sectors that have landed when n units have moved (R241). -/
def CopyOp.landed (o : CopyOp) (n : Nat) : Nat := if o.units ≤ n then o.total else n / o.perSector

/-- Decrement the operation's barrier by sectors (R241). -/
def State.copyDecr (s : State) (op : Nat) (o : CopyOp) (n : Nat) (err : Bool) : State :=
  match o.bar with
  | none => s
  | some r => if n = 0 && !err then s else s.tbSend r o.slot o.pid o.uid (-(n : Int)) false err (some (op, o.cls))

/-- The operation goes on without data (R247): ERR, the remaining decrements, and the deferred condition of its class. -/
def State.copyLost (s : State) (op : Nat) (o : CopyOp) (sub va : Nat) : State :=
  let s := { s with copies := s.copies.set op { o with done := o.units, lost := true } }
  (s.copyDecr op o (o.total - o.landed o.done) true).engFault o.uid o.cls sub va

/-- A copy of which the engine has read no byte (R311). -/
def CopyOp.unread (o : CopyOp) : Bool := o.done == 0 && o.asked.isEmpty && !o.lost

/-- The address of the last unit before a number that has one. -/
def addrBefore (f : Nat → Option Nat) : Nat → Option Nat
  | 0 => none
  | i + 1 => match f i with
    | some a => some a
    | none => addrBefore f i
/-- A unit lies on another page than the last one before it that has an address; pages are judged by their least size (log entry 133). -/
def pageCross (f : Nat → Option Nat) (i : Nat) : Bool := match f i, addrBefore f i with
  | some x, some y => x / 65536 != y / 65536
  | _, _ => false
/-- Before unit i the operation stands at a page boundary of an operand (R247): at its start, at its end, or where the next unit lies on another
page than the one before. -/
def CopyOp.atEdge (o : CopyOp) (i : Nat) : Bool :=
  i == 0 || o.units ≤ i || pageCross o.src i || pageCross o.tgt i
/-- The unit up to which an operation goes on, at most `goal`: while a shootdown for its ASID is pending it stops at its next page boundary
(R247, R341). -/
def State.copyGoal (s : State) (o : CopyOp) (goal : Nat) : Nat :=
  if s.shooting (s.slotAsid o.slot) then ((List.range (goal - o.done)).map fun i => o.done + i).find? o.atEdge |>.getD goal else goal
/-- The operation has paused: it is at a page boundary, or its next unit waits at a slice, which only firmware can end. -/
def State.copyPaused (s : State) (o : CopyOp) : Bool :=
  let stuck (a : Option Nat) : Bool := match a with
    | some ga => ga < 2 ^ 48 && s.atBay (s.slotAsid o.slot) (ga / 64)
    | none => false
  o.lost || o.atEdge o.done || stuck (o.src o.done) || stuck (o.tgt o.done)

/-- A copy into a launch window delivers its 64 bytes as one write (R290): the launch window's write stands first on the agenda. -/
def State.winMove (s : State) (op slot : Nat) (o : CopyOp) : State × Moved :=
  match s.engRead (s.copyAgent o) o.host o.srcA 64 with
  | (s, .ok bs) => ({ s with agenda := .event (.launchPacketWrite slot bs) :: s.agenda, copies := s.copies.set op { o with done := 2 } }.copyDecr op o 2 false,
      .ok 0)
  | (s, .wait) => (s, .wait)
  | (s, .host x) => (s, .host x)
  | (s, .fail sub va) => (s, .fail sub va)

/-- COPY_DATA_LANDS (R241, R245 to R247): data of up to `sectors` more sectors lands, and the barrier is decremented. One whose
first byte has not been read waits while its context is being saved or is saved (R311). `done` counts units. -/
def execCopyDataLands (op sectors : Nat) (s : State) : Out :=
  match s.copies.get op with
  | none => .next s
  | some o =>
    let st := (s.ctx o.slot).st
    let stop (t : State) (o' : CopyOp) (r : Moved) : Out := match r with
      | .ok _ => .next t
      | .wait => .next t
      | .host x => if o.asked.contains x then .next t else
          .next ({ t with copies := t.copies.set op { o' with asked := o.asked ++ [x] } }.askHost 3 op x o.slot)
      | .fail sub va => .next (t.copyLost op o' sub va)
    if o.lost || o.units ≤ o.done || (s.skeins.get o.skein).isNone || (o.unread && st != .running) then .next s
    else match s.winCopy o with
    | some slot => if s.shooting (s.slotAsid o.slot) then .next s else let (t, r) := s.winMove op slot o; stop t o r
    | none =>
      let goal := s.copyGoal o (min o.units ((o.landed o.done + sectors) * o.perSector))
      let (t, i, bad, r) := s.moveUnits o (goal - o.done) o.done
      let o' := { o with done := i, bad := o.bad + bad }
      let t := { t with copies := t.copies.set op o' }
      let t := t.copyDecr op o (o'.landed i - o.landed o.done) false
      stop t o' r

/-- A barrier update that an operation owes is still to be performed (R228). -/
def State.tbOwes (s : State) (op : Nat) : Bool := s.tbq.any fun u => match u.eng with
  | some (n, _) => n == op
  | none => false

/-- COPY_COMPLETE (R228, R238, R239): every byte has been performed and every decrement applied. -/
def execCopyComplete (op : Nat) (s : State) : Out :=
  match s.copies.get op with
  | none => .next s
  | some o =>
    if o.done < o.units || s.tbOwes op || (s.skeins.get o.skein).isNone then .next s
    else
      let s := { s with copies := s.copies.del op }
      let drop (s : State) : State := s.tidDrop o.slot fun i => o.word 0 ≤ i && i < o.word 0 + o.total
      let s := match o.kind with
        | .tidld => match o.dst with
          | .s n => (drop s).arriveS o.pid op n [BitVec.ofNat 32 o.bad]
          | _ => drop s
        | .tidinv => drop s
        | _ => s
      .next (s.engComplete o.uid op)

/-- A line of host memory arrives for a copy (R441): its data, or a failure. -/
def State.copyHost (s : State) (op line : Nat) (x : Reply) : State :=
  match s.copies.get op with
  | none => s
  | some o => match x with
    | .data bs => { s with copies := s.copies.set op { o with host := o.host.set line (lineOf bs) } }
    | .fail sub _ => if o.lost then s else s.copyLost op o sub (s.hostAt (s.copyAgent o) ((o.src o.done).getD 0) o.unit line)
    | .ack => s

end Sys2Proof.Machine
end

