-- ==== Sys2Proof/Machine/Matrix.lean ====
section
/-! DEFINITION. The matrix engines and accumulator memory (R257 to R286): tiles and their allocation, MMA and MMAZ, ACCZERO, ACCLD,
ACCST, ACCMOV, ACCFILL, the row operations, lent registers, completion, and the shadow check. -/

namespace Sys2Proof.Machine

/-! ## Tiles -/

/-- The key of a row of a tile: partition key, tile, row. -/
def tileKey (part tile r : Nat) : Nat := (part * 16 + tile) * 64 + r
/-- A row of a tile; one not listed is +0 in every element. -/
def State.tileRow (s : State) (part tile r : Nat) : List Word := (s.tiles.get (tileKey part tile r)).getD (List.replicate 64 0)
/-- Write a row of a tile; a row of zeros is not listed. -/
def State.setRow (s : State) (part tile r : Nat) (x : List Word) : State :=
  { s with tiles := if x.all (· == 0) then s.tiles.del (tileKey part tile r) else s.tiles.set (tileKey part tile r) x }
/-- Set tiles to +0 (R259). -/
def State.clearTiles (s : State) (part tile n : Nat) : State :=
  { s with tiles := s.tiles.filter fun e => e.1 < tileKey part tile 0 || tileKey part (tile + n) 0 ≤ e.1 }

/-- The tiles a skein holds on a partition of its core (R258). -/
def Skein.held (k : Skein) (part : Nat) : List Nat := (k.tiles.get (part % 4)).getD []
/-- The tiles a skein holds on a partition. -/
def State.heldBy (s : State) (skein part : Nat) : List Nat := match s.skeins.get skein with
  | some k => k.held part
  | none => []
/-- An ACCFREE still waits for an operation, in its unit or in its probe (R263). -/
def State.freeing (s : State) (f : AccFree) : Bool := f.ops.any fun op => (s.mats.get op).isSome || (s.probes.get op).isSome
/-- A tile is free (R261): no skein holds it, and no ACCFREE waits to release it. -/
def State.tileFree (s : State) (part t : Nat) : Bool :=
  !(s.skeins.any fun e => e.2.core == part / 4 && (e.2.held part).contains t) &&
  !(s.accFree.any fun f => f.part == part && f.tile == t && s.freeing f)
/-- The lowest-numbered run of n free tiles (R260). -/
def State.freeRun (s : State) (part n : Nat) : Option Nat :=
  (List.range (17 - n)).find? fun b => (List.range n).all fun i => s.tileFree part (b + i)
/-- The longest run of free tiles. -/
def State.longestRun (s : State) (part : Nat) : Nat :=
  ((List.range 17).filter fun n => n = 0 || (s.freeRun part n).isSome).foldl max 0

/-- The `.acc` value of a skein's context. -/
def State.accLimit (s : State) (skein : Nat) : Nat := match s.skeins.get skein with
  | some k => pktAcc (s.ctx k.ctx)
  | none => 0

/-- Grant n tiles from a base to a skein (R259). -/
def State.grantAt (s : State) (skein part base n : Nat) : State :=
  (s.clearTiles part base n).updSkein skein fun k =>
    { k with tiles := k.tiles.set (part % 4) (sortBy id (k.held part ++ (List.range n).map fun i => base + i)) }

/-- A waiting request fits now: a run of free tiles, within the skein's limit (R258, R261). -/
def State.accFits (s : State) (r : AccReq) : Option Nat :=
  if s.accLimit r.skein < (s.heldBy r.skein r.part).length + r.n then none else s.freeRun r.part r.n

/-- GRANT (R261): the waiting requests of a partition, in the order they began to wait, each that fits. -/
def State.grantTiles (s : State) (part : Nat) : State :=
  (s.accWait.filter fun e => e.2.part == part && e.2.res.isNone).foldl (fun s e => match s.accFits e.2 with
    | some b => { (s.grantAt e.2.skein part b e.2.n) with accWait := s.accWait.set e.1 { e.2 with res := some b } }
    | none => s) s

/-- TILE_GRANT (R261). -/
def execTileGrant (part : Nat) (s : State) : Out := .next (s.grantTiles part)

/-- The condition of R262 that the allocator calls a deadlock. -/
def State.accDead (s : State) (part : Nat) : Bool :=
  let ws := (s.accWait.filter fun e => e.2.part == part && e.2.res.isNone).map Prod.snd
  match ws.map AccReq.n with
  | [] => false
  | n :: ns => ws.all (fun r => !(s.heldBy r.skein part).isEmpty) && s.longestRun part < ns.foldl min n &&
      !(s.accFree.any fun f => f.part == part && s.freeing f)

/-- Keep, for each partition, the clock since which the condition of R262 has held. -/
def State.watchAcc (s : State) : State :=
  let parts := (s.accWait.map fun e => e.2.part).eraseDups
  let t := parts.filter s.accDead
  { s with accSince := (t.foldl (fun (x : Tbl Nat) p => x.set p ((s.accSince.get p).getD s.clock)) []) }

/-- The youngest waiter (R262): of the skein placed last, the ply with the highest `ply`. -/
def State.youngest (s : State) (part : Nat) : Option (Nat × AccReq) :=
  let ws := s.accWait.filter fun e => e.2.part == part && e.2.res.isNone
  let rank (e : Nat × AccReq) : Nat :=
    (match s.skeins.get e.2.skein with
      | some k => k.order
      | none => 0) * 2 ^ 20 + (match s.ply? e.2.pid with
      | some p => p.idx
      | none => 0)
  ws.foldl (fun best e => match best with
    | none => some e
    | some b => if rank b < rank e then some e else some b) none

/-- ACC_DEADLOCK_TIMEOUT (R262): the condition has held for 256 clocks; the youngest waiter fails. -/
def execAccDeadlockTimeout (part : Nat) (s : State) : Out :=
  match s.accSince.get part, s.youngest part with
  | some c, some (id, r) =>
    if s.accDead part && c + 256 ≤ s.clock then
      .next { s with accWait := s.accWait.set id { r with res := some 0x100 }, accSince := s.accSince.del part }
    else .next s
  | _, _ => .next s

/-! ## Checks (R264) -/

/-- ACC: the tile of M[15:12] (R265). -/
def mTile (f : Full) : Nat := mf f 15 12
/-- A trap for accumulator misuse, in every lane of Exec (R264). -/
def accTrap (e : Env) (sub : Nat) (s : State) : Res := trapExec e 0x108 sub s
/-- The issuing skein holds every tile of a list. -/
def holdsAll (e : Env) (s : State) (ts : List Nat) : Bool := ts.all fun t => (s.heldBy e.p.skein (plyPartKey e.pid)).contains t
/-- Tiles named must be held (R264). -/
def heldThen (e : Env) (ts : List Nat) (s : State) (k : Unit → Res) : Res := if holdsAll e s ts then k () else accTrap e 1 s

/-! ## Allocation (R260 to R263) -/

/-- The result of an ACCALLOC. -/
def accallocEnd (f : Full) (e : Env) (v : Nat) (s : State) : Res := .done (writeD s e f.d [BitVec.ofNat 32 v] fun _ => [])

/-- ACCALLOC (R260, R261): `try` settles at issue. -/
def accallocBody (try' : Bool) (f : Full) (e : Env) (s : State) : Res :=
  let part := plyPartKey e.pid
  let n := mf f 4 0
  let wait (s : State) : Res :=
    let (id, t) := s.freshOp
    let r : AccReq := { pid := e.pid, uid := e.p.uid, skein := e.p.skein, slot := e.p.ctx, part := part, n := n, res := none }
    match (t.accFits r) with
    | some b => accallocEnd f e b (t.grantAt e.p.skein part b n)
    | none => if try' then accallocEnd f e 0x101 t else waitSet e (.op id) { t with accWait := t.accWait.set id r }
  match e.p.wait with
  | some (.op id) => match s.accWait.get id with
    | none => .stall s
    | some r => match r.res with
      | none => .stall s
      | some v => accallocEnd f e v { s with accWait := s.accWait.del id }
  | _ =>
    if s.accLimit e.p.skein < (s.heldBy e.p.skein part).length + n then accTrap e 2 s
    else wait (s.grantTiles part)

/-- ACCALLOC (R260). -/
def execAccalloc (f : Full) (s : State) : Out := issueFull (formAccalloc f) none (whenExec (accallocBody false f)) f s
/-- ACCALLOC `.try` (R260). -/
def execAccallocTry (f : Full) (s : State) : Out := issueFull (formAccalloc f) none (whenExec (accallocBody true f)) f s

/-- The tiles that an operation names. -/
def MatOp.names (o : MatOp) : List Nat :=
  (List.range o.nt).map (fun i => o.tile + i) ++ match o.kind with
    | .mma _ _ _ _ (.aacc t _) _ => [t]
    | _ => []
/-- The tiles that an operation writes. -/
def MatOp.writes (o : MatOp) : List Nat := match o.kind with
  | .store .. => []
  | .mov .. => []
  | .rmax => []
  | .rsum => []
  | _ => (List.range o.nt).map fun i => o.tile + i
/-- The operation still names its tiles. -/
def MatOp.live (o : MatOp) : Bool := o.stage == 0

/-- The operations of a partition that name a tile of a list, in their units or in their probes. -/
def State.namers (s : State) (part : Nat) (ts : List Nat) : List Nat :=
  (s.mats.filter fun o => o.2.part == part && ts.any fun t => o.2.names.contains t).map Prod.fst ++
  (s.probes.filter fun x => match x.2.what with
    | .mat o => o.part == part && ts.any fun t => o.names.contains t
    | _ => false).map Prod.fst

/-- ACCFREE (R263): the tiles leave the holding now, and are free together when every operation that names any of them has completed. -/
def accfreeDo (f : Full) (e : Env) (s : State) : State :=
  let part := plyPartKey e.pid
  let ts := (List.range (mf f 4 0)).map fun i => mTile f + i
  let s := s.updSkein e.p.skein fun k => { k with tiles := k.tiles.set (part % 4) ((k.held part).filter fun t => !ts.contains t) }
  let ops := s.namers part ts
  (if ops.isEmpty then s else { s with accFree := s.accFree ++ ts.map fun t => { part := part, tile := t, ops := ops } }).grantTiles part

/-- ACCFREE (R263). -/
def accfreeBody (f : Full) (e : Env) (s : State) : Res :=
  if holdsAll e s ((List.range (mf f 4 0)).map fun i => mTile f + i) then .done (accfreeDo f e s) else accTrap e 3 s

/-- ACCFREE (R263). -/
def execAccfree (f : Full) (s : State) : Out := issueFull (formAcczero f) none (whenExec (accfreeBody f)) f s

/-! ## Issue of an operation -/

/-- The rows that Exec owns (R257), each with the register words its lane supplies: `words j` gives the first register and the count
of row j. -/
def ownedRows (s : State) (e : Env) (words : Nat → Nat × Nat) : List MatRow :=
  (e.p.threadsOf e.exec).flatMap fun x => (List.range (64 / e.p.width)).map fun j =>
    { lane := x.1, tid := x.2, r := x.1 + j * e.p.width, j := j
      vals := (List.range (words j).2).map fun i => BitVec.ofNat 32 (vWord s e.p x.1 ((words j).1 + i)) }

/-- A v operand's number. -/
def vNum : Operand → Nat
  | .v n => n
  | _ => 0

/-- Lend registers of every executing lane to an operation (R276). -/
def State.lend (s : State) (e : Env) (op first n : Nat) : State :=
  if n = 0 then s
  else { s with lent := s.lent ++ (e.p.threadsOf e.exec).map fun x =>
    { op := op, skein := e.p.skein, tid := x.2, reg := first, n := n } }

/-- An operation as its ply issues it. -/
def matNew (e : Env) (f : Full) (kind : MatKind) (nt : Nat) (rows : List MatRow) (dn : Nat) : MatOp :=
  { kind := kind, pid := e.pid, uid := e.p.uid, skein := e.p.skein, slot := e.p.ctx, part := plyPartKey e.pid, pc := e.pc, seq := 0,
    tile := mTile f, nt := nt, rows := rows, dst := vNum f.d, dn := dn, done := 0, stage := 0, lost := false, host := [], asked := [] }

/-- The operation enters its unit: its place in the partition's order, which is that of issue, its lent registers, its EMPTY destinations (R267, R276, R283). -/
def matEnter (e : Env) (f : Full) (op : Nat) (o : MatOp) (lendAt lendN : Nat) (s : State) : State :=
  let s := { s with mats := s.mats.set op { o with seq := op } }
  let s := s.lend e op lendAt lendN
  if o.dn = 0 then s else emptyD s e op f.d o.dn

/-- Issue an operation that has no probe: it counts in `cl.mma`. -/
def matIssue (e : Env) (f : Full) (o : MatOp) (lendAt lendN : Nat) (s : State) : Res :=
  let (op, t) := s.freshOp
  .done (matEnter e f op o lendAt lendN (t.updPly e.pid fun p => p.issueOp op .mma))

/-! ## MMA (R270 to R275) -/

/-- The type of a format code FM (R265). -/
def fmTy (fm : Nat) : Ty := match fm with
  | 0 => .e4m3 | 1 => .e5m2 | 2 => .bf16 | 3 => .f16 | 4 => .e2m1 | 5 => .slub4 | _ => .f32

/-- Bytes of an operand in local store (R271). -/
def matBytes (fm k : Nat) (sc : Bool) : Nat := 64 * k * tyBits (fmTy fm) / 8 + if sc then 64 * ((k + 31) / 32) else 0

/-- The first address of an operand range that local store of the issuing core does not hold (R270). -/
def State.localBad (s : State) (e : Env) (ga n : Nat) : Option Nat :=
  (pageStarts ga n).find? fun a => match s.placeOf e.pid e.p a with
    | .loc c _ => c != plyCore e.pid
    | _ => true

/-- The checks of an operand in local store, given as address and length (R270): alignment first, then ADDR after the ACC checks. -/
def localAlign (e : Env) (xs : List (Nat × Nat)) (s : State) (k : Unit → Res) : Res := alignAll e (xs.map fun x => (x.1, 64)) s k
/-- ADDR of operands outside the core's local store: the lowest failing address (R270). -/
def localThen (e : Env) (xs : List (Nat × Nat)) (s : State) (k : Unit → Res) : Res :=
  match xs.filterMap fun x => (s.localBad e x.1 x.2).map fun a => (a, 0) with
  | [] => k ()
  | bad => probeTrap e (lowest bad) s

/-- MMA and MMAZ (R265, R270, R272): `srcs` are the addresses of A. -/
def mmaBody (zero : Bool) (src : MatSrc) (f : Full) (e : Env) (s : State) : Res :=
  let k := mmaK f
  let fm := mf f 31 29
  let sc := mb f 28 && (match src with
    | .aacc _ _ => false
    | _ => true)
  let b := sPairVal s e.p f.b % 2 ^ 56
  let n := matBytes fm k sc
  let locs := (match src with
    | .als ga => [(ga, n)]
    | _ => []) ++ [(b, n)]
  let tiles := mTile f :: (match src with
    | .aacc t _ => [t]
    | _ => [])
  let regs := match src with
    | .areg => areaRegs f
    | _ => 0
  localAlign e locs s fun _ => heldThen e tiles s fun _ =>
    if (match src with
      | .aacc t _ => t == mTile f
      | _ => false) then accTrap e 4 s
    else localThen e locs s fun _ =>
      if s.acquiring e.p e.pid then .stall s
      else releaseThen true .core e s fun s =>
        matIssue e f (matNew e f (.mma zero fm k sc src b) 1 (ownedRows s e fun j => (vNum f.a + j * regs, regs)) 0)
          (vNum f.a) (64 / e.p.width * regs) s

/-- A's address pair. -/
def alsSrc (f : Full) (e : Env) (s : State) : MatSrc := .als (sPairVal s e.p f.a % 2 ^ 56)
/-- A's tile. -/
def aaccSrc (f : Full) : MatSrc := .aacc (mf f 9 6) (mb f 27)

/-- MMA `.areg` (R273, R275). -/
def execMmaAreg (f : Full) (s : State) : Out := issueFull (formMmaAreg f) (some .mma) (whenExec (mmaBody false .areg f)) f s
/-- MMA `.als` (R273). -/
def execMmaAls (f : Full) (s : State) : Out :=
  issueFull (formMmaAls f) (some .mma) (whenExec fun e s => mmaBody false (alsSrc f e s) f e s) f s
/-- MMA `.aacc` (R273). -/
def execMmaAacc (f : Full) (s : State) : Out := issueFull (formMmaAacc f) (some .mma) (whenExec (mmaBody false (aaccSrc f) f)) f s
/-- MMAZ `.areg` (R273, R275). -/
def execMmazAreg (f : Full) (s : State) : Out := issueFull (formMmaAreg f) (some .mma) (whenExec (mmaBody true .areg f)) f s
/-- MMAZ `.als` (R273). -/
def execMmazAls (f : Full) (s : State) : Out :=
  issueFull (formMmaAls f) (some .mma) (whenExec fun e s => mmaBody true (alsSrc f e s) f e s) f s
/-- MMAZ `.aacc` (R273). -/
def execMmazAacc (f : Full) (s : State) : Out := issueFull (formMmaAacc f) (some .mma) (whenExec (mmaBody true (aaccSrc f) f)) f s

/-- The value of an element with its scale (R67, R68). -/
def scaled (v : FVal) (scale : Option Nat) : FVal := match scale with
  | some b => (v.mul (decodeE8M0 b)).1
  | none => v

/-- Element i of packed bits (R65, R68). -/
def packedElem (ty : Ty) (x i : Nat) : FVal :=
  if ty = .slub4 then
    let q := slub4Pair (x >>> (8 * (i / 2)) % 16) (x >>> (8 * (i / 2) + 4) % 16)
    .ofInt (if i % 2 = 0 then q.1 else q.2)
  else decodeF ty (x >>> (tyBits ty * i) % 2 ^ tyBits ty)

/-- The K values of a row of A or a column of B: its packed bits, the bytes of it that are poisoned, and its scale bytes. -/
def packedRow (ty : Ty) (k x : Nat) (bad : Nat → Bool) (scale : Nat → Option Nat) : List FVal :=
  (List.range k).map fun i => if bad (tyBits ty * i / 8) then .nan else scaled (packedElem ty x i) (scale (i / 32))

/-- Split a list into groups of 16. -/
def groups16 {α : Type} : Nat → List α → List (List α)
  | 0, _ => []
  | n + 1, xs => xs.take 16 :: groups16 n (xs.drop 16)

/-- The exact sum of products of a group (R274). -/
def exactSum : List (FVal × FVal) → FVal
  | [] => .zero false
  | (a, b) :: xs => xs.foldl (fun acc x => (acc.add false (x.1.mul x.2).1).1) (a.mul b).1

/-- One element of an MMA: a rounding for each group of 16 (R273, R274). -/
def mmaElem (k : Nat) (acc : Word) (a b : List FVal) : Word :=
  (groups16 (k / 16) (a.zip b)).foldl (fun acc g =>
    BitVec.ofNat 32 (rnd .f32 .rne false 0 ((f32 acc.toNat).add false (exactSum g)).1).1) acc

/-- The shadow path's element: fused multiply-adds, one k at a time (R286). -/
def shadowElem (acc : Word) (a b : List FVal) : Word :=
  (a.zip b).foldl (fun acc x => BitVec.ofNat 32 (rnd .f32 .rne false 0 ((x.1.mul x.2).1.add false (f32 acc.toNat)).1).1) acc

/-- Bytes of local store for an operand, as each core's engine reads them: the copy that the address names; none in transit. -/
def State.matRead (s : State) (o : MatOp) (ga n : Nat) : Option (Nat → Nat → Nat × (Nat → Bool)) :=
  let seg (i : Nat) : Option Nat := match s.placeIn (o.part / 4) o.skein o.slot ((ga + i) % 2 ^ 56) with
    | .loc c off => match (s.seg (segKey c off)).st with
      | .t _ => none
      | _ => some (segBase (segKey c off) + off % 4096)
    | _ => none
  if (pageStarts ga n).all fun a => (seg (a + 2 ^ 56 - ga)).isSome then
    some fun i m => (leNat ((List.range m).map fun j => match seg (i + j) with
        | some a => s.ls.get a
        | none => 0),
      fun j => match seg (i + j) with
        | some a => s.lsBad a 1
        | none => true)
  else none

/-- The operand at an offset of a row or column in local store (R271). -/
def matRow (rd : Nat → Nat → Nat × (Nat → Bool)) (fm k : Nat) (sc : Bool) (i : Nat) : List FVal :=
  let ty := fmTy fm
  let rb := k * tyBits ty / 8
  let nb := (k + 31) / 32
  let x := rd (i * rb) rb
  packedRow ty k x.1 x.2 fun b => if !sc then none else
    let y := rd (64 * rb + i * nb + b) 1
    some (if y.2 0 then 0xFF else y.1)

/-- A's values for a row (R271, R273, R275). -/
def State.matA (s : State) (o : MatOp) (rd : Nat → Nat → Nat × (Nat → Bool)) (fm k : Nat) (sc : Bool) (src : MatSrc) (row : MatRow) :
    List FVal :=
  let ty := fmTy fm
  match src with
  | .als _ => matRow rd fm k sc row.r
  | .areg =>
    let rb := k / fmPer fm
    let x := leNat (row.vals.take rb |>.flatMap wordBytes)
    let y := leNat (row.vals.drop rb |>.flatMap wordBytes)
    packedRow ty k x (fun _ => false) fun b => if sc then some (y >>> (8 * b) % 256) else none
  | .aacc t sat => ((s.tileRow o.part t row.r).take k).map fun w => decodeF ty (rnd ty .rne sat 0 (f32 w.toNat)).1

/-- The first poisoned byte of an operand. -/
def State.matPoison (s : State) (o : MatOp) (ga n : Nat) : Option Nat :=
  (pageStarts ga n).findSome? fun a => match s.placeIn (o.part / 4) o.skein o.slot a with
    | .loc c off => ((List.range (min (4096 - a % 4096) (ga + n - a))).find? fun i => s.lsBad (segBase (segKey c off) + off % 4096 + i) 1).map (a + ·)
    | _ => none

/-- The deviation of R286 of a main from a shadow result. -/
def deviation (m sh : Word) : FVal :=
  let fin (x : FVal) : Bool := match x with
    | .fin .. => true
    | _ => false
  let a := f32 m.toNat
  let b := f32 sh.toNat
  if fin a && fin b then
    let d := (a.add false b.neg).1.abs
    let lo : FVal := .fin false 1 1 (-126)
    (d.div (if b.abs.cmp lo < 0 then lo else b.abs)).1
  else if m = sh then .zero false else .inf false

/-- The telemetry record of a shadow check (R286, R422), less its stamp. -/
def shadowRecord (o : MatOp) (codeOff' : Nat) (dev r c : Nat) : BitVec 256 :=
  BitVec.ofNat 256 (2 + (o.part / 4) <<< 16 + (o.part % 4) <<< 24 + o.tile <<< 26 + codeOff' <<< 32 + dev <<< 128 + (r + c * 64) <<< 160)

/-- SHADOW_CHECK (R286): the largest deviation over the rows, with its row and column. -/
def State.shadowCheck (s : State) (o : MatOp) (rows : List (Nat × List Word × List Word)) : State :=
  let sh := fld (s.ctx o.slot).intcfg.toNat 4 0
  let key := o.part * 256 + o.slot
  let n := (s.shadow.get key).getD 0 + 1
  let s := { s with shadow := s.shadow.set key n }
  if sh = 0 || n % 2 ^ sh ≠ 0 then s
  else
    let devs := rows.flatMap fun x => ((x.2.1.zip x.2.2).zipIdx).map fun y => (deviation y.1.1 y.1.2, x.1, y.2)
    let best := devs.foldl (fun (b : FVal × Nat × Nat) d => if b.1.cmp d.1 < 0 then d else b) (FVal.zero false, (o.rows.head?.map MatRow.r).getD 0, 0)
    let im := shadowRecord o (codeOff (s.ctx o.slot) o.pc.toNat) (rnd .f32 .rne false 0 best.1).1 best.2.1 best.2.2
    { s with telPend := s.telPend ++ [{ slot := some o.slot, image := im }] }

/-- MMA's effect (R273); none while an operand's segment is in transit. -/
def State.mmaRun (s : State) (o : MatOp) (zero : Bool) (fm k : Nat) (sc : Bool) (src : MatSrc) (b : Nat) : Option State :=
  let n := matBytes fm k sc
  let aGa := match src with
    | .als ga => ga
    | _ => b
  match s.matRead o b n, s.matRead o aGa n with
  | some rb, some ra =>
    let cols := (List.range 64).map fun c => matRow rb fm k sc c
    let rows := o.rows.map fun row =>
      let a := s.matA o ra fm k sc src row
      let old := if zero then List.replicate 64 0 else s.tileRow o.part o.tile row.r
      (row.r, (old.zip cols).map (fun x => mmaElem k x.1 a x.2), (old.zip cols).map fun x => shadowElem x.1 a x.2)
    let t := rows.foldl (fun s x => s.setRow o.part o.tile x.1 x.2.1) s
    let t := t.shadowCheck o rows
    let bad (ga : Nat) : Option Nat := s.matPoison o ga n
    some (match (bad aGa).or (bad b) with
      | some ga => t.engFault o.uid .mma 5 ga
      | none => t)
  | _, _ => none

/-! ## ACCZERO, ACCLD and ACCST -/

/-- ACCZERO (R277). -/
def acczeroBody (f : Full) (e : Env) (s : State) : Res :=
  let n := mf f 4 0
  heldThen e ((List.range n).map fun i => mTile f + i) s fun _ =>
    matIssue e f (matNew e f .zero n (ownedRows s e fun _ => (0, 0)) 0) 0 0 s

/-- ACCZERO (R277). -/
def execAcczero (f : Full) (s : State) : Out := issueFull (formAcczero f) (some .mma) (whenExec (acczeroBody f)) f s

/-- The identifier that ACCLD or ACCST names is accepted (R264, R278, R279). -/
def matTid (x : Nat) : Bool := tidValid x && 2 ≤ tidRank x && match tyOf (fld x 60 56) with
  | some .f32 => true | some .bf16 => true | some .f16 => true | some .e4m3 => true | some .e5m2 => true | _ => false

/-- Read the identifier of a matrix instruction (R235). -/
def matEntry (f : Full) (e : Env) (s : State) (k : Nat → State → Res) : Res :=
  match s.tidGet (unitMatrix (plyPartKey e.pid)) (s.plyAgent e.pid e.p.uid e.p.skein e.p.ctx 3) (mf f 11 0) with
  | (t, none) => .stall t
  | (t, some x) => k x t

/-- The columns of a row that lie in the tensor, from an origin: where they begin and their bytes. -/
def rowRun (x d0 d1 : Nat) : List (Nat × Nat) :=
  let cs := (List.range 64).filter fun c => inTensor x [d0 + c, d1, 0, 0, 0]
  match cs with
  | [] => []
  | _ :: _ => [(tidAddr x [d0, d1, 0, 0, 0], cs.length * (tidBits x / 8))]

/-- What a probe of the rows of an operation asks. -/
def rowAsks (x d0 d1 : Nat) (write : Bool) (rows : List MatRow) : List ProbeAsk :=
  rows.flatMap fun row => (rowRun x d0 (d1 + row.r)).flatMap fun r => (pageStarts r.1 r.2).map fun a =>
    { ga := a, write := write, host := true, nl := if write then tidNl x else 15 }

/-- The operation whose probe has passed enters its unit. -/
def matStart (f : Full) (e : Env) (s : State) (lendN : Nat) (first : State → Res) : Res :=
  probeAwait e s (fun op x t => match x with
    | .mat o => .done (matEnter e f op o (vNum f.b) lendN t)
    | _ => .stall t) first

/-- ACCLD (R272, R278). -/
def accldBody (f : Full) (e : Env) (s : State) : Res :=
  matStart f e s 0 fun s => matEntry f e s fun x s =>
    let ws := (sWords s e.p f.a 2).map BitVec.toNat
    let so0 := ws.headD 0
    let so1 := (ws[1]?).getD 0
    heldThen e [mTile f] s fun _ =>
      if !matTid x then accTrap e 5 s
      else if s.acquiring e.p e.pid then .stall s
      else releaseThen true (if (rowAsks x so0 so1 false (ownedRows s e fun _ => (0, 0))).any isGlobal then .pkg else .core) e s fun s =>
        let rows := ownedRows s e fun _ => (0, 0)
        probeStart e (some .mma) (rowAsks x so0 so1 false rows) (.mat (matNew e f (.load so0 so1 (BitVec.ofNat 512 x)) 1 rows 0)) s
where
  /-- An address of the tensor's rows lies in global memory; a row may wrap into it (R231). -/
  isGlobal (a : ProbeAsk) : Bool := a.ga / 2 ^ 48 % 256 == 0

/-- ACCLD (R278). -/
def execAccld (f : Full) (s : State) : Out := issueFull (formAccld f) (some .mma) (whenExec (accldBody f)) f s

/-- ACCST (R272, R279, R281). -/
def accstBody (f : Full) (e : Env) (s : State) : Res :=
  let scm := mf f 31 30
  let j := 64 / e.p.width
  matStart f e s (if scm = 1 then 2 * j else 0) fun s => matEntry f e s fun x s =>
    let w (i : Nat) : Word := match regAfter f.a i with
      | .s n => (s.sReg e.p n).val
      | _ => 0
    let pair (i : Nat) : Nat := ((w i).toNat + (w (i + 1)).toNat * 2 ^ 32) % 2 ^ 56
    let tb := mb f 16
    let cols := if scm = 2 then [(pair 6, 512)] else []
    alignAll e ((if tb then [(pair 4, 16)] else []) ++ cols.map fun c => (c.1, 64)) s fun _ =>
      heldThen e [mTile f] s fun _ =>
        if !matTid x then accTrap e 5 s
        else localThen e cols s fun _ =>
          if s.acquiring e.p e.pid then .stall s
          else releaseThen (scm = 2) .core e s fun s =>
            let rows := ownedRows s e fun j => if scm = 1 then (vNum f.b + 2 * j, 2) else (0, 0)
            let bar := if tb then some (s.tbRef e.pid e.p (pair 4)) else none
            probeStart e (some .mma) (rowAsks x (w 0).toNat (w 1).toNat true rows ++ barAsks bar)
              (.mat (matNew e f (.store (w 0).toNat (w 1).toNat scm (mf f 29 28) (if mb f 27 then some (w 2) else none) bar (pair 6)
                (mb f 26) (mb f 25) (BitVec.ofNat 512 x)) 1 rows 0)) s

/-- ACCST (R279). -/
def execAccst (f : Full) (s : State) : Out := issueFull (formAccst f) (some .mma) (whenExec (accstBody f)) f s

/-- ACCMOV (R283). -/
def accmovBody (f : Full) (e : Env) (s : State) : Res :=
  let n := mf f 5 0 + 1
  heldThen e [mTile f] s fun _ =>
    matIssue e f (matNew e f (.mov (mf f 21 16) n) 1 (ownedRows s e fun _ => (0, 0)) (64 / e.p.width * n)) 0 0 s

/-- ACCMOV (R283). -/
def execAccmov (f : Full) (s : State) : Out := issueFull (formAccmov f) (some .mma) (whenExec (accmovBody f)) f s

/-- An operation that reads n lent registers for each row it owns (R276). -/
def rowBody (kind : Env → State → MatKind) (n : Nat) (f : Full) (e : Env) (s : State) : Res :=
  heldThen e [mTile f] s fun _ =>
    matIssue e f (matNew e f (kind e s) 1 (ownedRows s e fun j => (vNum f.a + j * n, n)) 0) (vNum f.a) (64 / e.p.width * n) s

/-- ACCFILL (R283). -/
def execAccfill (f : Full) (s : State) : Out :=
  issueFull (formAccfill f) (some .mma) (whenExec (rowBody (fun _ _ => .fill (mf f 21 16) (mf f 5 0 + 1)) (mf f 5 0 + 1) f)) f s

/-- A row reduction: one EMPTY destination for each row (R284). -/
def redBody (kind : MatKind) (f : Full) (e : Env) (s : State) : Res :=
  heldThen e [mTile f] s fun _ => matIssue e f (matNew e f kind 1 (ownedRows s e fun _ => (0, 0)) (64 / e.p.width)) 0 0 s

/-- ACCRMAX (R284). -/
def execAccrmax (f : Full) (s : State) : Out := issueFull (formAccrow f) (some .mma) (whenExec (redBody .rmax f)) f s
/-- ACCRSUM (R284). -/
def execAccrsum (f : Full) (s : State) : Out := issueFull (formAccrow f) (some .mma) (whenExec (redBody .rsum f)) f s
/-- ACCRSCL (R284). -/
def execAccrscl (f : Full) (s : State) : Out :=
  issueFull (formAccrscl f) (some .mma) (whenExec (rowBody (fun _ _ => .rscl (mb f 26)) 1 f)) f s
/-- ACCMAP `.add` (R284). -/
def execAccmapAdd (f : Full) (s : State) : Out := issueFull (formAccmapRow f) (some .mma) (whenExec (rowBody (fun _ _ => .madd) 1 f)) f s
/-- ACCMAP `.mul` (R284). -/
def execAccmapMul (f : Full) (s : State) : Out := issueFull (formAccmapRow f) (some .mma) (whenExec (rowBody (fun _ _ => .mmul) 1 f)) f s
/-- ACCMAP `.ex2` (R284): c is read at issue. -/
def execAccmapEx2 (f : Full) (s : State) : Out :=
  issueFull (formAccmapEx2 f) (some .mma)
    (whenExec (rowBody (fun e s => .mex2 (opVal s e.pid e.p (e.lanes.headD 0) false .f32 0 f.b)) 1 f)) f s
/-- ACCMAP `.relu` (R284). -/
def execAccmapRelu (f : Full) (s : State) : Out :=
  issueFull (formAccmapRelu f) (some .mma) (whenExec (rowBody (fun _ _ => .mrelu) 0 f)) f s
/-- ACCMAP `.rnd` (R284). -/
def execAccmapRnd (f : Full) (s : State) : Out :=
  issueFull (formAccmapRnd f) (some .mma) (whenExec (rowBody (fun _ _ => .mrnd (mf f 31 29) (mb f 26)) 0 f)) f s

/-! ## Effects -/

/-- Round to FP32, nearest even. -/
def r32 (x : FVal) : Nat := (rnd .f32 .rne false 0 x).1
/-- x > 0 or NaN, else +0 (R280, R284); a NaN is the canonical one. -/
def reluVal (w : Nat) : Nat := match f32 w with
  | .nan => 0x7FC00000
  | v => if v.sign || v.isZero then 0 else w
/-- The format of ACCMAP's RT code (R265). -/
def rtTy (rt : Nat) : Ty := match rt with
  | 0 => .bf16 | 1 => .f16 | 2 => .e4m3 | _ => .e5m2

/-- The new value of an element under an elementwise operation with row value v (R284). -/
def mapElem (k : MatKind) (x v : Nat) : Nat := match k with
  | .rscl sat => (rnd .f32 .rne sat 0 ((f32 x).mul (f32 v)).1).1
  | .madd => r32 ((f32 x).add false (f32 v)).1
  | .mmul => r32 ((f32 x).mul (f32 v)).1
  | .mex2 c =>
    let t := r32 ((f32 x).add false (f32 v).neg).1
    (fex2 false (r32 ((f32 t).mul (f32 c)).1)).1
  | .mrelu => reluVal x
  | .mrnd rt sat => r32 (decodeF (rtTy rt) (rnd (rtTy rt) .rne sat 0 (f32 x)).1)
  | _ => x

/-- The value of a row reduction (R284). -/
def rowVal (mx : Bool) (xs : List Nat) : Nat :=
  if mx then match xs with
    | [] => 0x7FC00000
    | x :: r => r.foldl (fmnmx .f32 true) (fmnmx .f32 true x x)
  else match xs with
    | [] => 0
    | x :: r => r32 (r.foldl (fun a y => (a.add false (f32 y)).1) (f32 x))

/-- Words arrive in an operation's destination registers for a row: n words from D + j * n (R283). -/
def State.matArrive (s : State) (op : Nat) (o : MatOp) (row : MatRow) (n : Nat) (ws : List Word) : State :=
  s.updThread o.skein row.tid fun t => { t with regs := t.regs.arrive op (o.dst + row.j * n) ws }

/-- ACCST's value of an element before narrowing (R280). -/
def storeVal (scm act x sc bi : Nat) : Nat :=
  let y := if scm = 0 then x else r32 ((((f32 x).mul (f32 sc)).1).add false (f32 bi)).1
  match act with
  | 1 => reluVal y
  | 2 => gelu y
  | _ => y

/-- ACCST's element in the destination format (R77, R280). -/
def storeElem (ent : Nat) (sat ex : Bool) (y : Nat) : Nat :=
  let ty := (tyOf (fld ent 60 56)).getD .f32
  let t := if ex then ((f32 y).div (f32 (tidTscale ent))).1 else ((f32 y).mul (f32 (tidRcp ent))).1
  (rnd ty .rne sat 0 t).1

/-- For whom a matrix operation acts. -/
def State.matAgent (s : State) (o : MatOp) : Agent := (s.plyAgent o.pid o.uid o.skein o.slot 3).at' (codeOff (s.ctx o.slot) o.pc.toNat)

/-- How far an operation's memory rows went: how many are done, and why it stopped. -/
inductive MatMem where
  | fin
  | wait
  | host (line : Nat)
  | fail (sub va : Nat)
  deriving DecidableEq, Repr

/-- ACCLD's rows from `o.done` on (R278). -/
def State.loadRows (s : State) (o : MatOp) (so0 so1 x : Nat) : List MatRow → Nat → State × Nat × MatMem
  | [], i => (s, i, .fin)
  | row :: rs, i =>
    let ty := (tyOf (fld x 60 56)).getD .f32
    let put (s : State) (n big : Nat) : State :=
      s.setRow o.part o.tile row.r ((List.range 64).map fun c =>
        if c < n then BitVec.ofNat 32 (r32 (decodeF ty (big >>> (tyBits ty * c) % 2 ^ tyBits ty))) else 0)
    match rowRun x so0 (so1 + row.r) with
    | [] => State.loadRows (put s 0 0) o so0 so1 x rs (i + 1)
    | (a, n) :: _ => match s.engRead (s.matAgent o) o.host a n with
      | (s, .ok bs) => State.loadRows (put s (n / (tyBits ty / 8)) (leNat bs)) o so0 so1 x rs (i + 1)
      | (s, .wait) => (s, i, .wait)
      | (s, .host l) => (s, i, .host l)
      | (s, .fail sub va) => (s, i, .fail sub va)

/-- ACCST's rows from `o.done` on (R280); `cs` gives a column's scale and bias. -/
def State.storeRows (s : State) (o : MatOp) (d0 d1 scm act x : Nat) (sat ex : Bool) (cs : Nat → Nat × Nat) :
    List MatRow → Nat → State × Nat × MatMem
  | [], i => (s, i, .fin)
  | row :: rs, i =>
    match rowRun x d0 (d1 + row.r) with
    | [] => State.storeRows s o d0 d1 scm act x sat ex cs rs (i + 1)
    | (a, n) :: _ =>
      let z := tidBits x / 8
      let rv (k : Nat) : Nat := ((row.vals[k]?).getD 0).toNat
      let es := ((s.tileRow o.part o.tile row.r).take (n / z)).zipIdx.map fun e =>
        let c := if scm = 1 then (rv 0, rv 1) else cs e.2
        storeElem x sat ex (storeVal scm act e.1.toNat c.1 c.2)
      match s.engWrite (s.matAgent o) a (es.flatMap (leBytes z)) with
      | (s, .ok) => State.storeRows s o d0 d1 scm act x sat ex cs rs (i + 1)
      | (s, .wait) => (s, i, .wait)
      | (s, .fail sub va) => (s, i, .fail sub va)

/-- An older operation of the partition, in its unit or still in its probe, stands before this one: one of the two writes a tile that the other names (R267). -/
def State.matBlocked (s : State) (o : MatOp) : Bool :=
  let meets (x : MatOp) : Bool := x.part == o.part && ((x.writes.any fun t => o.names.contains t) || (o.writes.any fun t => x.names.contains t))
  (s.mats.any fun e => e.2.seq < o.seq && e.2.live && meets e.2) ||
  s.probes.any fun e => e.1 < o.seq && match e.2.what with
    | .mat x => meets x
    | _ => false

/-- Sectors that an ACCST owes for rows (R282). -/
def storeSectors (ent rows : Nat) : Nat := (tidBits ent / 8 * 64 * rows + 31) / 32

/-- Put an operation back with its new progress. -/
def State.matSet (s : State) (op : Nat) (o : MatOp) : State := { s with mats := s.mats.set op o }

/-- An operation's tile and register effects are done (R268); tiles that wait for it may become free (R263). -/
def State.matGone (s : State) (op : Nat) (o : MatOp) : State :=
  let t := { s with mats := s.mats.del op }
  ({ t with accFree := t.accFree.filter t.freeing }.engComplete o.uid op).grantTiles o.part

/-- The rows of ACCST that have landed decrement the barrier (R282). -/
def State.storeDecr (s : State) (op : Nat) (o : MatOp) (bar : Option TbRef) (ent i : Nat) (err : Bool) : State :=
  match bar with
  | none => s
  | some r =>
    let n := storeSectors ent (if err then o.rows.length else i) - storeSectors ent o.done
    if n = 0 && !err then s else s.tbSend r o.slot o.pid o.uid (-(n : Int)) false err (some (op, .mma))

/-- THE EFFECT OF A MATRIX OPERATION (R273, R277, R278, R280, R283, R284): the operation with its progress; stage 1 when its tile,
register and memory effects are done. -/
def State.matRun (s : State) (op : Nat) (o : MatOp) : State :=
  let fin (s : State) : State := s.matSet op { o with done := o.rows.length, stage := 1 }
  let mem (x : State × Nat × MatMem) (lost : State → Nat → Nat → Nat → State) (some' : State → Nat → State) : State :=
    let (s, i, r) := x
    match r with
    | .fin => (some' s i).matSet op { o with done := i, stage := 1 }
    | .wait => (some' s i).matSet op { o with done := i }
    | .host l => if o.asked.contains l then (some' s i).matSet op { o with done := i } else
        (((some' s i).matSet op { o with done := i, asked := o.asked ++ [l] }).askHost 4 op l o.slot)
    | .fail sub va => (lost s i sub va).matSet op { o with done := o.rows.length, stage := 1, lost := true }
  match o.kind with
  | .mma zero fm k sc src b => match s.mmaRun o zero fm k sc src b with
    | some t => fin t
    | none => s
  | .zero => fin (o.rows.foldl (fun s row => (List.range o.nt).foldl (fun s i =>
      s.setRow o.part (o.tile + i) row.r (List.replicate 64 0)) s) s)
  | .load so0 so1 ent =>
    mem (s.loadRows o so0 so1 ent.toNat (o.rows.drop o.done) o.done) (fun s _ sub va => s.engFault o.uid .mma sub va) fun s _ => s
  | .store d0 d1 scm act _ bar cols sat ex ent =>
    let x := ent.toNat
    let go (s : State) (cs : Nat → Nat × Nat) : State :=
      mem (s.storeRows o d0 d1 scm act x sat ex cs (o.rows.drop o.done) o.done)
        (fun s _ sub va => (s.storeDecr op o bar x 0 true).engFault o.uid .mma sub va)
        fun s i => s.storeDecr op o bar x i false
    if scm = 2 then match s.matRead o cols 512 with
      | none => s
      | some rd =>
        let get (i : Nat) : Nat := let y := rd (4 * i) 4; if (List.range 4).any y.2 then 0x7FC00000 else y.1
        let s' := match o.done, s.matPoison o cols 512 with
          | 0, some a => s.engFault o.uid .mma 5 a
          | _, _ => s
        go s' fun c => (get c, get (64 + c))
    else go s fun _ => (0, 0)
  | .mov c0 n => fin (o.rows.foldl (fun s row =>
      s.matArrive op o row n (((s.tileRow o.part o.tile row.r).drop c0).take n)) s)
  | .fill c0 n => fin (o.rows.foldl (fun s row =>
      let old := s.tileRow o.part o.tile row.r
      s.setRow o.part o.tile row.r (old.take c0 ++ row.vals ++ old.drop (c0 + n))) s)
  | .rmax => fin (o.rows.foldl (fun s row =>
      s.matArrive op o row 1 [BitVec.ofNat 32 (rowVal true ((s.tileRow o.part o.tile row.r).map BitVec.toNat))]) s)
  | .rsum => fin (o.rows.foldl (fun s row =>
      s.matArrive op o row 1 [BitVec.ofNat 32 (rowVal false ((s.tileRow o.part o.tile row.r).map BitVec.toNat))]) s)
  | k => fin (o.rows.foldl (fun s row =>
      s.setRow o.part o.tile row.r ((s.tileRow o.part o.tile row.r).map fun w =>
        BitVec.ofNat 32 (mapElem k w.toNat ((row.vals.headD 0).toNat)))) s)

/-- The tile trigger that an operation sends once its whole store has retired (R282). -/
def MatOp.trigger (o : MatOp) : Option Word := match o.kind with
  | .store _ _ _ _ trg _ _ _ _ _ => if o.lost then none else trg
  | _ => none

/-- What an operation still owes: its decrements, then its trigger; then it completes (R268). -/
def State.matOwe (s : State) (op : Nat) : State :=
  match s.mats.get op with
  | none => s
  | some o =>
    if o.stage = 0 || s.tbOwes op then s
    else match o.stage, o.trigger with
      | 1, some w => { (s.matSet op { o with stage := 2 }) with trigs := s.trigs ++ [{ op := op, slot := o.slot, pid := o.pid, uid := o.uid, target := w, cg := false }] }
      | _, _ => if s.trigs.any fun t => t.op == op then s else s.matGone op o

/-- MATRIX_OP_COMPLETE (R267, R268): an operation that no older one stands before, and whose lent registers have been read, has its
effect, and completes when it owes nothing more. -/
def execMatrixOpComplete (op : Nat) (s : State) : Out :=
  match s.mats.get op with
  | none => .next s
  | some o =>
    if o.stage ≠ 0 then .next (s.matOwe op)
    else if s.matBlocked o || s.lent.any (fun l => l.op == op) then .next s
    else .next ((s.matRun op o).matOwe op)

/-- LENT_REGISTER_READ (R276): the engine has read the registers lent to it. -/
def execLentRegisterRead (op : Nat) (s : State) : Out := .next { s with lent := s.lent.filter fun l => l.op != op }

/-- The first address of ACCLD's present row that lies on a line of host memory (R247, R278). -/
def State.matHostAt (s : State) (o : MatOp) (line : Nat) : Nat := match o.kind, o.rows[o.done]? with
  | .load so0 so1 ent, some row => match rowRun ent.toNat so0 (so1 + row.r) with
    | (a, n) :: _ => s.hostAt (s.matAgent o) a n line
    | [] => 0
  | _, _ => 0

/-- A line of host memory arrives for a matrix operation (R441). -/
def State.matHost (s : State) (op line : Nat) (x : Reply) : State :=
  match s.mats.get op with
  | none => s
  | some o => match x with
    | .data bs => s.matSet op { o with host := o.host.set line (lineOf bs) }
    | .fail sub _ => if o.stage ≠ 0 then s else
        (s.engFault o.uid .mma sub (s.matHostAt o line)).matSet op { o with done := o.rows.length, stage := 1, lost := true }
    | .ack => s

end Sys2Proof.Machine
end

