-- ==== Sys2Proof/Machine/Decks.lean ====
section
/-! DEFINITION. Decks (R298 to R309): their controllers, DRAW, DRAWT, DEAL and DECKST, the deals of the host, and the tests of
gates. -/

namespace Sys2Proof.Machine

/-! ## Controllers -/

/-- The key of a deck. -/
def deckKey (slot deck : Nat) : Nat := slot * 64 + deck % 64
/-- Entries of a deck's ring. -/
def Deck.size (d : Deck) : Nat := 2 ^ d.log2n
/-- TAIL - HEAD. -/
def Deck.held (d : Deck) : Nat := d.tail - d.head
/-- The deck is full (R299). -/
def Deck.full (d : Deck) : Bool := d.size ≤ d.held

/-- For whom a deck controller acts: the context, with no ply. -/
def State.deckAgent (s : State) (slot : Nat) : Agent :=
  { who := { asid := s.slotAsid slot, slot := some slot, core := 0, part := 0, pslot := 0, uid := none, dev := 0, inb := false }
    slot := slot, skein := 2 ^ 30, core := 0, kind := 3 }

/-- HEAD advances past every DRAWN slot at its position (R299). -/
def Deck.advance (d : Deck) : Nat → Deck
  | 0 => d
  | n + 1 =>
    let i := d.head % d.size
    if d.head = d.tail then d
    else match d.slots.get i with
      | some x => if x.st = .drawn then Deck.advance { d with head := d.head + 1, slots := d.slots.del i } n else d
      | none => d

/-- The gates of an entry that are enabled, as address and token (R300). -/
def entryGates (bs : List Byte) : List (Nat × Nat) :=
  [48, 56].filterMap fun o =>
    let w := leNat ((bs.drop o).take 8)
    if bit w 63 then some (fld w 55 4 * 16, fld w 3 0) else none

/-- The first enabled gate outside the global and scratchpad regions (R303, R309). -/
def gateBad (bs : List Byte) : Option Nat :=
  ((entryGates bs).find? fun g => g.1 / 2 ^ 48 ≠ 0 && g.1 / 2 ^ 48 ≠ 0x71).map Prod.fst

/-- Test one gate (R300): open or not, whether its barrier could not be read, and whether the test must be made again. -/
def State.gateOpen (s : State) (slot : Nat) (g : Nat × Nat) : State × Bool × Bool × Bool :=
  let w := (s.deckAgent slot).who
  match s.tbGet w (s.tbFind slot (s.gateRef slot g.1)) .read with
  | (s, .ok b) => (s, fld b 3 0 != g.2, false, false)
  | (s, .fail _ c) => (if c = 0 then s else (s.record w g.1 c 3 false).1, true, true, false)
  | (s, .wait) => (s, false, false, true)

/-- An entry is found READY at a clock (R301): it is dispensed after those found before, in deal order among those of the same clock. -/
def Deck.find (d : Deck) (i clock : Nat) : Deck :=
  let now (j : Nat) : Bool := ((d.slots.get j).map DSlot.found) == some clock
  let place (j : Nat) : Nat := (j + d.size - d.head % d.size) % d.size
  { d with slots := d.slots.upd i fun x => { x with st := .ready, due := false, found := clock }
           ready := (d.ready.filter fun j => !now j) ++ sortBy place ((d.ready.filter now) ++ [i]) }

/-- TEST AN ENTRY (R301): READY when every enabled gate is open. -/
def State.testSlot (s : State) (k i : Nat) : State :=
  match s.decks.get k with
  | none => s
  | some d => match d.slots.get i with
    | none => s
    | some x =>
      if x.st ≠ .waiting then s
      else
        let (s, open', err, again) := x.gates.foldl (fun (acc : State × Bool × Bool × Bool) g =>
          let (t, o, e, a) := acc.1.gateOpen (k / 64) g
          (t, acc.2.1 && o, acc.2.2.1 || e, acc.2.2.2 || a)) (s, true, false, false)
        let d := { d with gerr := d.gerr || err }
        let d := if open' then d.find i s.clock
          else { d with slots := d.slots.set i { x with due := again } }
        { s with decks := s.decks.set k d }

/-- DRAW retires when its entry is assigned (R305). -/
def State.retireDraw (s : State) (op : Nat) (o : DeckOp) : State :=
  match s.ply? o.pid with
  | none => s
  | some p =>
    if o.kind ≠ .draw || p.uid ≠ o.uid || p.wait ≠ some (.op op) then s
    else
      let sp : Spec := { causes := [], guard := ⟨false, false, 0⟩, reads := [], writes := [], cls := none, size := 12, seq := true,
                         yld := o.yld, jw := o.jw }
      retire (s.setPc p p.active (s.plyPc p + 12)) o.pid sp

/-- Give the first READY entry to a request (R301, R305): none while its line is held, and none in the clock in which it was found, so that all
that one clock finds is dispensed in deal order (R322). -/
def State.assign (s : State) (k op : Nat) : Option State :=
  match s.decks.get k, s.deckOps.get op with
  | some d, some o => match d.ready with
    | [] => none
    | i :: rest =>
      if ((d.slots.get i).map DSlot.found) == some s.clock then none
      else
      let take (s : State) (r : DeckReply) : State :=
        let d := { d with ready := rest, slots := d.slots.upd i fun x => { x with st := .drawn } }
        ({ s with decks := s.decks.set k (d.advance d.size), deckOps := s.deckOps.set op { o with reply := some r } }).retireDraw op o
      match s.engGet (s.deckAgent (k / 64)) [] (d.ring + 64 * i) 48 with
      | (s, .ok bs) => some (take s (.entry bs))
      | (s, .fail sub _) => some (take s (.fault sub))
      | (s, .host _) => some (take s (.fault 1))
      | (_, .wait) => none
  | _, _ => none

/-- Serve the waiting requests in the order in which they reached the controller, while entries are READY (R301). -/
def State.serve (s : State) (k : Nat) : Nat → State
  | 0 => s
  | n + 1 => match s.decks.get k with
    | none => s
    | some d => match d.waiting with
      | [] => s
      | op :: rest => match s.assign k op with
        | some t => State.serve { t with decks := t.decks.upd k fun d => { d with waiting := rest } } k n
        | none => s

/-- Serve a deck. -/
def State.serveAll (s : State) (k : Nat) : State := match s.decks.get k with
  | some d => s.serve k (d.waiting.length + 1)
  | none => s

/-- APPEND AN ENTRY (R299, R301, R307): none while its line is held. -/
def State.append (s : State) (k : Nat) (bs : List Byte) : Option State :=
  match s.decks.get k with
  | none => some s
  | some d =>
    let i := d.tail % d.size
    match s.engPut (s.deckAgent (k / 64)) (d.ring + 64 * i) bs with
    | (_, .wait) => none
    | (s, _) =>
      let d := { d with tail := d.tail + 1, slots := d.slots.set i { st := .waiting, gates := entryGates bs, due := false, found := 0 } }
      some (({ s with decks := s.decks.set k d }.testSlot k i).serveAll k)

/-- A host deal reaches the controller (R303): dropped where the deck is full, else appended; none while the line is held. -/
def State.hostAppend (s : State) (k : Nat) (bs : List Byte) : Option State :=
  match s.decks.get k with
  | none => some s
  | some d => if d.full then some { s with decks := s.decks.set k { d with drops := min (2 ^ 32 - 1) (d.drops + 1) } } else s.append k bs

/-- The host's deals that waited for a held line, in order, while they can be performed (R302). -/
def State.takeDeals (s : State) (k : Nat) : Nat → State
  | 0 => s
  | n + 1 => match s.decks.get k with
    | none => s
    | some d => match d.deals with
      | [] => s
      | bs :: rest => match s.hostAppend k bs with
        | some t => State.takeDeals { t with decks := t.decks.upd k fun d => { d with deals := rest } } k n
        | none => s

/-- A controller goes on with what waited: the host's deals, then the requests. -/
def State.deckOn (s : State) (k : Nat) : State := match s.decks.get k with
  | some d => (s.takeDeals k d.deals.length).serveAll k
  | none => s

/-- CREDIT (R303): N - (TAIL - HEAD); a read follows the host's earlier deals. -/
def Deck.credit (d : Deck) : Nat := d.size - (d.held + d.deals.length)

/-- What a read of 32 bits in a deck window returns, but for DROPS, whose read is a step (R303). -/
def State.deckWindow (s : State) (slot deck off : Nat) : Nat := match s.decks.get (deckKey slot deck) with
  | some d => if d.hostw && off == 0x40 then d.credit else 0
  | none => 0

/-- DROPS as it reads (R303). -/
def State.deckDrops (s : State) (slot deck : Nat) : Nat := match s.decks.get (deckKey slot deck) with
  | some d => if d.hostw then d.drops else 0
  | none => 0

/-- DECKST's snapshot (R308). -/
def Deck.status (d : Deck) : Nat :=
  d.held + d.ready.length <<< 17 + (min 65535 d.waiting.length) <<< 35 + d.log2n <<< 51 + b2n d.gerr <<< 62 + 2 ^ 63

/-! ## Requests -/

/-- The deck that an instruction names (R304). -/
def mDeck (f : Full) : Nat := mf f 17 12
/-- The number of an s operand. -/
def sNum : Operand → Nat
  | .s n => n
  | _ => 0

/-- Send a request to a deck controller; its destinations become EMPTY. -/
def deckSend (kind : DeckKind) (n : Nat) (f : Full) (e : Env) (s : State) : State × Nat :=
  let (op, s) := s.freshOp
  let o : DeckOp := { kind := kind, pid := e.pid, uid := e.p.uid, slot := e.p.ctx, deck := mDeck f, pc := e.pc, dst := sNum f.d,
                      yld := bit f.h.toNat 5, jw := fld f.h.toNat 4 2, reply := none,
                      skein := e.p.skein, tids := (e.p.threadsOf e.exec).map Prod.snd }
  let s := { s with deckOps := s.deckOps.set op o }
  let s := emptyD s e op f.d n
  let k := deckKey e.p.ctx (mDeck f)
  (match s.decks.get k with
    | some _ => { s with decks := s.decks.upd k fun d => { d with inbox := d.inbox ++ [op] } }
    | none => { s with deckOps := s.deckOps.set op { o with reply := some (.status 0) } }, op)

/-- DECK (R309). -/
def deckTrap (e : Env) (sub va : Nat) (s : State) : Res := trapAt e 0x109 sub va s

/-- DRAW (R305): the ply waits until an entry is assigned. -/
def drawBody (f : Full) (e : Env) (s : State) : Res :=
  match e.p.wait with
  | some _ => .stall s
  | none =>
    if (s.decks.get (deckKey e.p.ctx (mDeck f))).isNone then deckTrap e 1 0 s
    else if s.acquiring e.p e.pid then .stall s
    else
      let (t, op) := deckSend .draw 12 f e s
      waitSet e (.op op) t

/-- DRAW (R305). -/
def execDraw (f : Full) (s : State) : Out := issueUnit 1 (formDraw f) none (whenExec (drawBody f)) f s

/-- DRAWT (R306). -/
def drawtBody (f : Full) (e : Env) (s : State) : Res :=
  if (s.decks.get (deckKey e.p.ctx (mDeck f))).isNone then deckTrap e 1 0 s
  else if s.acquiring e.p e.pid then .stall s
  else .done (deckSend .drawt 13 f e s).1

/-- DRAWT (R306). -/
def execDrawt (f : Full) (s : State) : Out := issueUnit 1 (formDrawt f) none (whenExec (drawtBody f)) f s

/-- DECKST (R308): counted in `cl.ld`. -/
def deckstBody (f : Full) (e : Env) (s : State) : Res :=
  if s.acquiring e.p e.pid then .stall s
  else
    let (t, op) := deckSend .st 2 f e s
    .done (t.updPly e.pid fun p => p.issueOp op .ld)

/-- DECKST (R308). -/
def execDeckst (f : Full) (s : State) : Out := issueUnit 1 (formDeckst f) (some .ld) (whenExec (deckstBody f)) f s

/-- DEAL (R307, R309): it waits for room, releases at `.pkg`, and appends. -/
def dealBody (try' : Bool) (f : Full) (e : Env) (s : State) : Res :=
  let k := deckKey e.p.ctx (mDeck f)
  let bs := (sWords s e.p f.a 16).flatMap wordBytes
  match s.decks.get k with
  | none => deckTrap e 1 0 s
  | some d =>
    if !d.devdeal then deckTrap e 2 0 s
    else match gateBad bs with
      | some ga => deckTrap e 3 ga s
      | none =>
        if d.full then (if try' then .done (writeD s e f.d [1] fun _ => []) else waitIn e (.redo 1) s)
        else if s.acquiring e.p e.pid then .stall s
        else releaseThen true .pkg e s fun t => match t.append k bs with
          | some t => .done (writeD t e f.d [0] fun _ => [])
          | none => waitIn e (.redo 1) t

/-- DEAL (R307). -/
def execDeal (f : Full) (s : State) : Out := issueUnit 1 (formDeal f) none (whenExec (dealBody false f)) f s
/-- DEAL `.try` (R307). -/
def execDealTry (f : Full) (s : State) : Out := issueUnit 1 (formDeal f) none (whenExec (dealBody true f)) f s

/-! ## Steps -/

/-- DECK_REQUEST (R301, R306, R308): the next request reaches the controller and is served, or a DRAW waits; a DRAWT waits while an entry
that is left over for it, or for one ahead of it, cannot be read yet. -/
def execDeckRequest (slot deck : Nat) (s : State) : Out :=
  let k := deckKey slot deck
  match s.decks.get k with
  | none => .next s
  | some d => match d.inbox with
    | [] => .next (s.deckOn k)
    | op :: rest =>
      let s := { s with decks := s.decks.set k { d with inbox := rest } }
      let say (r : DeckReply) : Out := .next { s with deckOps := s.deckOps.upd op fun o => { o with reply := some r } }
      match s.deckOps.get op with
      | none => .next s
      | some o => match o.kind with
        | .st => say (.status d.status)
        | .draw => .next (({ s with decks := s.decks.upd k fun d => { d with waiting := d.waiting ++ [op] } }).serveAll k)
        | .drawt =>
          let later : Out := .next { s with decks := s.decks.set k d }
          if d.ready.length ≤ d.waiting.length then say .empty
          else if !d.waiting.isEmpty then later
          else match s.assign k op with
            | some t => .next t
            | none => later

/-- The registers that a reply writes (R305, R306, R308). -/
def deckWords (kind : DeckKind) : DeckReply → List Word
  | .entry bs => (match kind with
      | .drawt => [0]
      | _ => []) ++ bytesWords 12 bs
  | .empty => (1 : Word) :: List.replicate 12 0
  | .status v => toWords 2 v
  | .fault _ => []

/-- DECK_PAYLOAD_ARRIVAL (R302, R305, R306, R308): a reply arrives; one with an entry is an acquire at `.pkg`. -/
def execDeckPayloadArrival (op : Nat) (s : State) : Out :=
  match s.deckOps.get op with
  | none => .next s
  | some o => match o.reply with
    | none => .next s
    | some r =>
      let s := { s with deckOps := s.deckOps.del op }
      let mine := match s.ply? o.pid with
        | some p => p.uid == o.uid
        | none => false
      if !mine then .next s
      else match r with
        | .fault sub => .next (s.faultS o.pid op (faultRecord sub (codeOff (s.ctx o.slot) o.pc.toNat)) o.dst (if o.kind = .drawt then 13 else 12))
        | .entry bs => .next ((s.arriveS o.pid op o.dst (deckWords o.kind (.entry bs))).acqBegin op o.pid .pkg false)
        | .empty => .next (s.arriveS o.pid op o.dst (deckWords o.kind .empty))
        | .status v => .next ((s.arriveS o.pid op o.dst (toWords 2 v)).completeOp o.pid op)

/-- GATE_RETEST (R301): the entries whose barriers have completed a phase, in deal order. -/
def execGateRetest (slot deck : Nat) (s : State) : Out :=
  let k := deckKey slot deck
  match s.decks.get k with
  | none => .next s
  | some d =>
    let order := (List.range d.held).map fun j => (d.head + j) % d.size
    let due := order.filter fun i => match d.slots.get i with
      | some x => x.st == .waiting && x.due
      | none => false
    .next ((due.foldl (fun s i => s.testSlot k i) s).deckOn k)

/-- HOST_DEAL (R302, R303): a write to the ENTRY register of a deck window; one whose line is held waits its turn. -/
def execHostDeal (slot deck : Nat) (bytes : List Byte) (s : State) : Out :=
  s.served (
    let k := deckKey slot deck
    match s.decks.get k with
    | none => .next s
    | some d =>
      if !d.hostw then .next s
      else if d.full || bytes.length ≠ 64 || (gateBad bytes).isSome then
        .next { s with decks := s.decks.set k { d with drops := min (2 ^ 32 - 1) (d.drops + 1) } }
      else
        let later : Out := .next { s with decks := s.decks.set k { d with deals := d.deals ++ [bytes] } }
        if !d.deals.isEmpty then later
        else match s.append k bytes with
          | some t => .next t
          | none => later)

/-- DROPS_READ (R303): the read returns DROPS and clears it. -/
def execDropsRead (slot deck : Nat) (s : State) : Out :=
  s.served (
    let k := deckKey slot deck
    match s.decks.get k with
    | none => .next { s with pcieOut := s.pcieOut ++ [.completion (leBytes 4 0)] }
    | some d =>
      let v := if d.hostw then d.drops else 0
      .next { s with pcieOut := s.pcieOut ++ [.completion (leBytes 4 v)],
                     decks := s.decks.set k (if d.hostw then { d with drops := 0 } else d) })

end Sys2Proof.Machine
end

