-- ==== Sys2Proof/Machine/Work.lean ====
section
/-! DEFINITION. The work engine: launch packets and their validation (R289 to R291, R298), placement (R84, R292, R293), quotas (R296,
R297), INTCFG (R415), and the commands PREEMPT, STOP and RESTORE with the save of each core and the restore of each skein
(R310 to R321). -/

namespace Sys2Proof.Machine

/-! ## Sizes of records (R316 to R320) -/

/-- Round up to a multiple. -/
def alignUp (n k : Nat) : Nat := (n + k - 1) / k * k
/-- Skeins of a context: K times n (R292). -/
def ctxSkeins (c : Ctx) : Nat := pktSkeins c * (pktCores c).length
/-- Bytes of the header of a save area (R316). -/
def headerBytes (c : Ctx) : Nat := alignUp (0x80 + 8 * ctxSkeins c) 4096
/-- TSZ of R320. -/
def threadBytes (c : Ctx) : Nat := 64 + alignUp (17 * pktRegs c) 256 / 4
/-- The largest record of a skein without its plies and copies (R318). -/
def skeinMax (c : Ctx) : Nat :=
  0x900 + pktPlies c * pktWidth c * threadBytes c + 4 * pktAcc c * 16384 + pktLocal c * 4096
/-- CTXSZ (R288): every skein's record, with as many plies on each core as the quota allows, each with every copy that its two
classes hold. -/
def State.ctxBytes (s : State) (slot : Nat) : Nat :=
  let c := s.ctx slot
  headerBytes c + ((pktCores c).map fun core =>
    pktSkeins c * (alignUp (skeinMax c) 4096 + 4096) + 4 * (s.quotaOf slot core % 64) * (2048 + 126 * 512)).sum

/-! ## Resources (R10, R84, R296, R297) -/

/-- Registers that a skein's plies need on a partition (R84). -/
def needRegs (c : Ctx) (part : Nat) : Nat := launchPlies c part * pktWidth c * pktRegs c
/-- Threads of a skein. -/
def needThreads (c : Ctx) : Nat := pktPlies c * pktWidth c

/-- What is in use on a core, or what a skein needs there: plies and registers by partition, shared segments, tile commitment and threads. -/
structure Use' where
  plies   : Nat → Nat
  regs    : Nat → Nat
  segs    : Nat
  acc     : Nat
  threads : Nat

/-- Nothing is in use. -/
def Use'.none : Use' := { plies := fun _ => 0, regs := fun _ => 0, segs := 0, acc := 0, threads := 0 }

/-- What a skein of a context needs to be placed (R84, R292). -/
def launchNeed (c : Ctx) : Use' :=
  { plies := launchPlies c, regs := needRegs c, segs := pktLocal c, acc := pktAcc c, threads := needThreads c }

/-- A need fits a core's resources beside what is in use, with `segs` segments free (R10, R84). -/
def fitsCore (n u : Use') (segs : Nat) : Bool :=
  ((List.range 4).all fun q => u.plies q + n.plies q ≤ 32 && u.regs q + n.regs q ≤ 65536) &&
  n.segs ≤ segs && u.acc + n.acc ≤ 16 && u.threads + n.threads ≤ 2048

/-- A need fits its context's quota on a core beside what the context uses (R296, R297). -/
def fitsQuota (n u : Use') (q : Nat) : Bool :=
  ((List.range 4).all fun p => u.plies p + n.plies p ≤ fld q 5 0 && u.regs p + n.regs p ≤ fld q 11 6 * 2048) &&
  u.segs + n.segs ≤ fld q 21 12 && u.acc + n.acc ≤ fld q 26 22

/-- Threads of a skein's bobbins on a partition. -/
def State.filedOn (s : State) (k part : Nat) : Nat :=
  ((s.part part).bobbins.map fun b => if b.2.skein = k then b.2.threads.length else 0).sum
/-- Plies of a skein on a partition, with those that ended in this clock, whose slots and registers return at its end (R85). -/
def State.skeinPlies (s : State) (k part : Nat) : Nat :=
  (s.plies.filter fun e => plyPartKey e.1 == part && e.2.skein == k).length + (s.gone.filter fun e => plyPartKey e.1 == part && e.2 == k).length
/-- Registers that a skein's threads hold on a partition (R85, R97): those of its plies and of its threads in bobbins, which are never
more than it was placed with. -/
def State.regsOn (s : State) (k part : Nat) : Nat :=
  let c := s.ctx (k / 2 ^ 18)
  min (needRegs c (part % 4)) ((s.skeinPlies k part * pktWidth c + s.filedOn k part) * pktRegs c)

/-- What the skeins of one context, or of all, use on a core; a skein that ended in this clock still holds its plies' slots and registers
(R85). -/
def State.usedOn (s : State) (core : Nat) (slot : Option Nat) : Use' :=
  let ok (x : Nat) : Bool := match slot with
    | some y => x == y
    | none => true
  let sks := s.skeins.filter fun e => e.2.core == core && ok e.2.ctx
  let ended := ((s.gone.filter fun e => plyCore e.1 == core && ok (e.2 / 2 ^ 18) && (s.skeins.get e.2).isNone).map Prod.snd).eraseDups
  let ks := sks.map Prod.fst ++ ended
  { plies := fun q => (ks.map fun k => s.skeinPlies k (core * 4 + q)).sum
    regs := fun q => (ks.map fun k => s.regsOn k (core * 4 + q)).sum
    segs := (sks.map fun e => e.2.segs.length).sum
    acc := (sks.map fun e => pktAcc (s.ctx e.2.ctx)).sum
    threads := (sks.map fun e => needThreads (s.ctx e.2.ctx)).sum }

/-- The free segments of a core, the lowest first (R158, R419). -/
def State.freeSegments (s : State) (core : Nat) : List Nat :=
  (List.range 512).filter fun n => (s.seg (core * 512 + n)).cond == .free && !(s.seg (core * 512 + n)).retired

/-- A skein of a slot fits on a core now (R84). -/
def State.fitsNow (s : State) (slot core : Nat) : Bool :=
  let n := launchNeed (s.ctx slot)
  fitsCore n (s.usedOn core none) (s.freeSegments core).length &&
  fitsQuota n (s.usedOn core (some slot)) (s.quotaOf slot core)

/-! ## Launch packets (R289 to R291, R298) -/

/-- The bits that R289 gives as 0. -/
def pktZero (c : Ctx) : Bool := pktFld c 127 124 == 0 && pktFld c 255 251 == 0 && pktFld c 319 312 == 0

/-- The deck that a descriptor describes: none without VALID; the second component says that it breaks R298. -/
def deckOf (x : Nat) : Option Deck × Bool :=
  if !bit x 63 then (none, false)
  else
    let d : Deck := { ring := fld x 55 0, log2n := fld x 60 56, hostw := bit x 61, devdeal := bit x 62, head := 0, tail := 0, slots := [],
                      ready := [], inbox := [], waiting := [], gerr := false, drops := 0, deals := [] }
    (some d, d.ring % 64 ≠ 0 || 2 ^ 48 ≤ d.ring || d.log2n < 2 || 16 < d.log2n || fld x 127 64 ≠ 0)

/-- The decks of a slot's table (R298): none while a line is held; the second component says that it cannot be read or breaks
R298. -/
def State.readDecks (s : State) (slot : Nat) : State × Option (Tbl Deck × Bool) :=
  let g := s.deckAgent slot
  (List.range 64).foldl (fun (acc : State × Option (Tbl Deck × Bool)) d => match acc.2 with
    | some (t, false) => match acc.1.engRead g [] (pktDeckt (s.ctx slot) + 16 * d) 16 with
      | (s, .wait) => (s, none)
      | (s, .ok bs) => match deckOf (leNat bs) with
        | (_, true) => (s, some (t, true))
        | (none, _) => (s, some (t, false))
        | (some k, _) =>
          let asks : List ProbeAsk := (pageStarts k.ring (64 * 2 ^ k.log2n)).map fun a => { ga := a, write := true, host := false, nl := 15 }
          let (s, bad) := s.probeAll g asks
          (s, some (t.set (deckKey slot d) k, !bad.isEmpty))
      | (s, _) => (s, some (t, true))
    | _ => acc) (s, some ([], false))

/-- LERR before the deck table is read (R291): 0 when these checks pass. -/
def State.validate (s : State) (slot : Nat) : Nat :=
  let c := s.ctx slot
  if !pktZero c then 1
  else if 23 < pktFld c 116 112 then 2
  else if pktPlies c ≤ pktProd c then 3
  else if 512 < pktLocal c || 16 < pktAcc c || pktBobage c < 16 then 4
  else if pktFld c 178 172 = 0 then 5
  else if pktCmask c = 0 then 6
  else if s.mgmt.reduced && (pktCores c).any fun n => 96 ≤ n then 9
  else if (pktCores c).all fun n => fitsCore (launchNeed c) Use'.none 512 && fitsQuota (launchNeed c) Use'.none (s.quotaOf slot n) then 0
  else 7

/-- What an accepted packet resets in its slot (R290, R299, R366). -/
def State.slotFresh (s : State) (slot : Nat) : State :=
  { s with decks := s.decks.filter fun e => e.1 / 64 != slot
           deckOps := s.deckOps.filter fun e => e.2.slot != slot
           gslots := s.gslots.filter fun e => e.1 / 256 != slot
           groups := s.groups.filter fun e => e.1 / 1024 != slot
           tidc := s.tidc.filter fun e => e.1 / 4096 % 256 != slot
           shadow := s.shadow.filter fun e => e.1 % 256 != slot }

/-- A sticky bit of CTXSTAT is set, and its MSI-X signalled (R442). -/
def State.ctxFlag (s : State) (slot : Nat) (f : Ctx → Ctx) : State := (s.updCtx slot f).msix slot
/-- CERR (R288). -/
def State.cerr (s : State) (slot : Nat) : State := s.ctxFlag slot fun c => { c with cerr := true }

/-- A run of R424 is under way. -/
def State.ckRunning (s : State) : Bool := s.ck.st == 1

/-- A context that starts takes the pod phases that other packages reported before it did (R122). -/
def State.podEarlyTake (s : State) (slot : Nat) : State :=
  let ctxid := pktCtxid (s.ctx slot)
  let xs := s.podEarly.filter fun x => x.1 == ctxid
  if xs.isEmpty then s
  else { (s.updCtx slot fun c => { c with bars := c.bars.set (barKey .pod 0) { PlyBar.launch with reports := xs.map Prod.snd } }) with
    podEarly := s.podEarly.filter fun x => x.1 != ctxid }

/-- ACCEPT A LAUNCH PACKET (R290, R291): the packet takes the slot and is validated. A context that starts fetches its code as it stands then
(R193). -/
def State.acceptPacket (s : State) (slot : Nat) (x : Line) : State :=
  let (n, s') := (s.slotFresh slot).freshOp
  let s1 := s'.updCtx slot fun c => { c with st := .idle, pkt := x, order := n, stopc := 0, bars := [], placed := [], ended := [], lerr := 0 }
  let fail (s : State) (k : Nat) : State := s.ctxFlag slot fun c => { c with lerr := k }
  match s1.validate slot with
  | 0 => match s1.readDecks slot with
    | (_, none) => s
    | (t, some (_, true)) => fail t 8
    | (t, some (ds, false)) =>
      let t := { t with decks := ds.foldl (fun (m : Tbl Deck) (e : Nat × Deck) => m.set e.1 e.2) t.decks }
      ((t.updCtx slot fun c => { c with st := .running, size := t.ctxBytes slot }).codeFresh (t.slotAsid slot)).podEarlyTake slot
  | k => fail s1 k

/-- LAUNCH_PACKET_WRITE (R290, R291, R424, R440). -/
def execLaunchPacketWrite (slot : Nat) (bytes : List Byte) (s : State) : Out :=
  s.served (
    if 256 ≤ slot then .next s
    else s.inTurn (.packet slot bytes) s.ckRunning (
      if bytes.length ≠ 64 then .next (s.ctxFlag slot fun c => { c with lpart := true })
      else match (s.ctx slot).st with
        | .idle => .next (s.acceptPacket slot (lineOf bytes))
        | .done => .next (s.acceptPacket slot (lineOf bytes))
        | _ => .next (s.ctxFlag slot fun c => { c with lbusy := true })))

/-! ## Placement (R84, R292, R293) -/

/-- The next skein of a slot for a core: the lowest of its skeins not placed (R292). -/
def nextSkein (c : Ctx) (core : Nat) : Option Nat :=
  let cores := pktCores c
  match cores.findIdx? (· == core) with
  | none => none
  | some i => ((List.range (pktSkeins c)).map fun k => i + cores.length * k).find? fun x => !c.placed.contains x

/-- Place ply p of a skein on the lowest free slot of its partition (R83, R293). -/
def State.placePly (s : State) (core slot key p : Nat) : State :=
  let c := s.ctx slot
  let part := core * 4 + p % 4
  match s.freeSlot part with
  | none => s
  | some n =>
    let (uid, s) := s.freshOp
    let w := pktWidth c
    let ply : Ply :=
      { uid := uid, ctx := slot, skein := key, idx := p, width := w, lanes := (List.range w).map fun l => some (p * w + l), sregs := [],
        root := maskOf (List.range w), ents := [], hnd := none, csr := Csrs.launch, prod := p == pktProd c, yld := false, ops := [],
        conds := [], unres := 0, age := s.clock, starve := 0, hold := none, ripe := false, wait := none, podStore := false, stopped := false,
        drawnAt := none }
    s.setPly (part * 32 + n) ply

/-- PLACE A SKEIN on a core (R29, R83, R292, R293): segments that read 0, threads at the entry PC, and every ply at once. -/
def State.placeSkein (s : State) (slot core idx : Nat) : State :=
  let c := s.ctx slot
  let key := skeinKey slot idx
  let segs := (s.freeSegments core).take (pktLocal c)
  let (n, s) := s.freshOp
  let sk : Skein :=
    { ctx := slot, idx := idx, core := core,
      threads := (List.range (needThreads c)).map fun t => (t, { pc := BitVec.ofNat 56 (pktEntry c), regs := [], ra := [], rsn := 0 }),
      sregs := [], bar := PlyBar.launch, segs := segs, tiles := [], order := n }
  let s := segs.foldl (fun s g => (s.lsZero (segBase (core * 512 + g)) 4096).updSeg (core * 512 + g) fun x =>
    { Seg.reset with cond := .shared key, retired := x.retired }) s
  let s := { s with skeins := s.skeins.set key sk }
  let s := s.updCtx slot fun c => { c with placed := c.placed ++ [idx] }
  (List.range (pktPlies c)).foldl (fun s p => s.placePly core slot key p) s

/-- Place the skeins of one context on a core in order, while they fit (R292). -/
def State.placeFor (s : State) (core slot : Nat) : Nat → State
  | 0 => s
  | n + 1 => match nextSkein (s.ctx slot) core with
    | some idx => if s.fitsNow slot core then State.placeFor (s.placeSkein slot core idx) core slot n else s
    | none => s

/-- The contexts with skeins to place on a core, by decreasing PRIO and then in order of acceptance (R292). -/
def State.launchOrder (s : State) (core : Nat) : List Nat :=
  let cs := s.ctxs.filter fun e => e.2.st == .running && (nextSkein e.2 core).isSome
  (sortBy (fun e => 15 - pktPrio e.2) (sortBy (fun e => e.2.order) cs)).map Prod.fst

/-- SKEIN_PLACEMENT (R292). -/
def execSkeinPlacement (core : Nat) (s : State) : Out :=
  .next ((s.launchOrder core).foldl (fun s slot => s.placeFor core slot 128) s)

/-! ## Quotas and INTCFG (R296, R297, R415) -/

/-- The segments that a quota entry grants on a core. -/
def grantOf (core q : Nat) : List Nat := (List.range (fld q 45 36)).map fun i => core * 512 + fld q 35 27 + i

/-- A quota write is refused (R297, R419). -/
def State.quotaBad (s : State) (slot core v : Nat) : Bool :=
  (match (s.ctx slot).st with
    | .running => true | .saving => true | .restoring => true | _ => false) ||
  32 < fld v 5 0 || 32 < fld v 11 6 || 512 < fld v 21 12 || 16 < fld v 26 22 || 512 < fld v 45 36 ||
  512 < fld v 35 27 + fld v 45 36 ||
  (grantOf core v).any fun g => (s.seg g).cond != .scratch slot && ((s.seg g).cond != .free || (s.seg g).retired)

/-- A segment that is given up is a subscriber of no home any more (R160, R162); its own subscribers keep what they have applied, each as a
segment in state O (DESIGN CHOICE, log entry 152). -/
def State.unsubscribe (s : State) (g : Nat) : State :=
  let own (x : Seg) : Seg :=
    if x.st = .s && x.home = g then { x with st := .o, subs := [], seqs := x.applied, msgs := [], applied := [] } else x
  { s with segs := s.segs.mapVals fun _ x => own { x with subs := x.subs.filter (· != g) } }

/-- QUOTA_WRITE (R296, R297): new segments read 0, and those given up lose their contents. -/
def execQuotaWrite (slot core : Nat) (v : DWord) (s : State) : Out :=
  s.served (
    if 256 ≤ slot || 192 ≤ core then .next s
    else if s.quotaBad slot core v.toNat then .next (s.ctxFlag slot fun c => { c with qerr := true })
    else
      let key := slot * 192 + core
      let w : DWord := v &&& BitVec.ofNat 64 (2 ^ 46 - 1)
      let old := grantOf core (s.quotaOf slot core)
      let new := grantOf core w.toNat
      let s := { s with quota := if w = 0 then s.quota.del key else s.quota.set key w }
      let s := (old.filter fun g => !new.contains g).foldl (fun s g => ((s.unsubscribe g).lsZero (segBase g) 4096).updSeg g fun x =>
        { Seg.reset with retired := x.retired }) s
      .next ((new.filter fun g => !old.contains g).foldl (fun s g => (s.lsZero (segBase g) 4096).updSeg g fun x =>
        { Seg.reset with cond := .scratch slot, st := .o, retired := x.retired }) s))

/-- INTCFG_WRITE (R415). -/
def execIntcfgWrite (slot : Nat) (v : Word) (s : State) : Out :=
  s.served (
    let x := v.toNat
    let sh := fld x 4 0
    if 256 ≤ slot then .next s
    else if fld x 9 8 = 3 || (1 ≤ sh && sh ≤ 3) || 16 < sh then .next (s.cerr slot)
    else .next (s.updCtx slot fun c => { c with intcfg := v &&& 0x31F }))

/-! ## Commands (R288, R310, R311, R315, R321) -/

/-- A partition that holds a ply of a slot and has not used its issue slot of this clock. -/
def State.slotDue (s : State) (slot : Nat) : Option Nat :=
  ((s.plies.filter fun e => e.2.ctx == slot).map fun e => plyPartKey e.1).eraseDups.find? s.mayIssue

/-- PREEMPT (R288, R311). The issue slots of this clock come first, so that a trap in it precedes the request (R110). -/
def execPreempt (slot : Nat) (s : State) : Out :=
  s.served (
    if 256 ≤ slot then .next s
    else if (s.ctx slot).st = .running && s.saveUsable slot then match s.slotDue slot with
      | some part => .next { s with agenda := .issue part :: .event (.preempt slot) :: s.agenda }
      | none => .next (s.stopCtx slot 0)
    else .next (s.cerr slot))

/-- STOP (R288, R321): from SAVED the slot is STOPPED at once. -/
def execStop (slot : Nat) (s : State) : Out :=
  s.served (
    if 256 ≤ slot then .next s
    else if !s.saveUsable slot then .next (s.cerr slot)
    else match (s.ctx slot).st with
      | .running => .next (s.stopCtx slot 3)
      | .saved => .next (s.ctxFlag slot fun c => { c with st := .stopped, stopc := 3 })
      | _ => .next (s.cerr slot))

/-- The saved skeins of a slot. -/
def State.savedOf (s : State) (slot : Nat) : Tbl Saved := s.saved.filter fun e => e.2.skein.ctx == slot

/-- A restore ends when no skein of the slot is away (R287, R315); a context all of whose skeins had ended is then DONE (R295). -/
def State.restoreEnd (s : State) (slot : Nat) : State :=
  if (s.ctx slot).st = .restoring && (s.savedOf slot).isEmpty then
    (s.updCtx slot fun c => { c with st := .running }).tryDone slot
  else s

/-- RESTORE (R288, R315): the context starts again, with its code as it stands now (R193); it is held during a checkpoint run (R424). -/
def execRestore (slot : Nat) (s : State) : Out :=
  s.served (
    if 256 ≤ slot then .next s
    else s.inTurn (.restore slot) s.ckRunning (
      if (s.ctx slot).st = .saved then
        .next (((s.updCtx slot fun c => { c with st := .restoring }).codeFresh (s.slotAsid slot)).restoreEnd slot)
      else .next (s.cerr slot)))

/-! ## The records (R316 to R320) -/

/-- Little-endian fields of given sizes, in order. -/
def fields (xs : List (Nat × Nat)) : List Byte := xs.flatMap fun x => leBytes x.1 x.2
/-- Zero bytes. -/
def zeros (n : Nat) : List Byte := List.replicate n 0
/-- Extend with zero bytes to a length. -/
def padTo (n : Nat) (bs : List Byte) : List Byte := bs ++ zeros (n - bs.length)

/-- The code of a register state (R29). -/
def rstCode : RSt → Nat
  | .full => 0
  | .empty => 1
  | .faulted => 2

/-- The values of registers n to n + k - 1, and their states packed (R29). -/
def regBytes (r : Regs) (n k : Nat) : List Byte × Nat :=
  ((List.range k).flatMap fun i => wordBytes (r.reg (n + i)).val,
   ((List.range k).map fun i => rstCode (r.reg (n + i)).st * 4 ^ i).sum)

/-- The header (R316). -/
def State.headerOf (s : State) (slot used : Nat) : List Byte :=
  let c := s.ctx slot
  let off (i : Nat) : Nat := match s.saved.get (skeinKey slot i) with
    | some v => v.base
    | none => 0
  fields [(4, 1), (4, ctxSkeins c), (8, used)] ++ lineBytes c.pkt ++ zeros 48 ++
    (List.range (ctxSkeins c)).flatMap fun i => leBytes 8 (off i)

/-- The level code of a barrier wait (R40, R319). -/
def levelCode : Scope → Nat
  | .core => 0 | .quad => 1 | .die => 2 | .pkg => 3 | .pod => 4

/-- A ply record (R319). -/
def State.plyRecord (s : State) (v : Saved) (pid : Nat) (p : Ply) : List Byte :=
  let wait := match p.wait with
    | some (.bar l t) => t.toNat + levelCode l * 2 ^ 32 + 2 ^ 35
    | _ => 0
  let cond := match p.conds with
    | c :: _ => c.va % 2 ^ 56 + c.sub * 2 ^ 56
    | [] => 0
  let here := s.plies ++ (s.savedOf v.skein.ctx).flatMap fun e => e.2.plies
  let rank := (here.filter fun e => plyPartKey e.1 == plyPartKey pid && (e.2.age < p.age || (e.2.age == p.age && e.1 < pid))).length
  let on := p.allEnts.filter fun x => !x.spilled
  let ents := on.drop (on.length - 16)
  let (sv, ss) := regBytes p.sregs 32 96
  let c := p.csr
  fields [(4, plystVal pid p), (1, p.idx), (1, plyPart pid), (2, 0), (8, p.live.toNat), (8, p.active.toNat), (8, c.trapmask.toNat),
      (4, c.fpx.toNat), (4, c.rngseed.toNat), (4, c.rngctr.toNat), (4, c.trapcode), (4, c.trapsub), (4, deferVal p),
      (8, c.trappc.toNat), (8, c.trapsrc.toNat), (8, wait), (8, cntrVal p), (8, cond), (8, rank), (8, p.unres % 65536), (16, 0)]
    ++ sv ++ leBytes 24 ss ++ zeros 40
    ++ padTo 256 (ents.flatMap fun x => leBytes 16 (s.frameOf p x)) ++ zeros 192
    ++ (List.range 64).flatMap (fun l => leBytes 8 ((c.trapva.get l).getD 0).toNat)
    ++ (List.range 64).flatMap (fun l => leBytes 2 ((p.tidAt l).getD 0xFFFF)) ++ zeros 384

/-- Where a thread stands (R320): state, lane, place in its bobbin, slot or bobbin index, partition. -/
def threadPlace (v : Saved) (tid : Nat) : Nat × Nat × Nat × Nat × Nat :=
  match v.plies.findVal fun _ p => p.lanes.contains (some tid) with
  | some (pid, p) => (1, (p.lanes.findIdx? (· == some tid)).getD 0, 0, plySlot pid, plyPart pid)
  | none => match v.bobbins.findVal fun _ b => b.threads.any fun t => t.tid == tid with
    | some (k, b) => (2, 0, (b.threads.findIdx? fun t => t.tid == tid).getD 0, k % 16, k / 16 % 4)
    | none => (0, 0, 0, 0, 0)

/-- The record of a thread that has exited, of n registers (R320): state 0, the bytes that are 0 in every record, and bytes whose values are
free, since its registers have been returned (R85). -/
def exitedRecord (v : Saved) (n sz tid : Nat) : List Byte :=
  (List.range sz).map fun i =>
    if i = 8 || (0x30 ≤ i && i < 0x40) || 0x40 + 4 * n + n / 4 ≤ i then 0 else Config.freeByte (v.dead + tid * sz + i)

/-- A thread record (R320). -/
def threadRecord (v : Saved) (n tid : Nat) (t : Thread) : List Byte :=
  let (st, lane, pos, k, part) := threadPlace v tid
  let (rv, rs) := regBytes t.regs 0 n
  fields [(8, t.pc.toNat), (1, st), (1, lane), (2, pos), (1, k), (1, part), (1, t.ra.length), (1, t.rsn)]
    ++ padTo 32 (t.ra.reverse.flatMap fun a => leBytes 8 a.toNat) ++ zeros 16 ++ rv ++ leBytes (n / 4) rs

/-- A bobbin record (R320). -/
def State.bobbinRecord (s : State) (k : Nat) (b : Bobbin) : List Byte :=
  let age := match b.threads with
    | t :: _ => s.clock - t.clock
    | [] => 0
  fields [(8, b.pc.toNat), (4, age), (1, k / 16 % 4), (1, k % 16), (2, b.threads.length), (4, b.rngctr.toNat), (4, b.fpx.toNat),
    (4, b.rngseed.toNat), (4, 0)]

/-- The instruction of a copy-class operation. -/
def CopyOp.instr (o : CopyOp) : Instr := match o.kind with
  | .cpy => .cpy o.full
  | .cpyf _ => .cpyf o.full
  | .tcpy => .tcpy o.full
  | .rows false _ => .tgath o.full
  | .rows true _ => .tscat o.full
  | .tidld => .tidld o.full
  | .tidinv => .tidinv o.full

/-- A copy record (R320): the parcels, the slot, and bytes of the engine's own whose values are free. -/
def State.copyRecord (s : State) (o : CopyOp) : State × List Byte :=
  let n := s.free
  ({ s with free := n + 499 }, (encode o.instr).take 12 ++ [BitVec.ofNat 8 (plySlot o.pid)] ++
    (List.range 499).map fun i => Config.freeByte (n + i))

/-- The part of a skein record before its ply records (R318). -/
def skeinHead (v : Saved) (threads : Nat) (held : List Nat) : List Byte :=
  let k := v.skein
  let (sv, ss) := regBytes k.sregs 0 32
  fields [(4, k.idx), (2, k.core), (2, 0), (1, v.plies.length), (1, v.bobbins.length), (2, v.copies.length), (2, threads),
      (2, v.segs.length)]
    ++ sv ++ fields [(8, ss), (4, k.bar.phase.toNat), (4, k.bar.arrivals)] ++ held.flatMap (leBytes 2) ++ zeros 88

/-- The mask of the tiles held on a partition. -/
def tileMask (k : Skein) (q : Nat) : Nat := (((k.tiles.get q).getD []).map fun t => 2 ^ t).sum

/-- A SKEIN RECORD (R318): with a thread record for every thread that the skein was placed with. -/
def State.skeinRecord (s : State) (v : Saved) : List Byte :=
  let c := s.ctx v.skein.ctx
  skeinHead v (needThreads c) ((List.range 4).map (tileMask v.skein))
    ++ padTo 2048 (v.bobbins.flatMap fun b => s.bobbinRecord b.1 b.2)
    ++ v.plies.flatMap (fun e => s.plyRecord v e.1 e.2)
    ++ (List.range (needThreads c)).flatMap (fun tid => match v.skein.threads.get tid with
      | some t => padTo (threadBytes c) (threadRecord v (pktRegs c) tid t)
      | none => exitedRecord v (pktRegs c) (threadBytes c) tid)
    ++ v.tiles.flatMap (fun t => t.2.2.flatMap fun row => row.flatMap wordBytes)
    ++ v.segs.flatten ++ v.copies.flatMap (fun e => e.2.2)

/-- Write bytes from a line boundary by physical address under RAW (R317). -/
def State.rawWrite (s : State) (a : Nat) (bs : List Byte) : State :=
  (List.range ((bs.length + 63) / 64)).foldl (fun s i => s.hbmWrite (a / 64 + i) 0 (lineOf ((bs.drop (64 * i)).take 64))) s

/-- Read n bytes from a line boundary by physical address under RAW; none where a line is poisoned (R317). -/
def State.rawRead (s : State) (slot a n : Nat) : State × Option (List Byte) :=
  (List.range ((n + 63) / 64)).foldl (fun (acc : State × Option (List Byte)) i => match acc.2 with
    | none => acc
    | some bs => match acc.1.hbmRead (a / 64 + i) 0 (physEv (some slot) (a / 64 + i)) with
      | (t, some x) => (t, some (bs ++ lineBytes x))
      | (t, none) => (t, none)) (s, some [])

/-! ## Saving a core (R311) -/

/-- What step 2 of R311 waits for on a core is complete: operations of `cl.net` go on without the core. -/
def State.coreQuiet (s : State) (slot core : Nat) : Bool :=
  let mine (pid k : Nat) : Bool := plyCore pid == core && k == slot
  !(s.reqs.any fun e => mine e.2.pid e.2.slot && e.2.cls != .net) && !(s.mats.any fun e => mine e.2.pid e.2.slot) &&
  !(s.copies.any fun e => mine e.2.pid e.2.slot && !e.2.unread) && !(s.acqs.any fun e => e.2.core == core && e.2.slot == slot) &&
  !(s.deckOps.any fun e => mine e.2.pid e.2.slot) && !(s.trigs.any fun t => s.plies.any fun e => e.2.uid == t.uid && mine e.1 e.2.ctx) &&
  !(s.tbq.any fun u => mine u.pid u.slot && match u.eng with
    | some (_, .net) => false
    | _ => true) &&
  !(s.remote.any fun e => e.2.core == core && e.2.slot == slot && match e.2.use with
    | .mcst _ _ _ _ => true
    | _ => false)

/-- The bytes of a skein record with so many plies, tiles, segments and copies (R318). -/
def recordBytes (c : Ctx) (plies tiles segs copies : Nat) : Nat :=
  0x900 + 2048 * plies + threadBytes c * needThreads c + 16384 * tiles + 4096 * segs + 512 * copies

/-- Bytes of the record of a resident skein as it stands. -/
def State.skeinLen (s : State) (k : Nat) (sk : Skein) : Nat :=
  recordBytes (s.ctx sk.ctx) (s.plies.filter fun e => e.2.skein == k).length ((sk.tiles.map fun t => t.2.length).sum) sk.segs.length
    (s.copies.filter fun e => e.2.skein == k).length

/-- LAY OUT the save area when its first core is saved (R316, R318): the records in skein index order, each on a 4 KiB boundary. No record grows
from then on, since every ply of the context has stopped. -/
def State.layOut (s : State) (slot : Nat) : State :=
  let c := s.ctx slot
  if !c.lay.isEmpty || c.lose then s
  else
    let (l, _) := (s.skeins.filter fun e => e.2.ctx == slot).foldl (fun (acc : Tbl Nat × Nat) e =>
      (acc.1.set e.2.idx acc.2, acc.2 + alignUp (s.skeinLen e.1 e.2) 4096)) ([], headerBytes c)
    s.updCtx slot fun c => { c with lay := l }

/-- The snapshot of a skein (R318). -/
def State.snapshot (s : State) (k : Nat) (sk : Skein) : State × Saved :=
  let parts := (List.range 4).map fun q => sk.core * 4 + q
  let bobs := parts.flatMap fun p => ((s.part p).bobbins.filter fun b => b.2.skein == k).map fun b => (p % 4 * 16 + b.1, b.2)
  let cps := s.copies.filter fun e => e.2.skein == k
  let (s, recs) := cps.foldl (fun (acc : State × Tbl (CopyOp × List Byte)) e =>
    let (t, bs) := acc.1.copyRecord e.2
    (t, acc.2 ++ [(e.1, e.2, bs)])) (s, [])
  let c := s.ctx sk.ctx
  ({ s with free := s.free + needThreads c * threadBytes c },
   { base := (c.lay.get sk.idx).getD 0, dead := s.free, skein := sk, plies := s.plies.filter fun e => e.2.skein == k, bobbins := bobs, copies := recs,
     segs := sk.segs.map fun n => s.ls.read (segBase (sk.core * 512 + n)) 4096,
     tiles := (List.range 4).flatMap fun q => ((sk.tiles.get q).getD []).map fun t =>
       (q, t, (List.range 64).map fun r => s.tileRow (sk.core * 4 + q) t r) })

/-- Free what a skein holds (R311, step 6). -/
def State.vacate (s : State) (k : Nat) (sk : Skein) : State :=
  let parts := (List.range 4).map fun q => sk.core * 4 + q
  let s := s.freeSegs sk.core sk.segs
  let s := parts.foldl (fun s p => s.updPart p fun x => { x with bobbins := x.bobbins.filter fun b => b.2.skein != k }) s
  let s := { s with plies := s.plies.filter fun e => e.2.skein != k, skeins := s.skeins.del k, copies := s.copies.filter fun e => e.2.skein != k,
                    accFree := s.accFree.filter fun f => !(parts.contains f.part && ((sk.tiles.get (f.part % 4)).getD []).contains f.tile) }
  parts.foldl (fun s p => s.grantTiles p) s

/-- Take a skein off its core (R311, steps 4 to 6): its record is written to the save area, and then what it holds is freed; with `lose` nothing
is kept (R321). -/
def State.takeOff (s : State) (k : Nat) (sk : Skein) (lose : Bool) : State :=
  if lose then s.vacate k sk
  else
    let (s, v) := s.snapshot k sk
    let s := s.rawWrite ((s.ctx sk.ctx).save + v.base) (s.skeinRecord v)
    { (s.vacate k sk) with saved := s.saved.set k v }

/-- Bytes of a skein's record. -/
def State.recordLen (s : State) (v : Saved) : Nat :=
  recordBytes (s.ctx v.skein.ctx) v.plies.length v.tiles.length v.segs.length v.copies.length

/-- The bytes used of a slot's save area (R316). -/
def State.areaUsed (s : State) (slot : Nat) : Nat :=
  (s.savedOf slot).foldl (fun n e => max n (e.2.base + alignUp (s.recordLen e.2) 4096)) (headerBytes (s.ctx slot))

/-- The last core has finished (R287, R311, R316, R321): the header is written. -/
def State.saveEnd (s : State) (slot : Nat) : State :=
  let c := s.ctx slot
  if c.left.isEmpty then
    let s := if c.lose then s else s.rawWrite c.save (s.headerOf slot (s.areaUsed slot))
    s.ctxFlag slot fun c => { c with st := if c.quit then .stopped else .saved, nosave := c.nosave || c.lose }
  else s

/-- CORE_SAVE_END (R311): a core of a context that is being saved has finished its operations, written back and drained; its skeins
are taken off it. -/
def execCoreSaveEnd (slot core : Nat) (s : State) : Out :=
  let c := s.ctx slot
  if c.st != .saving || !c.left.contains core || !s.coreQuiet slot core then .next s
  else
    let (t, ok) := (s.wcDrain core fun e => e.slot == slot).l1BackAll core (s.slotAsid slot) false
    if !ok || t.wcWaiting core slot fun _ _ => true then .next t
    else
      let t := t.layOut slot
      let t := (t.skeins.filter fun e => e.2.ctx == slot && e.2.core == core).foldl (fun t e => t.takeOff e.1 e.2 c.lose) t
      .next (((t.updCtx slot fun c => { c with left := c.left.filter (· != core) }).saveEnd slot).parkCheck slot)

/-! ## Restoring a skein (R315, R317) -/

/-- A number in a record. -/
def recNat (bs : List Byte) (off n : Nat) : Nat := leNat ((bs.drop off).take n)

/-- Registers n to n + k - 1 from a record: values at `off`, states at `soff`; an EMPTY one keeps the arrival that it awaits. -/
def regsFrom (old : Regs) (bs : List Byte) (n k off soff : Nat) : Regs :=
  let states := recNat bs soff ((k + 3) / 4)
  (List.range k).foldl (fun r i =>
    let st : RSt := match states / 4 ^ i % 4 with
      | 0 => .full
      | 1 => .empty
      | _ => .faulted
    Regs.put r (n + i) { val := BitVec.ofNat 32 (recNat bs (off + 4 * i) 4), st := st,
                         pend := if st = .empty then (old.reg (n + i)).pend else none }) old

/-- A thread from its record. -/
def threadFrom (bs : List Byte) (n off : Nat) (t : Thread) : Thread :=
  let d := min 4 (recNat bs (off + 0x0E) 1)
  { pc := BitVec.ofNat 56 (recNat bs off 8), regs := regsFrom t.regs bs 0 n (off + 0x40) (off + 0x40 + 4 * n),
    ra := ((List.range d).map fun i => BitVec.ofNat 56 (recNat bs (off + 0x10 + 8 * i) 8)).reverse, rsn := recNat bs (off + 0x0F) 1 }

/-- The level of a barrier wait (R319). -/
def levelOf : Nat → Scope
  | 0 => .core | 1 => .quad | 2 => .die | 3 => .pkg | _ => .pod

/-- The open entries of a ply as its record gives them: those on chip come from their frames, the others are in memory (R94, R319). -/
def Ply.entsFrom (p : Ply) (c : Ctx) (bs : List Byte) (off : Nat) : Ply :=
  let es := p.allEnts
  let n := (es.filter fun x => !x.spilled).length - 16
  let es := es.zipIdx.map fun x =>
    let i := ((es.take x.2).filter fun y => !y.spilled).length
    if n ≤ i && !x.1.spilled then x.1.ofFrame c (recNat bs (off + 0x240 + 16 * (i - n)) 16) else x.1
  { p with ents := es.take p.ents.length, hnd := p.hnd.map fun h => { h with ents := es.drop p.ents.length } }

/-- A ply from its record (R319): what the record holds, and of the rest what the ply had; UNRES is the count that was kept while it was saved, and
a condition raised meanwhile stays as it was raised (R335, R336). -/
def plyFrom (c : Ctx) (bs : List Byte) (off : Nat) (p : Ply) : Ply :=
  let wait := recNat bs (off + 0x48) 8
  let cond := recNat bs (off + 0x58) 8
  let live := recNat bs (off + 8) 8
  let st := recNat bs off 4
  let p := p.entsFrom c bs off
  { p with
    idx := recNat bs (off + 4) 1
    prod := bit st 16
    yld := bit st 1
    hnd := if bit st 0 then p.hnd else none
    lanes := (List.range p.width).map fun l =>
      let t := recNat bs (off + 0x600 + 2 * l) 2
      if t = 0xFFFF || !bit live l then none else some t
    wait := if bit wait 35 then some (.bar (levelOf (fld wait 34 32)) (BitVec.ofNat 32 wait)) else none
    conds := match p.conds with
      | x :: xs => if recNat bs (off + 0x34) 4 = 0 then x :: xs else { x with va := fld cond 55 0, sub := fld cond 63 56 } :: xs
      | [] => []
    sregs := regsFrom p.sregs bs 32 96 (off + 0x80) (off + 0x200)
    csr := { p.csr with
      trapmask := BitVec.ofNat 64 (recNat bs (off + 0x18) 8), fpx := BitVec.ofNat 32 (recNat bs (off + 0x20) 4 % 32),
      rngseed := BitVec.ofNat 32 (recNat bs (off + 0x24) 4), rngctr := BitVec.ofNat 32 (recNat bs (off + 0x28) 4),
      trapcode := recNat bs (off + 0x2C) 4 % 2 ^ 12, trapsub := recNat bs (off + 0x30) 4 % 2 ^ 8,
      trappc := BitVec.ofNat 56 (recNat bs (off + 0x38) 8), trapsrc := BitVec.ofNat 56 (recNat bs (off + 0x40) 8),
      trapva := (List.range 64).filterMap fun l =>
        let a := recNat bs (off + 0x400 + 8 * l) 8
        if a = 0 then none else some (l, BitVec.ofNat 56 a) }
    starve := 0
    stopped := false }

/-- A bobbin from its record, with its number, and its threads from theirs (R320); its age runs on from the save. -/
def State.bobbinFrom (s : State) (bs : List Byte) (off tOff tsz threads : Nat) (b : Bobbin) : Nat × Bobbin :=
  let k := recNat bs (off + 13) 1 % 16
  let q := recNat bs (off + 12) 1 % 4
  let rec' (t i n : Nat) : Nat := recNat bs (tOff + tsz * t + i) n
  let tids := sortBy (fun t => rec' t 0x0A 2) ((List.range threads).filter fun t => rec' t 8 1 == 2 && rec' t 0x0C 1 == k && rec' t 0x0D 1 == q)
  let since (t : Nat) : Nat := ((b.threads.find? fun x => x.tid == t).map Filed.clock).getD 0 - ((b.threads.head?).map Filed.clock).getD 0
  (q * 16 + k, { b with
    pc := BitVec.ofNat 56 (recNat bs off 8)
    threads := tids.map fun t => { tid := t, clock := s.clock - recNat bs (off + 8) 4 + since t }
    rngctr := BitVec.ofNat 32 (recNat bs (off + 16) 4)
    fpx := BitVec.ofNat 32 (recNat bs (off + 20) 4 % 32)
    rngseed := BitVec.ofNat 32 (recNat bs (off + 24) 4) })

/-- What a saved skein needs on its core: the slots of its plies, the registers of their threads and of those in its bobbins, and the segments,
tiles and threads that it was placed with (R315). -/
def savedNeed (c : Ctx) (v : Saved) : Use' :=
  let on (q : Nat) : Nat := (v.plies.filter fun e => plyPart e.1 == q).length
  let filed (q : Nat) : Nat := (v.bobbins.map fun b => if b.1 / 16 = q then b.2.threads.length else 0).sum
  { plies := on, regs := fun q => min (needRegs c q) ((on q * pktWidth c + filed q) * pktRegs c), segs := v.segs.length, acc := pktAcc c,
    threads := needThreads c }

/-- What a saved skein needs is free on its core, and within the quota that its context has there now (R296, R297, R315). -/
def State.canRestore (s : State) (v : Saved) : Bool :=
  let n := savedNeed (s.ctx v.skein.ctx) v
  (v.plies.all fun e => (s.plies.get e.1).isNone && (s.gone.get e.1).isNone) && (v.tiles.all fun t => s.tileFree (v.skein.core * 4 + t.1) t.2.1) &&
  (v.bobbins.all fun b => ((s.part (v.skein.core * 4 + b.1 / 16)).bobbins.get (b.1 % 16)).isNone) &&
  fitsCore n (s.usedOn v.skein.core none) (s.freeSegments v.skein.core).length &&
  fitsQuota n (s.usedOn v.skein.core (some v.skein.ctx)) (s.quotaOf v.skein.ctx v.skein.core)

/-- The signals parked for a skein's segments are applied in arrival order (R315, step 2). -/
def State.applyParked (s : State) (k : Nat) : State :=
  let mine (u : TbUpd) : Bool := match u.ref with
    | .shared j _ => j == k && u.held.isNone
    | _ => false
  (List.range s.tbq.length).foldl (fun s _ => match s.tbq.zipIdx.find? fun x => mine x.1 with
    | some x => s.tbApply [x]
    | none => s) s

/-- Put back what a record gives of a skein, and the rest as it was saved (R315, R318 to R320). -/
def State.putBack (s : State) (k : Nat) (v : Saved) (bs : List Byte) : State :=
  let c := s.ctx v.skein.ctx
  let n := pktRegs c
  let core := v.skein.core
  let threads := needThreads c
  let pOff := 0x900
  let tOff := pOff + 2048 * v.plies.length
  let xOff := tOff + threadBytes c * threads
  let gOff := xOff + 16384 * v.tiles.length
  let cOff := gOff + 4096 * v.segs.length
  let segs := (s.freeSegments core).take v.segs.length
  let fresh : Thread := { pc := 0, regs := [], ra := [], rsn := 0 }
  let sk : Skein := { v.skein with
    sregs := regsFrom v.skein.sregs bs 0 32 0x10 0x90
    bar := { v.skein.bar with phase := BitVec.ofNat 32 (recNat bs 0x98 4), arrivals := recNat bs 0x9C 4 }
    threads := (List.range threads).filterMap fun t =>
      let off := tOff + threadBytes c * t
      if recNat bs (off + 8) 1 = 0 then none else some (t, threadFrom bs n off ((v.skein.threads.get t).getD fresh))
    segs := segs }
  let s := segs.zipIdx.foldl (fun s g => (s.lsWrite (segBase (core * 512 + g.1)) ((bs.drop (gOff + 4096 * g.2)).take 4096)).updSeg
    (core * 512 + g.1) fun x => { Seg.reset with cond := .shared k, retired := x.retired }) s
  let s := { s with skeins := s.skeins.set k sk }.applyParked k
  let s := v.tiles.zipIdx.foldl (fun s t => (List.range 64).foldl (fun s r =>
    s.setRow (core * 4 + t.1.1) t.1.2.1 r ((List.range 64).map fun i =>
      BitVec.ofNat 32 (recNat bs (xOff + 16384 * t.2 + 256 * r + 4 * i) 4))) s) s
  let s := v.bobbins.zipIdx.foldl (fun s b =>
    let (i, x) := s.bobbinFrom bs (0x100 + 32 * b.2) tOff (threadBytes c) threads b.1.2
    s.updPart (core * 4 + i / 16) fun p => { p with bobbins := p.bobbins.set (i % 16) x }) s
  let s := v.plies.zipIdx.foldl (fun s e => s.setPly e.1.1 (plyFrom c bs (pOff + 2048 * e.2) e.1.2)) s
  v.copies.zipIdx.foldl (fun s e =>
    if (bs.drop (cOff + 512 * e.2)).take 512 = e.1.2.2 then { s with copies := s.copies.set e.1.1 e.1.2.1 }
    else (s.engComplete e.1.2.1.uid e.1.1).engFault e.1.2.1.uid e.1.2.1.cls 1 0) s

/-- SKEIN_RESTORE (R315, R317): a saved skein goes back where it was. A poisoned line stops the context: what has been put back leaves its cores. -/
def execSkeinRestore (slot skein : Nat) (s : State) : Out :=
  let k := skeinKey slot skein
  match s.saved.get k with
  | none => .next s
  | some v =>
    if (s.ctx slot).st != .restoring || !s.canRestore v then .next s
    else match s.rawRead slot ((s.ctx slot).save + v.base) (s.recordLen v) with
      | (t, none) =>
        let t := (t.skeins.filter fun e => e.2.ctx == slot).foldl (fun t e => t.vacate e.1 e.2) t
        .next (t.ctxFlag slot fun c => { c with st := .stopped, stopc := 4 })
      | (t, some bs) => .next (({ (t.putBack k v bs) with saved := t.saved.del k }).restoreEnd slot)

end Sys2Proof.Machine
end

