-- ==== Sys2Proof/Machine/Fabric.lean ====
section
/-! DEFINITION. The fabric (R343 to R365): ports, lanes and retrains, routes, detours and gangs, FABCFG, MCST and its delivery, and
RFENCE. -/

namespace Sys2Proof.Machine

/-! ## Ports (R343 to R349) -/

/-- A port. -/
def State.port (s : State) (k : Nat) : Port := (s.ports.get k).getD Port.reset
/-- Change a port. -/
def State.updPort (s : State) (k : Nat) (f : Port → Port) : State := { s with ports := s.ports.set k (f (s.port k)) }
/-- Lanes that transmit and work. -/
def Port.txLanes (p : Port) : Nat := popN 8 (p.tx &&& p.ok)
/-- Lanes that receive and work. -/
def Port.rxLanes (p : Port) : Nat := popN 8 (p.rx &&& p.ok)
/-- A port sends: up, with all or fewer of its lanes, or while only the lanes that it receives on retrain, which leaves its own traffic as it was
(R345, R348). -/
def Port.up (p : Port) : Bool := p.st == 2 || p.st == 3 || (p.st == 4 && !p.rtx)
/-- ST of a port whose lanes are trained: 2, or 3 with fewer lanes than trained. -/
def Port.upSt (p : Port) : Nat := if p.txLanes = p.txw && p.rxLanes = p.rxw then 2 else 3
/-- Port 23 runs in standard mode (R344). -/
def State.p23std (s : State) : Bool := bit s.mgmt.fabcfg.toNat 19

/-- What the data link of a port has not had acknowledged goes ahead of every later packet, with the hop that it did not take given back (R354, R356);
how many of the packets sent it has acknowledged is a free value. Standard mode has no detour: what its link has taken stays with it (R344). -/
def State.takeBack (s : State) (k : Nat) : State :=
  if k = 23 && s.p23std then s
  else
  let w := (s.port k).wire
  let (n, s) := if w.isEmpty then (0, s) else
    let (i, s) := s.drawFree
    (Config.freeNat i % (w.length + 1), s)
  { (s.updPort k fun p => { p with wire := [], det := true }) with fabOut := (w.drop n).map (fun q => { q with hop := q.hop - 1 }) ++ s.fabOut }

/-- A port fails (R343, R355): its traffic takes the detour; firmware's fabric event is MSI-X 257 (R442). -/
def State.portFail (s : State) (k : Nat) : State :=
  ((s.takeBack k).updPort k fun p => { p with st := 0, rtx := false, fail := true, row := 0 }).msix 257

/-- PORT_FAIL (R355, R356). -/
def execPortFail (port : Nat) (s : State) : Out :=
  if 24 ≤ port || (s.port port).st = 0 then .next s else .next (s.portFail port)

/-- FLIT_REPLAY (R343, R348): a flit is replayed, for the first time or because its replay has failed; the eighth failure in a row fails the port. -/
def execFlitReplay (x : ReplayAt) (s : State) : Out :=
  let port := x.port
  if 24 ≤ port || !(s.port port).up then .next s
  else
    let s := s.updPort port fun p => { p with replay := min 0xFFFF (p.replay + 1), row := if x.again then p.row + 1 else 0 }
    .next (if 8 ≤ (s.port port).row then s.portFail port else s)

/-- A port retrains, or fails where a direction has no working lane left (R345, R346). With `tx` its transmit direction does, and its traffic takes
the detour. -/
def State.retrain (s : State) (k : Nat) (tx : Bool) : State :=
  let p := s.port k
  if p.st < 2 then s
  else if p.txLanes = 0 || p.rxLanes = 0 then s.portFail k
  else if tx then (s.takeBack k).updPort k fun p => { p with st := 4, rtx := true }
  else s.updPort k fun p => { p with st := 4 }

/-- LANE_FAIL (R345, R346): the lane is dropped at once, and its direction retrains. -/
def execLaneFail (port lane : Nat) (s : State) : Out :=
  if 24 ≤ port || 8 ≤ lane || !bit (s.port port).ok lane then .next s
  else .next ((s.updPort port fun p => { p with ok := p.ok - 2 ^ lane }).retrain port (bit (s.port port).tx lane))

/-- LANE_TURN (R347). -/
def execLaneTurn (port lane : Nat) (s : State) : Out :=
  let p := s.port port
  if 24 ≤ port || 8 ≤ lane || !bit s.mgmt.fabcfg.toNat 18 || (port = 23 && s.p23std) || p.st < 2 || !bit p.ok lane then .next s
  else if bit p.tx lane then
    if 4 ≤ p.rxLanes then .next s
    else .next ((s.updPort port fun p => { p with tx := p.tx - 2 ^ lane, rx := p.rx ||| 2 ^ lane }).retrain port true)
  else if bit p.rx lane then
    if 4 ≤ p.txLanes then .next s
    else .next ((s.updPort port fun p => { p with rx := p.rx - 2 ^ lane, tx := p.tx ||| 2 ^ lane }).retrain port true)
  else .next s

/-- The lowest n set bits of an 8-bit mask. -/
def lowBits (m n : Nat) : Nat := (((List.range 8).filter m.testBit).take n).foldl (fun a i => a + 2 ^ i) 0
/-- The lanes of a direction that standard mode uses of those that work: four, two or one (R344). -/
def stdLanes (m : Nat) : Nat := lowBits m (if 4 ≤ popN 8 m then 4 else if 2 ≤ popN 8 m then 2 else 1)
/-- The lanes of a port at the end of a training or retrain: all that work or, in standard mode, as many as a standard width has (R344, R345). -/
def Port.fitLanes (p : Port) (std : Bool) (width : Nat) : Port :=
  let fit (m : Nat) : Nat := stdLanes (lowBits m width)
  if std then { p with tx := fit (p.tx &&& p.ok), rx := fit (p.rx &&& p.ok) } else p

/-- RETRAIN_DONE (R346, R357): routing returns to the port. -/
def execRetrainDone (port : Nat) (s : State) : Out :=
  if (s.port port).st ≠ 4 then .next s
  else .next (s.updPort port fun p =>
    let p := p.fitLanes (port == 23 && s.p23std) (max p.txw p.rxw)
    { p with st := p.upSt, rtx := false, det := false })

/-- PORT_UP (R345, R348, R357): a port that is down trains; when training ends it is up on the lanes that work, four each way where all do. This end
transmits on lanes 0 to 3 or, as the peer's mirror, on 4 to 7. -/
def execPortUp (port pdev : Nat) (peer : PeerEnd) (s : State) : Out :=
  let p := s.port port
  if 24 ≤ port || 2 ≤ p.st || !s.hasUnit 2 then .next s
  else if !peer.ended then .next (s.updPort port fun p => { p with st := 1 })
  else
    let p1 : Port := { p with tx := if peer.low then 0x0F else 0xF0, rx := if peer.low then 0xF0 else 0x0F, ok := if p.ok = 0 then 0xFF else p.ok }
    if p1.txLanes = 0 || p1.rxLanes = 0 then .next s
    else
      let p1 := p1.fitLanes (port == 23 && s.p23std) (max 1 peer.width)
      let p2 : Port := { p1 with pdev := pdev % 2048, pport := peer.pport % 32, txw := p1.txLanes, rxw := p1.rxLanes, st := 2, rtx := false, row := 0, det := false }
      let s := { s with ports := s.ports.set port p2 }
      .next (if p.det then s.msix 257 else s)

/-- A packet that took a detour is not acknowledged end to end yet (R357). -/
def State.awayOpen (s : State) (a : Away) : Bool := match a.req with
  | some n => (s.remote.get n).isSome || (s.merges.get n).isSome || (s.sends.get n).isSome
  | none => s.clock < a.due

/-- The status register of a port (R348); a port that is down or trains has no lanes in use. -/
def State.portStatus (s : State) (k : Nat) : Nat :=
  let p := s.port k
  let det := (p.det && !p.up) || s.away.any fun a => a.port == k && s.awayOpen a
  let use' (n : Nat) : Nat := if p.st < 2 then 0 else n
  p.st + b2n p.fail <<< 3 + b2n det <<< 4 + b2n (k == 23 && s.p23std) <<< 5 + p.ok <<< 8 + use' p.rxLanes <<< 16 + use' p.txLanes <<< 20
    + use' (p.tx &&& p.ok) <<< 24 + p.replay <<< 32 + p.pport <<< 48 + p.pdev <<< 53

/-- PORT_STATUS_READ (R348): the read returns the fields and clears REPLAY. -/
def execPortStatusRead (port : Nat) (s : State) : Out :=
  s.served (
    if 24 ≤ port then .next s
    else .next { (s.updPort port fun p => { p with replay := 0 }) with
      pcieOut := s.pcieOut ++ [.completion (leBytes 8 (s.portStatus port))] })

/-- Some slot is RUNNING, SAVING or RESTORING. -/
def State.anyActive (s : State) : Bool := s.ctxs.any fun e => match e.2.st with
  | .running => true | .saving => true | .restoring => true | _ => false

/-- FABCFG_WRITE (R344, R349): refused whole with a field out of range, or when P23STD would change while a context is active. A port 23 that is up
leaves the mode it trained in and trains again (DESIGN CHOICE, log entry 153). -/
def execFabcfgWrite (v : Word) (s : State) : Out :=
  s.served (
    let x := v.toNat
    let wage := fld x 17 10
    let tout := fld x 9 0
    if wage < 1 || 128 < wage || tout < 1 || 1000 < tout || (bit x 19 != s.p23std && s.anyActive) then .next s
    else
      let t := if bit x 19 != s.p23std && (s.port 23).up then (s.takeBack 23).updPort 23 fun p => { p with st := 0, row := 0, rtx := false } else s
      .next { t with mgmt := { t.mgmt with fabcfg := v &&& 0xFFFFF } })

/-! ## Routes (R350 to R355, R357) -/

/-- The local port from member m to member n (R350). -/
def localPort (m n : Nat) : Nat := (n % 16 + 15 - m % 16) % 16
/-- k of R351 from clique c to clique d. -/
def globalK (c d : Nat) : Nat := (d + 127 - c % 128) % 128
/-- The global port toward a clique. -/
def globalPort (c d : Nat) : Nat := 15 + globalK c d % 8
/-- The route-table entry of a clique; after reset it names the gateway of R351. -/
def State.routeOf (s : State) (d : Nat) : Nat := (s.routes.get d).getD (globalK (s.mgmt.devidx / 16) d / 8)

/-- A flow (R354): class, agent and destination as one number. -/
def flowKey (p : FabPkt) : Nat :=
  ((match p.cls with
    | .mem => 0 | .rsp => 1 | .eng => 2 | .ctl => 3) * 4096 + p.agent) * 2048 + p.dst

/-- A flow with the package that it comes from. -/
def arriveKey (p : FabPkt) : Nat := flowKey p * 2048 + p.src

/-- A packet's flow has packets that took a detour around a port and are not acknowledged end to end (R357). -/
def State.flowBusy (s : State) (k : Nat) (p : FabPkt) : Bool := s.away.any fun a => a.port == k && a.flow == arriveKey p && s.awayOpen a

/-- A port can take a packet: up, and not still waited for by the flow (R357). -/
def State.usable (s : State) (k : Nat) (p : FabPkt) : Bool :=
  (s.port k).up && !s.flowBusy k p && !(k = 23 && s.p23std)

/-- The member through which traffic from a to b of one clique takes its detour (R355): the one that firmware names, else the lowest whose links to
both are up; of the far link this package sees nothing. -/
def State.detourMember (s : State) (a b : Nat) : Option Nat := match s.detours.get (a * 16 + b) with
  | some x => some (x % 16)
  | none => (List.range 16).find? fun x => x ≠ a && x ≠ b && (s.port (localPort a x)).up && Config.farLink s.clock x b

/-- The port of a hop to a member of the own clique, by the detour where the link is down (R353, R355). -/
def State.localHop (s : State) (b : Nat) (p : FabPkt) : Option Nat :=
  let a := s.mgmt.devidx % 16
  if s.usable (localPort a b) p then some (localPort a b)
  else match s.detourMember a b with
    | some x => if s.usable (localPort a x) p then some (localPort a x) else none
    | none => none

/-- The ports of a gang: those that training has joined to a device (R352). -/
def State.gangAll (s : State) (d : Nat) : List Nat :=
  (List.range 24).filter fun k => (s.port k).pdev == d && (s.port k).txw ≠ 0 && !(k = 23 && s.p23std)
/-- The port of a gang that a flow takes while all its ports stay up (R352). -/
def gangPort (ks : List Nat) (p : FabPkt) : Option Nat := ks[Config.flowHash (flowKey p) % ks.length]?
/-- The port of a gang for a packet: its flow's own, or another one that is up. -/
def State.gang (s : State) (p : FabPkt) : Option Nat :=
  let ks := s.gangAll p.dst
  match ks.filter fun k => s.usable k p with
  | [] => none
  | us => match gangPort ks p with
    | some k => if s.usable k p then some k else gangPort us p
    | none => none

/-- The hop beyond the gangs (R353): to the member `b` of the own clique, or by the global port toward a clique. -/
def State.hopOf (s : State) (dst : Nat) : Nat ⊕ Nat :=
  let here := s.mgmt.devidx
  let cd := dst / 16
  if cd = here / 16 then .inl (dst % 16)
  else
    let e := s.routeOf cd
    let tc := if bit e 11 then fld e 10 4 else cd
    let gw := fld (s.routeOf tc) 3 0
    if here % 16 = gw then .inr (globalPort (here / 16) tc) else .inl gw

/-- NEXT HOP (R352, R353): the port, none where no usable port leads on. -/
def State.nextHop (s : State) (p : FabPkt) : Option Nat := match s.gang p with
  | some k => some k
  | none => match s.hopOf p.dst with
    | .inl b => s.localHop b p
    | .inr k => if s.usable k p then some k else none

/-- The port by which a packet would leave with every link up (R352, R353). -/
def State.homePort (s : State) (p : FabPkt) : Option Nat := match gangPort (s.gangAll p.dst) p with
  | some k => some k
  | none => match s.hopOf p.dst with
    | .inl b => some (localPort (s.mgmt.devidx % 16) b)
    | .inr k => some k

/-- The number by which the source of a packet awaits its answer (R359, R362, R377, R397). -/
def awaited : FabBody → Option Nat
  | .access a => some a.req
  | .start q => some q.req
  | .eng q => some q.req
  | .msg m => some m.send
  | .mcst m => some m.req
  | _ => none

/-- A packet leaves by port k in place of port h: until it is acknowledged its flow returns to none of the ports that are down now, h among them
(R357). A packet to which this package sees no answer is acknowledged after a time that is free. -/
def State.awayFrom (s : State) (h k : Nat) (p : FabPkt) : State :=
  let old := s.away.filter s.awayOpen
  let ks := h :: (List.range 24).filter fun j => j != h && j != k && (s.port j).txw != 0 && !(s.port j).up
  let add (s : State) (req : Option Nat) (due : Nat) : State :=
    { s with away := old ++ ks.map fun j => { port := j, flow := arriveKey p, req := req, due := due } }
  match awaited p.body with
  | some n =>
    if p.src = s.mgmt.devidx then add s (some n) 0
    else let (n, s) := s.drawFree; add s none (s.clock + 1 + Config.freeNat n)
  | none => let (n, s) := s.drawFree; add s none (s.clock + 1 + Config.freeNat n)

/-- A packet leaves by a port: its own, or a detour around it, which is noted (R357). -/
def State.noteAway (s : State) (k : Nat) (p : FabPkt) : State := match s.homePort p with
  | none => s
  | some h => if h = k then s else s.awayFrom h k p

/-- A timeout has run out: it runs from the clock at which the request left the package (R338, R360). -/
def expired (left : Option Nat) (tout clock : Nat) : Bool := match left with
  | some t => t + tout ≤ clock
  | none => false

/-- A request or a SEND of this package leaves it by a port: its timeout runs from now (R338, R360, R404). -/
def State.leaves (s : State) (p : FabPkt) : State :=
  let stamp (n : Nat) : State := { s with remote := s.remote.upd n fun q => if q.host then q else { q with clock := q.clock.or (some s.clock) } }
  match p.body with
  | .mcst m => match s.merges.get m.req with
    | some g => if m.up = s.mgmt.devidx && g.up = s.mgmt.devidx then stamp g.req else s
    | none => s
  | .msg m => if p.src = s.mgmt.devidx && m.body != .void then
      { s with sends := s.sends.upd m.send fun o => if o.ph == .out then { o with clock := o.clock.or (some s.clock) } else o } else s
  | b => match awaited b with
    | some n => if p.src = s.mgmt.devidx then stamp n else s
    | none => s

/-- Put a packet on a port (R353 to R356). -/
def State.portOut (s : State) (k : Nat) (p : FabPkt) : State :=
  (s.leaves p).updPort k fun x => { x with wire := x.wire ++ [{ p with hop := p.hop + 1 }] }

/-- The endpoints that firmware bound to port 23 in standard mode (R344): bits [10:0] the device index, bit 15 that it is bound. -/
def State.boundStd (s : State) (d : Nat) : Bool := s.p23std && s.port23.any fun e => bit e.2 15 && e.2 % 2048 == d

/-- An atomic that a UALink request carries (R344). -/
def stdAtomic (aop : Nat) (ty : Ty) : Bool :=
  (aop = 0 || aop = 7 || aop = aopCas) && (match ty with
    | .s32 => true | .n32 => true | .s64 => true | .n64 => true | _ => false)

/-- A request at an offset that standard mode supports (R344): 1 to 64 bytes within one line. -/
def stdOp (off : Nat) : PodOp → Bool
  | .atomic _ o ty _ => stdAtomic o ty
  | .cas ty _ => stdAtomic aopCas ty
  | .read n => 1 ≤ n && off % 64 + n ≤ 64
  | .write bs => bs.length ≤ 64
  | .strongWrite bs => 1 ≤ bs.length && off % 64 + bs.length ≤ 64

/-! ## MCST (R361 to R363) -/

/-- The multicast group entry of a group (R361). -/
def State.mgroup (s : State) (g : Nat) : Nat := ((s.mgroups.get g).getD 0).toNat
/-- A context may use a group. -/
def State.mgroupOk (s : State) (g ctxid : Nat) : Bool := bit (s.mgroup g) 31 && fld (s.mgroup g) 47 32 == ctxid

/-- Words that MCST sends. -/
def mcstCount (f : Full) : Nat := 2 ^ mf f 26 24

/-- The group that MCST names is valid for the context (R362), before the registers (R61, R101). -/
def mcstEarly (f : Full) : Env → State → Pre := refuseIf fun e s => !s.mgroupOk (mX f) (pktCtxid (s.ctx e.p.ctx))

/-- MCST (R362): after the release of `.rel`, one packet for the group. -/
def mcstBody (f : Full) (e : Env) (s : State) : Res :=
  let g := mX f
  let ctxid := pktCtxid (s.ctx e.p.ctx)
  let off := sPairVal s e.p f.a % 2 ^ 44
  if off % (4 * mcstCount f) ≠ 0 then trapLanes 0x104 0 (e.lanes.map fun l => (l, off)) s
  else if s.acquiring e.p e.pid then .stall s
  else releaseThen (mb f 27) .pod e s fun t =>
    let core := plyCore e.pid
    let (op, t) := t.freshOp
    let (n, t) := t.freshOp
    let r : RReq := { use := .mcst op e.p.skein ((e.p.threadsOf e.exec).map Prod.snd) e.p.uid, dev := t.mgmt.devidx, off := off, clock := none, core := core, slot := e.p.ctx, pid := e.pid,
                      write := true, host := false }
    let t := { t with remote := t.remote.set n r }
    let t := t.updPly e.pid fun p => { (p.issueOp op .st) with podStore := true }
    let k : McstPkt := { dev := t.mgmt.devidx, up := t.mgmt.devidx, req := n, group := g, ctxid := ctxid,
                         load := .store off (sWords s e.p f.b (mcstCount f)) }
    .done (t.fabSend .mem core t.mgmt.devidx (.mcst k))

/-- MCST (R362). -/
def execMcst (f : Full) (s : State) : Out := issueUnitPre 2 (mcstEarly f) (formMcst f) (some .st) (whenExec (mcstBody f)) f s

/-- The words of a multicast copy reach a member (R362): translated and written as an inbound pod access, and acknowledged or refused. -/
def State.mcstWrite (s : State) (p : McstPkt) (off : Nat) (words : List Word) : State :=
  let bs := words.flatMap wordBytes
  let va := podVa off
  s.podWrite (s.whoPod p.dev p.ctxid) va (lineAt (va % 64) bs.length (leNat bs)) (byteSpan (va % 64) bs.length)
    { dev := p.up, req := p.req, ctxid := p.ctxid, off := off, op := .strongWrite bs }

/-! ## RFENCE (R364) -/

/-- A remote store, RED or multicast of the ply to a covered device is not acknowledged. -/
def State.remoteOpen (s : State) (e : Env) (cov : Nat → Bool) (mcst : Bool) : Bool :=
  (s.reqs.any fun r => r.2.uid == e.p.uid && (r.2.kind == .st || r.2.kind == .red) && r.2.parts.any fun q => match q.place with
    | .pod d _ => cov d && q.unfinished
    | _ => false) ||
  (mcst && s.remote.any fun r => match r.2.use with
    | .mcst op _ _ _ => e.p.ops.any fun o => o.id == op && !o.done
    | _ => false)

/-- RFENCE (R364); the first form ends the interval of R211. -/
def rfenceBody (one : Bool) (f : Full) (e : Env) (s : State) : Res :=
  let core := plyCore e.pid
  let dev := ((sWords s e.p f.a 1).headD 0).toNat % 2048
  let cov (d : Nat) : Bool := !one || d == dev
  let t := s.wcDrain core fun x => x.slot == e.p.ctx && cov x.dev
  if t.wcWaiting core e.p.ctx (fun d _ => cov d) || t.remoteOpen e cov (!one) then waitIn e (.redo 1) t
  else takeThen e false (fun c => isRemoteCond c.kind) (if one then t else t.updPly e.pid fun p => { p with podStore := false }) .done

/-- RFENCE (R364). -/
def execRfence (f : Full) (s : State) : Out := issueUnit 2 (formRfence f) none (whenExec (rfenceBody false f)) f s
/-- RFENCE `.one` (R364). -/
def execRfenceOne (f : Full) (s : State) : Out := issueUnit 2 (formRfence f) none (whenExec (rfenceBody true f)) f s

end Sys2Proof.Machine
end

