-- ==== Sys2Proof/Machine/Collective.lean ====
section
/-! DEFINITION. The collective engine (R366 to R389): images and their validation, calls and their start, chunk operations,
reductions, triggers, aborts, and the instructions CGLOAD, CGRUN, CGSTAT, CGABORT and CGTRIG. -/

namespace Sys2Proof.Machine

/-! ## Chunk operations as bits (R368) -/

/-- OPC. -/
def coOpc (x : Nat) : Nat := fld x 3 0
/-- DT. -/
def coDt (x : Nat) : Nat := fld x 7 4
/-- DEP. -/
def coDep (x : Nat) : Nat := fld x 15 8
/-- TAG. -/
def coTag (x : Nat) : Nat := fld x 47 40
/-- ARG. -/
def coArg (x : Nat) : Nat := fld x 63 48
/-- LEN. -/
def coLen (x : Nat) : Nat := fld x 223 192
/-- The successor entries that name an operation. -/
def coSuccs (x : Nat) : List Nat := [fld x 127 112, fld x 191 176, fld x 239 224, fld x 255 240].filter (· != 0xFFFF)
/-- The element type of a reduction's DT. -/
def coTy (x : Nat) : Ty := match coDt x with
  | 2 => .bf16
  | 3 => .s32
  | _ => .f32

/-- Validation of one operation (R370 step 2). -/
def coValid (nops nbase i x : Nat) : Bool :=
  let opc := coOpc x
  let dt := coDt x
  let len := coLen x
  opc ≤ 7 && (if opc = 2 then 1 ≤ dt && dt ≤ 5 else dt == 0) && fld x 34 32 < nbase && fld x 38 36 < nbase &&
  (coSuccs x).all (fun j => j < nops && j != i) && fld x 30 27 == 0 && !bit x 35 && !bit x 39 &&
  (if opc = 6 then coArg x != 0 else coArg x == 0) &&
  (match opc with
    | 7 => fld x 31 16 == 0 && len == 0 && 1 ≤ coDep x
    | 5 => len == 16 && fld x 31 16 == 0
    | 6 => len == 16 && fld x 31 16 == 0
    | 2 => len != 0 && len % (64 * tyBytes (coTy x)) == 0
    | _ => len != 0 && len % 32 == 0)

/-- Successor entries that name an operation, among some of the operations. -/
def namers (ops : List Nat) (from' : Nat → Bool) (j : Nat) : Nat :=
  ((ops.zipIdx.filter fun o => from' o.2).map fun o => ((coSuccs o.1).filter (· == j)).length).sum

/-- Fire the operations that the fired ones allow (R370 step 3). -/
def fireRound (ops : List Nat) (fired : List Nat) : List Nat :=
  (ops.zipIdx.filter fun o => coOpc o.1 == 7 || coDep o.1 ≤ namers ops fired.contains o.2).map Prod.snd
/-- The operations of a firing order. -/
def firing (ops : List Nat) : Nat → List Nat → List Nat
  | 0, fired => fired
  | n + 1, fired => firing ops n (fireRound ops fired)

/-- The 256 bits of the operations of an image. -/
def imageOps (bs : List Byte) (nops : Nat) : List Nat := (List.range nops).map fun i => leNat ((bs.drop (64 + 32 * i)).take 32)
/-- The length of a graph image by its header, and whether the header is valid (R367, R370 step 1). -/
def graphHead (h : Nat) : Option Nat :=
  let nops := fld h 15 0
  let nbase := fld h 23 16
  if 1 ≤ nops && nops ≤ 1024 && 1 ≤ nbase && nbase ≤ 8 && fld h 31 24 == 1 && fld h 511 32 == 0 then some (64 + 32 * nops) else none

/-- What CGLOAD's validation finds (R374): an image, or a status with its index; index none where the spec names none. -/
inductive CgRes (α : Type) where
  | ok (x : α)
  | bad (status : Nat) (idx : Option Nat)
  deriving DecidableEq, Repr

/-- VALIDATE A GRAPH IMAGE (R370, R374). -/
def graphOf (bs : List Byte) : CgRes Graph :=
  let h := leNat (bs.take 64)
  match graphHead h with
  | none => .bad 2 (some 0)
  | some n =>
    let nops := fld h 15 0
    let ops := imageOps bs nops
    match ops.zipIdx.find? fun o => !coValid nops (fld h 23 16) o.2 o.1 with
    | some o => .bad 3 (some o.2)
    | none =>
      let deps := ops.zipIdx.all fun o =>
        if coOpc o.1 = 7 then namers ops (fun _ => true) o.2 == 0 else coDep o.1 == namers ops (fun _ => true) o.2
      let fired := firing ops nops []
      let cut := (List.range nops).find? fun i => !fired.contains i
      if !deps || cut.isSome then .bad 4 cut
      else
        let abs := (ops.filter fun x => bit x 31).map fun x => fld x 26 16
        .ok { nbase := fld h 23 16, sig := crc32c (bs.take n), ops := ops, absMax := abs.foldl (fun m r => some (max r (m.getD 0))) none }

/-- The length of a group image by its header (R371). -/
def groupLen (h : Nat) : Nat := 64 + (2 * fld h 11 0 + 63) / 64 * 64

/-- VALIDATE A GROUP DESCRIPTOR (R371), and its TRICK0. -/
def State.groupOf (s : State) (ctxid : Nat) (bs : List Byte) : CgRes (Group × Nat) :=
  let h := leNat (bs.take 64)
  let n := fld h 11 0
  let ms := (List.range n).map fun i => leNat ((bs.drop (64 + 2 * i)).take 2)
  let g : Group := { mem := ms, rank := fld h 26 16, mgrp := fld h 39 32, men := bit h 47 }
  if 1 ≤ n && n ≤ 2048 && g.rank < n && fld h 15 12 == 0 && fld h 31 27 == 0 && fld h 46 40 == 0 && fld h 63 48 == 0 &&
      fld h 511 96 == 0 && ms.all (fun m => m < 2048) && decide ms.Nodup && ms[g.rank]? == some s.mgmt.devidx &&
      (!g.men || s.mgroupOk g.mgrp ctxid)
  then .ok (g, fld h 95 64) else .bad 5 (some 0)

/-! ## Slots, groups and calls -/

/-- The key of a graph slot. -/
def gslotKey (slot g : Nat) : Nat := slot * 256 + g
/-- A graph slot. -/
def State.gslot (s : State) (slot g : Nat) : GSlot := (s.gslots.get (gslotKey slot g)).getD GSlot.empty
/-- Set a graph slot. -/
def State.setGslot (s : State) (slot g : Nat) (x : GSlot) : State := { s with gslots := s.gslots.set (gslotKey slot g) x }
/-- The key of a group entry. -/
def groupKey (slot g : Nat) : Nat := slot * 1024 + g
/-- A group entry, none where it is empty. -/
def State.groupSt (s : State) (slot g : Nat) : Option GroupSt := s.groups.get (groupKey slot g)

/-- The calls that a test accepts, in the order of acceptance. -/
def State.callsOf (s : State) (ok : Call → Bool) : List (Nat × Call) := sortBy (fun e => e.2.order) (s.calls.filter fun e => ok e.2)
/-- The call of a group with a trick. -/
def State.callAt (s : State) (slot group trick : Nat) : Option (Nat × Call) :=
  s.calls.findVal fun _ c => c.slot == slot && c.group == group && c.trick == trick
/-- Change a call. -/
def State.updCall (s : State) (op : Nat) (f : Call → Call) : State := { s with calls := s.calls.upd op f }
/-- Change a chunk operation of a call. -/
def Call.updOp (c : Call) (i : Nat) (f : ChSt → ChSt) : Call :=
  { c with ops := c.ops.zipIdx.map fun x => if x.2 = i then f x.1 else x.1 }

/-- The group size. -/
def Group.size (g : Group) : Nat := g.mem.length
/-- The other ranks. -/
def Group.others (g : Group) : List Nat := (List.range g.size).filter (· != g.rank)
/-- The device of a rank. -/
def Group.dev (g : Group) (r : Nat) : Nat := (g.mem[r]?).getD 0
/-- The rank that PEER names (R368). -/
def Group.peer (g : Group) (x : Nat) : Nat := if bit x 31 then fld x 26 16 else if g.size = 0 then 0 else (g.rank + fld x 26 16) % g.size

/-- The bits of an operation of a call. -/
def Call.co (c : Call) (i : Nat) : Nat := (c.graph.ops[i]?).getD 0
/-- The progress of an operation of a call. -/
def Call.chunk (c : Call) (i : Nat) : ChSt := (c.ops[i]?).getD { cnt := 0, ph := .idle, buf := [], emax := none }
/-- The start of a source range. -/
def Call.src (c : Call) (x : Nat) : Nat := ((c.bases[fld x 34 32]?).getD 0 + fld x 111 64) % 2 ^ 56
/-- The start of a destination range. -/
def Call.tgt (c : Call) (x : Nat) : Nat := ((c.bases[fld x 38 36]?).getD 0 + fld x 175 128) % 2 ^ 56
/-- The own rank is the peer that PEER names. -/
def Call.owns (c : Call) (x : Nat) : Bool := c.grp.peer x == c.grp.rank

/-- The source range of an operation at this rank, where it has one. -/
def Call.srcRange (c : Call) (x : Nat) : Option (Nat × Nat) := match coOpc x with
  | 0 => some (c.src x, coLen x)
  | 2 => some (c.src x, coLen x)
  | 3 => if c.owns x then some (c.src x, coLen x) else none
  | 4 => some (c.src x, coLen x)
  | 5 => some (c.src x, 16)
  | _ => none
/-- The destination range of an operation at this rank, where it has one. -/
def Call.dstRange (c : Call) (x : Nat) : Option (Nat × Nat) := match coOpc x with
  | 1 => some (c.tgt x, coLen x)
  | 2 => if c.owns x then some (c.tgt x, coLen x) else none
  | 3 => if c.owns x then none else some (c.tgt x, coLen x)
  | 4 => some (c.tgt x, coLen x)
  | 6 => some (c.tgt x, 16)
  | _ => none

/-- For whom a call acts. -/
def State.callAgent (s : State) (c : Call) : Agent := s.plyAgent c.pid c.uid c.skein c.slot 3

/-- How a call's address names a barrier. -/
def State.callRef (s : State) (c : Call) (ga : Nat) : TbRef :=
  if isShared ga then .shared c.skein (ga % 2 ^ 48)
  else match s.placeIn (plyCore c.pid) c.skein c.slot ga with
    | .global va => .global va
    | .loc k off => .scratch k off
    | _ => .bad ga

/-- The call's maker as a barrier update's. -/
def State.callTb (s : State) (c : Call) (ref : TbRef) (arr : Nat) (abt : Bool) (key : Nat) : State :=
  s.tbPush { ref := ref, slot := c.slot, pid := c.pid, uid := c.uid, init := none, arr := arr, sect := 0, abt := abt,
             err := false, req := none, eng := some (key, .net), held := none }

/-- The telemetry record of a COL condition whose ply has ended (R385, R422). -/
def colRecord (pid sub va : Nat) : BitVec 256 :=
  BitVec.ofNat 256 (3 + plyCore pid <<< 16 + plyPart pid <<< 24 + (va % 2 ^ 56) <<< 64 + sub <<< 128)

/-- A ply, resident or saved, has a unique number. -/
def State.uidHere (s : State) (uid : Nat) : Bool := s.plies.any (fun e => e.2.uid == uid) || s.saved.any fun v => v.2.plies.any fun e => e.2.uid == uid

/-- A COL condition (R385, R404): held by the ply, or recorded where it has ended. -/
def State.colCond (s : State) (slot pid uid sub va : Nat) : State :=
  if s.uidHere uid then s.updUid (some uid) fun p => { p with conds := p.conds ++ [{ kind := .col, code := 0x10A, sub := sub, va := va }] }
  else { s with telPend := s.telPend ++ [{ slot := some slot, image := colRecord pid sub va }] }

/-- The agent number of the collective engine in flows (R354). -/
def colAgent : Nat := 4092
/-- The agent number of the receive engine. -/
def recvAgent : Nat := 4093

/-- What a call sends to other members and what they acknowledge (R377): its start packet, or data of an operation. -/
inductive ColLoad where
  | start
  | data (d : EngData)
  deriving DecidableEq, Repr

/-- The request that awaits an acknowledgement of an engine packet (R377, R378). -/
def State.colReq (s : State) (op : Nat) (c : Call) (dev : Nat) (idx : Option Nat) : State × Nat :=
  let (n, s) := s.freshOp
  ({ s with remote := s.remote.set n { use := .col op idx, dev := dev, off := 0, clock := none, core := colAgent, slot := c.slot, pid := c.pid,
                                       write := false, host := false } }, n)

/-- The start packet of a call. -/
def State.startPkt (s : State) (c : Call) (n : Nat) : StartPkt :=
  { ctxid := pktCtxid (s.ctx c.slot), group := c.group, trick := c.trick, src := c.grp.rank, dev := s.mgmt.devidx, req := n, sig := c.graph.sig }
/-- A packet of a call's data. -/
def State.engPkt (s : State) (c : Call) (n : Nat) (d : EngData) : EngPkt :=
  { ctxid := pktCtxid (s.ctx c.slot), group := c.group, trick := c.trick, src := c.grp.rank, dev := s.mgmt.devidx, req := n, data := d }
/-- A packet of a call to one member. -/
def State.colBody (s : State) (c : Call) (n : Nat) : ColLoad → FabBody
  | .start => .start (s.startPkt c n)
  | .data d => .eng (s.engPkt c n d)
/-- The load of a call's multicast packet. -/
def State.colLoad (s : State) (c : Call) (n : Nat) : ColLoad → McLoad
  | .start => .start (s.startPkt c n)
  | .data d => .eng (s.engPkt c n d)

/-- Send to a rank of a call's group, which is another package; operation `idx` awaits the acknowledgement. -/
def State.colSend (s : State) (op : Nat) (c : Call) (r : Nat) (idx : Option Nat) (x : ColLoad) : State :=
  let (s, n) := s.colReq op c (c.grp.dev r) idx
  s.fabSend .eng colAgent (c.grp.dev r) (s.colBody c n x)

/-- Send to every other rank: a copy to each or, with MEN, one packet for the multicast group (R371, R377). -/
def State.colAll (s : State) (op : Nat) (c : Call) (idx : Option Nat) (x : ColLoad) : State :=
  if c.grp.men && !c.grp.others.isEmpty then
    let (s, n) := s.colReq op c s.mgmt.devidx idx
    s.fabSend .eng colAgent s.mgmt.devidx (.mcst { dev := s.mgmt.devidx, up := s.mgmt.devidx, req := n, group := c.grp.mgrp,
                                                   ctxid := pktCtxid (s.ctx c.slot), load := s.colLoad c n x })
  else c.grp.others.foldl (fun s r => s.colSend op c r idx x) s

/-! ## The end of a call (R375, R384) -/

/-- Free bytes. -/
def State.freeBytes (s : State) (n : Nat) : List Byte × State :=
  ((List.range n).map fun i => Config.freeByte (s.free + i), { s with free := s.free + n })

/-- A range holds unspecified bytes (R384). -/
def State.fillFree (s : State) (g : Agent) (r : Nat × Nat) : State :=
  let (bs, s) := s.freeBytes r.2
  (s.engWrite g r.1 bs).1

/-- A request awaits an acknowledgement for a call. -/
def RReq.ofCall (q : RReq) (op : Nat) : Bool := match q.use with
  | .col k _ => k == op
  | _ => false

/-- The call leaves the engine, which awaits no acknowledgement for it any more, and signals its barrier (R375). -/
def State.callEnd (s : State) (op : Nat) (c : Call) (cause : Option Nat) : State :=
  let s := { s with calls := s.calls.del op, remote := s.remote.filter fun e => !e.2.ofCall op,
                    merges := s.merges.filter fun m => !(m.2.up == s.mgmt.devidx && ((s.remote.get m.2.req).map fun (q : RReq) => q.ofCall op) == some true) }
  let note (g : GroupSt) : GroupSt := { g with lab := cause.isSome, lcause := cause.getD g.lcause }
  let s := { s with groups := s.groups.upd (groupKey c.slot c.group) note }
  s.callTb c c.bar 1 cause.isSome op

/-- The number under which a SIGNAL's update is on its way. -/
def sigKey (op i : Nat) : Nat := 2 ^ 64 + op * 1024 + i
/-- The update of a SIGNAL is on its way to its barrier. -/
def State.signalling (s : State) (op i : Nat) : Bool := s.tbq.any fun u => match u.eng with
  | some (n, _) => n == sigKey op i
  | none => false

/-- An aborted call ends once its updates in flight have landed, or at once with `force` (R384): every destination range holds unspecified
bytes. -/
def State.callQuit (s : State) (op : Nat) (force : Bool) : State :=
  match s.calls.get op with
  | none => s
  | some c => match c.abort with
    | none => s
    | some cause =>
      if !force && (List.range c.ops.length).any (s.signalling op) then s
      else
        let g := s.callAgent c
        let data (x : Nat) : Option (Nat × Nat) := if coOpc x = 6 then none else c.dstRange x
        ((c.graph.ops.filterMap data).foldl (fun s r => s.fillFree g r) s).callEnd op c (some cause)

/-- ABORT A CALL (R384, R385): broadcast by the member that raises it; the condition where this member detects it; no operation starts any
more. `cause` is LCAUSE of R388. A call that aborts already keeps its cause. -/
def State.callAbort (s : State) (op cause : Nat) (raise : Bool) (cond : Option (Nat × Nat)) : State :=
  match s.calls.get op with
  | none => s
  | some c =>
    if c.abort.isSome then s
    else
      let k : AbortPkt := { ctxid := pktCtxid (s.ctx c.slot), group := c.group, trick := c.trick, src := c.grp.rank, late := false }
      let s := if raise then c.grp.others.foldl (fun s r => s.fabSend .eng colAgent (c.grp.dev r) (.abort k)) s else s
      let s := match cond with
        | some (sub, va) => s.colCond c.slot c.pid c.uid sub va
        | none => s
      (s.updCall op fun c => { c with abort := some cause }).callQuit op false

/-- MISMATCH (R385). -/
def State.callMismatch (s : State) (op : Nat) : State := s.callAbort op 1 true (some (1, 0))
/-- FAULT (R385). -/
def State.callFault (s : State) (op va : Nat) : State := s.callAbort op 2 true (some (2, va))

/-- An operation completes: its successors' counters, and with the last operation the call (R369). -/
def State.chunkDone (s : State) (op i : Nat) : State :=
  match s.calls.get op with
  | none => s
  | some c =>
    let hit (j : Nat) : Nat := ((coSuccs (c.co i)).filter (· == j)).length
    let step (x : ChSt × Nat) : ChSt :=
      if x.2 = i then { x.1 with ph := .complete, buf := [] } else { x.1 with cnt := x.1.cnt - hit x.2 }
    let c := { c with ops := c.ops.zipIdx.map step }
    let s := { s with calls := s.calls.set op c }
    if c.ops.all fun x => x.ph == .complete then s.callEnd op c none else s

/-! ## Data at a call (R369, R377, R379, R381) -/

/-- Operations of one code with a peer and TAG below an index: how many pair before it. -/
def Call.before (c : Call) (opc peer tag i : Nat) : Nat :=
  ((c.graph.ops.take i).filter fun x => coOpc x == opc && c.grp.peer x == peer && coTag x == tag).length
/-- The index of the nth operation of one code with a peer and TAG: as SENDs and RECVs of a TAG pair in index order (R369), so do the MCASTs of an owner
and TAG (DESIGN CHOICE, log entry 155). -/
def Call.nth (c : Call) (opc peer tag n : Nat) : Option Nat :=
  (((c.graph.ops.zipIdx.filter fun x => coOpc x.1 == opc && c.grp.peer x.1 == peer && coTag x.1 == tag).map Prod.snd)[n]?)
/-- The number of a REDUCE in its messages: its TAG, and above it how many with the same TAG and owner stand before it in the call. The spec speaks of
one reduction for a TAG; further ones with the same owner and LEN are further reductions, in index order (DESIGN CHOICE, log entry 156). -/
def Call.redTag (c : Call) (i : Nat) : Nat :=
  coTag (c.co i) + 256 * c.before 2 (c.grp.peer (c.co i)) (coTag (c.co i)) i
/-- The reduction of a number. -/
def Call.reduction (c : Call) (tag : Nat) : Option Nat :=
  (List.range c.graph.ops.length).find? fun i => coOpc (c.co i) == 2 && c.redTag i == tag
/-- REDUCEs of one TAG in a call that name different owners or LENs (R379). -/
def Call.redClash (c : Call) (i : Nat) : Bool := c.graph.ops.any fun y =>
  coOpc y == 2 && coTag y == coTag (c.co i) && (c.grp.peer y != c.grp.peer (c.co i) || coLen y != coLen (c.co i))

/-- Data that arrives disagrees with the operation it belongs to (R369, R379). -/
def Call.disagrees (c : Call) (src : Nat) : EngData → Bool
  | .send tag n bs => match c.nth 1 src tag n with
    | some i => coLen (c.co i) != bs.length
    | none => false
  | .mcast tag n bs => match c.nth 3 src tag n with
    | some i => coLen (c.co i) != bs.length
    | none => false
  | .exps tag len owner _ _ => match c.reduction tag with
    | some i => coLen (c.co i) != len || !c.owns (c.co i) || owner != c.grp.rank
    | none => true
  | .vals tag len owner _ => match c.reduction tag with
    | some i => coLen (c.co i) != len || !c.owns (c.co i) || owner != c.grp.rank
    | none => true
  | .owner tag len o => match c.reduction tag with
    | some i => coLen (c.co i) != len || c.grp.peer (c.co i) != o
    | none => true
  | .emax _ _ => false
  | .quanta _ _ => false

/-- The elements of data. -/
def elemsOf (z : Nat) (bs : List Byte) : List Nat := (List.range (bs.length / z)).map fun i => leNat ((bs.drop (i * z)).take z)

/-- floor(log2 |x|) of a finite nonzero value (R379). -/
def expOf : FVal → Option Int
  | .fin _ num den e => if num = 0 then none else some (log2Q num den + e)
  | _ => none
/-- The special of an element: 1 NaN, 2 +∞, 3 −∞, 4 −0, else 0 (R379). -/
def specOf : FVal → Nat
  | .nan => 1
  | .inf false => 2
  | .inf true => 3
  | .fin neg num _ _ => if num = 0 && neg then 4 else 0
/-- The larger of two exponents. -/
def maxExp : Option Int → Option Int → Option Int
  | some a, some b => some (max a b)
  | some a, none => some a
  | none, b => b
/-- The exponent of each block of 64 elements. -/
def blockExps (xs : List FVal) : List (Option Int) :=
  (List.range ((xs.length + 63) / 64)).map fun b => ((xs.drop (64 * b)).take 64).foldl (fun m x => maxExp m (expOf x)) none
/-- Combine lists by position. -/
def zipBy {α : Type} (f : α → α → α) : List α → List α → List α
  | a :: as, b :: bs => f a b :: zipBy f as bs
  | as, [] => as
  | [], bs => bs
/-- q of R379: an element pre-rounded in its block. -/
def quantum (em : Option Int) : FVal → Int
  | .fin neg num den e => match em with
    | some m => (roundInt .rne neg num den (e - (m - 48))).1
    | none => 0
  | _ => 0
/-- The q of every element. -/
def quantaOf (em : List (Option Int)) (xs : List FVal) : List Int := xs.zipIdx.map fun x => quantum ((em[x.2 / 64]?).join) x.1
/-- The result of an element from the specials of its contributions, Emax and Q (R379). -/
def redResult (ty : Ty) (specs : List Nat) (em : Option Int) (q : Int) : Nat :=
  let code (x : FVal) : Nat := (rnd ty .rne false 0 x).1
  if specs.contains 1 || (specs.contains 2 && specs.contains 3) then code .nan
  else if specs.contains 2 then code (.inf false)
  else if specs.contains 3 then code (.inf true)
  else if specs.all (· == 4) then code (.zero true)
  else if q = 0 then code (.zero false)
  else code (.fin (q < 0) q.natAbs 1 (em.getD 0 - 48))
/-- Exact combination of the other types (R381). -/
def redExact (dt : Nat) (xs : List Nat) : Nat := match dt with
  | 3 => wrapNat 32 ((xs.map (sextInt 32)).sum)
  | d => match xs with
    | [] => 0
    | y :: ys => ys.foldl (fnmnx' d) y
where
  /-- Maximum or minimum. -/
  fnmnx' (d a b : Nat) : Nat := fmnmx .f32 (d == 4) a b

/-- A floating-point sum. -/
def coSums (x : Nat) : Bool := coDt x == 1 || coDt x == 2

/-- What the other members sent for a reduction. -/
def Call.fromAll {α : Type} (c : Call) (pick : EngData → Option α) : Option (List α) :=
  c.grp.others.mapM fun r => (c.inbox.filterMap fun y => if y.1 = r then pick y.2 else none).head?

/-- The exponents and specials of a TAG. -/
def pickExps (tag : Nat) : EngData → Option (List (Option Int) × List Nat)
  | .exps t _ _ es sp => if t = tag then some (es, sp) else none
  | _ => none
/-- The quanta of a TAG. -/
def pickQuanta (tag : Nat) : EngData → Option (List Int)
  | .quanta t q => if t = tag then some q else none
  | _ => none
/-- The values of a TAG. -/
def pickVals (tag : Nat) : EngData → Option (List Byte)
  | .vals t _ _ bs => if t = tag then some bs else none
  | _ => none
/-- Emax of a TAG. -/
def pickEmax (tag : Nat) : EngData → Option (List (Option Int))
  | .emax t es => if t = tag then some es else none
  | _ => none
/-- What belongs to a reduction's TAG. -/
def ofTag (tag : Nat) : EngData → Bool
  | .exps t _ _ _ _ => t == tag
  | .emax t _ => t == tag
  | .quanta t _ => t == tag
  | .vals t _ _ _ => t == tag
  | _ => false

/-- The values of the own contribution. -/
def Call.ownVals (c : Call) (i : Nat) : List FVal :=
  let x := c.co i
  (elemsOf (tyBytes (coTy x)) (c.chunk i).buf).map (decodeF (coTy x))

/-- A reduction goes as far as what has arrived allows (R379): the owner settles Emax; a member answers Emax with its quanta. -/
def State.reduceOn (s : State) (op i : Nat) : State :=
  match s.calls.get op with
  | none => s
  | some c =>
    let x := c.co i
    let h := c.chunk i
    if coOpc x ≠ 2 || h.ph != .begun || !coSums x || h.emax.isSome then s
    else if c.owns x then match c.fromAll (pickExps (c.redTag i)) with
      | none => s
      | some es =>
        let em := es.foldl (fun m e => zipBy maxExp m e.1) (blockExps (c.ownVals i))
        let s := s.updCall op fun c => c.updOp i fun h => { h with emax := some em }
        c.grp.others.foldl (fun s r => s.colSend op c r (some i) (.data (.emax (c.redTag i) em))) s
    else
      let own := c.grp.peer x
      match (c.inbox.filterMap fun y => if y.1 = own then pickEmax (c.redTag i) y.2 else none).head? with
      | none => s
      | some em =>
        let s := s.updCall op fun c => c.updOp i fun h => { h with ph := .landed, emax := some em }
        s.colSend op c own (some i) (.data (.quanta (c.redTag i) (quantaOf em (c.ownVals i))))

/-- Every reduction of a call goes on. -/
def State.reduceAll (s : State) (op : Nat) : State := match s.calls.get op with
  | none => s
  | some c => (List.range c.ops.length).foldl (fun s i => s.reduceOn op i) s

/-- The bytes that a reduction's owner writes, once everything is in (R379, R381). -/
def Call.redBytes (c : Call) (i : Nat) : Option (List Byte) :=
  let x := c.co i
  let h := c.chunk i
  let z := tyBytes (coTy x)
  if coSums x then
    match h.emax, c.fromAll (pickExps (c.redTag i)), c.fromAll (pickQuanta (c.redTag i)) with
    | some em, some es, some qs =>
      let own := c.ownVals i
      let specs := own.map specOf :: es.map Prod.snd
      let sums := qs.foldl (zipBy (· + ·)) (quantaOf em own)
      some ((sums.zipIdx.map fun q => leBytes z
        (redResult (coTy x) (specs.map fun l => (l[q.2]?).getD 0) ((em[q.2 / 64]?).join) q.1)).flatten)
    | _, _, _ => none
  else match c.fromAll (pickVals (c.redTag i)) with
    | some vs =>
      let all := elemsOf z h.buf :: vs.map (elemsOf z)
      some (((List.range (h.buf.length / z)).map fun k => leBytes z (redExact (coDt x) (all.map fun l => (l[k]?).getD 0))).flatten)
    | none => none

/-- Data reaches a call (R369, R377): a disagreement ends it; else it is taken, which `ack` tells its sender. -/
def State.callData (s : State) (op src : Nat) (d : EngData) (ack : State → State) : State :=
  match s.calls.get op with
  | none => s
  | some c =>
    let isNote := match d with
      | .owner _ _ _ => true
      | _ => false
    if c.disagrees src d then s.callMismatch op
    else if isNote then ack s
    else ((ack s).updCall op fun c => { c with inbox := c.inbox ++ [(src, d)] }).reduceAll op

/-- Send data of an operation to a rank, which may be the own one. -/
def State.callSend (s : State) (op : Nat) (c : Call) (r i : Nat) (d : EngData) : State :=
  if r = c.grp.rank then s.callData op r d id else s.colSend op c r (some i) (.data d)

/-! ## Reading and writing of a call (R383) -/

/-- Read a range for a call: the bytes, a wait, or the first failing address. -/
inductive ColGet where
  | ok (bytes : List Byte)
  | wait
  | fail (va : Nat)
  deriving DecidableEq, Repr

/-- Read a source range. -/
def State.colRead (s : State) (g : Agent) (r : Nat × Nat) : State × ColGet :=
  (pieces r.1 r.2).foldl (fun (acc : State × ColGet) x => match acc.2 with
    | .ok bs =>
      let a := (x.1 * 64 + x.2.1) % 2 ^ 56
      match acc.1.engGet g [] a x.2.2 with
      | (t, .ok b) => (t, .ok (bs ++ b))
      | (t, .wait) => (t, .wait)
      | (t, .fail _ va) => (t, .fail va)
      | (t, _) => (t, .fail a)
    | _ => acc) (s, .ok [])

/-- Write a destination range. -/
def State.colWrite (s : State) (g : Agent) (a : Nat) (bs : List Byte) : State × ColGet :=
  (pieces a bs.length).foldl (fun (acc : State × ColGet) x => match acc.2 with
    | .ok _ =>
      let b := x.1 * 64 + x.2.1
      match acc.1.engPut g (b % 2 ^ 56) ((bs.drop (b - a)).take x.2.2) with
      | (t, .ok) => (t, .ok [])
      | (t, .wait) => (t, .wait)
      | (t, .fail _ va) => (t, .fail va)
    | _ => acc) (s, .ok [])

/-! ## Starting and completing operations (R369) -/

/-- Every other member's start packet has come. -/
def Call.metAll (c : Call) : Bool := c.grp.others.all c.starts.contains
/-- A call has started (R375, R377): every start packet has come, no older call of its slot is open, and it does not abort. -/
def State.callLive (s : State) (c : Call) : Bool :=
  c.metAll && c.abort.isNone && !(s.calls.any fun e => e.2.slot == c.slot && e.2.gslot == c.gslot && e.2.order < c.order)

/-- An operation takes its source bytes and sends them (R369, R379). -/
def State.chunkSend (s : State) (op : Nat) (c : Call) (i x : Nat) (bs : List Byte) : State :=
  let tag := coTag x
  let owner := c.grp.peer x
  let put (s : State) (ph : ChPh) : State := s.updCall op fun c => c.updOp i fun h => { h with ph := ph, buf := bs }
  match coOpc x with
  | 0 => (put s .landed).callSend op c owner i (.send tag (c.before 0 owner tag i) bs)
  | 3 => (put s .landed).colAll op c (some i) (.data (.mcast tag (c.before 3 owner tag i) bs))
  | _ =>
    if c.owns x then
      (c.grp.others.foldl (fun s r => s.colSend op c r (some i) (.data (.owner (c.redTag i) (coLen x) owner))) (put s .begun)).reduceAll op
    else if coSums x then
      let s := put s .begun
      let vs := (elemsOf (tyBytes (coTy x)) bs).map (decodeF (coTy x))
      s.callSend op c owner i (.exps (c.redTag i) (coLen x) owner (blockExps vs) (vs.map specOf))
    else (put s .landed).callSend op c owner i (.vals (c.redTag i) (coLen x) owner bs)

/-- CHUNK_OP_START (R369): the counter is 0 in a call that has started. -/
def execChunkOpStart (call idx : Nat) (s : State) : Out :=
  match s.calls.get call with
  | none => .next s
  | some c =>
    let x := c.co idx
    let h := c.chunk idx
    if c.ops.length ≤ idx || h.ph != .idle || h.cnt ≠ 0 || !s.callLive c then .next s
    else
      let begin' (s : State) (ph : ChPh) : State := s.updCall call fun c => c.updOp idx fun h => { h with ph := ph }
      if coOpc x = 2 && c.redClash idx then .next (s.callMismatch call) else
      let sends := coOpc x = 0 || coOpc x = 2 || (coOpc x = 3 && c.owns x)
      if sends then
        match s.colRead (s.callAgent c) (c.src x, coLen x) with
        | (t, .ok bs) => .next (t.chunkSend call c idx x bs)
        | (t, .wait) => .next t
        | (t, .fail va) => .next (t.callFault call va)
      else if coOpc x = 6 then
        .next ((begin' s .landed).callTb c (s.callRef c (c.tgt x)) (coArg x) false (sigKey call idx))
      else if coOpc x = 7 then .next (begin' s .landed)
      else .next (begin' s .begun)

/-- Land bytes in an operation's destination and complete it; `drop` removes what it has taken from the call. -/
def State.chunkLand (s : State) (op i : Nat) (c : Call) (bs : List Byte) (drop : Call → Call) : State :=
  match s.colWrite (s.callAgent c) (c.tgt (c.co i)) bs with
  | (t, .ok _) => (t.updCall op drop).chunkDone op i
  | (t, .wait) => t
  | (t, .fail va) => t.callFault op va

/-- Take the first entry of the inbox that a test accepts. -/
def takeInbox (ok : Nat × EngData → Bool) : List (Nat × EngData) → List (Nat × EngData)
  | [] => []
  | y :: ys => if ok y then ys else y :: takeInbox ok ys

/-- A begun operation whose data is in lands it (R369). -/
def State.chunkTake (s : State) (op i : Nat) (c : Call) : State :=
  let x := c.co i
  let peer := c.grp.peer x
  let from' (ok : Nat × EngData → Bool) : State := match c.inbox.find? ok with
    | some (_, .send _ _ bs) => s.chunkLand op i c bs fun c => { c with inbox := takeInbox ok c.inbox }
    | some (_, .mcast _ _ bs) => s.chunkLand op i c bs fun c => { c with inbox := takeInbox ok c.inbox }
    | _ => s
  match coOpc x with
  | 1 => from' fun y => y.1 == peer && (match y.2 with
    | .send t n _ => t == coTag x && n == c.before 1 peer (coTag x) i
    | _ => false)
  | 2 => match c.redBytes i with
    | some bs => if c.owns x then s.chunkLand op i c bs fun c => { c with inbox := c.inbox.filter fun y => !ofTag (c.redTag i) y.2 } else s
    | none => s
  | 3 => from' fun y => y.1 == peer && (match y.2 with
    | .mcast t n _ => t == coTag x && n == c.before 3 peer (coTag x) i
    | _ => false)
  | 4 => match s.colRead (s.callAgent c) (c.src x, coLen x) with
    | (t, .ok bs) => t.chunkLand op i c bs id
    | (t, .wait) => t
    | (t, .fail va) => t.callFault op va
  | 5 => match s.tbGet (s.callAgent c).who (s.tbFind c.slot (s.callRef c (c.src x))) .read with
    | (t, .ok b) => if some (fld b 3 0) = c.waits.get i then t else t.chunkDone op i
    | (t, .wait) => t
    | (t, .fail _ _) => t.callFault op (c.src x)
  | _ => s

/-- What an operation sent has not been acknowledged (R369, R377). -/
def State.owing (s : State) (op i : Nat) : Bool := s.remote.any fun q => q.2.use == .col op (some i)

/-- CHUNK_OP_COMPLETE (R369): what was sent has been accepted; what was to land has landed. An aborted call ends with what it has in flight
(R384). -/
def execChunkOpComplete (call idx : Nat) (s : State) : Out :=
  match s.calls.get call with
  | none => .next s
  | some c =>
    if c.abort.isSome then .next (s.callQuit call false)
    else match (c.chunk idx).ph with
      | .begun => .next (s.chunkTake call idx c)
      | .landed => .next (if s.signalling call idx || s.owing call idx then s else s.chunkDone call idx)
      | _ => .next s

/-! ## Packets (R377, R384) -/

/-- A trick lies before the next one of a group. -/
def pastTrick (next trick : Nat) : Bool := let d := (next + 2 ^ 32 - trick) % 2 ^ 32; 0 < d && d ≤ 2 ^ 31

/-- Who a collective packet is for and from: context, group, trick and sending package (an abort is not answered). -/
def colHead : FabBody → Option (Nat × Nat × Nat × Nat)
  | .start p => some (p.ctxid, p.group, p.trick, p.dev)
  | .eng p => some (p.ctxid, p.group, p.trick, p.dev)
  | .abort p => some (p.ctxid, p.group, p.trick, 0)
  | _ => none

/-- An abort packet. -/
def isAbort : FabBody → Bool
  | .abort _ => true
  | _ => false

/-- The bytes that data takes in the chunk buffers (log entry 134). -/
def engSize : EngData → Nat
  | .send _ _ bs => bs.length
  | .mcast _ _ bs => bs.length
  | .exps _ _ _ es sp => 2 * es.length + sp.length
  | .emax _ es => 2 * es.length
  | .quanta _ qs => 8 * qs.length
  | .vals _ _ _ bs => bs.length
  | .owner _ _ _ => 0
/-- The bytes that a packet takes in the chunk buffers. -/
def packetSize : FabBody → Nat
  | .eng p => engSize p.data
  | .msg m => match m.body with
    | .eager bs => bs.length
    | _ => 0
  | _ => 0
/-- The bytes of the chunk buffers in use (R12): the packets of tricks not yet accepted (R377), and the messages that wait for their predecessors
(R397). The data of an accepted call passes through in chunks as its operations take it, and its ranges may be larger than the buffers: it is charged
nothing (log entry 134). -/
def State.chunkUsed (s : State) : Nat :=
  (s.colHeld.map packetSize).sum +
    (s.eps.map fun e => (e.2.early.map fun m => packetSize (.msg m.2)).sum).sum
/-- The chunk buffers, of 64 MiB, have room for a packet. -/
def State.chunkRoom (s : State) (b : FabBody) : Bool := packetSize b == 0 || packetSize b + s.chunkUsed ≤ 2 ^ 26

/-- What a packet does to the call that it is for (R377, R384); `ack` acknowledges it. A call that aborts takes nothing more. -/
def State.callPacket (s : State) (op : Nat) (c : Call) (ack : State → State) : FabBody → State
  | .start p => if c.abort.isSome then ack s
                else if p.sig = c.graph.sig then ack (s.updCall op fun c => { c with starts := p.src :: c.starts }) else s.callMismatch op
  | .eng p => if c.abort.isSome then ack s else s.callData op p.src p.data ack
  | .abort p => if p.late then s.callAbort op 5 true (some (5, 0)) else s.callAbort op 4 false none
  | _ => s

/-- A collective packet arrives: at its call; late, which is answered with an abort; or held for a trick not yet accepted, and acknowledged when it is
placed (R377). None where the chunk buffers have no room: it waits by fabric credit. -/
def State.colPacket (s : State) (b : FabBody) (ack : State → State) : Option State :=
  match colHead b with
  | none => some s
  | some (ctxid, group, trick, dev) =>
    let hold : Option State := if s.chunkRoom b then some (ack { s with colHeld := s.colHeld ++ [b] }) else none
    if dev = s.mgmt.devidx && !isAbort b then some (ack s)
    else match s.slotFor ctxid with
      | none => hold
      | some slot => match s.callAt slot group trick with
        | some (op, c) => some (s.callPacket op c ack b)
        | none => match s.groupSt slot group with
          | none => hold
          | some g =>
            if !pastTrick g.trick trick then hold
            else match b with
              | .abort _ => some s
              | _ => some (s.fabSend .eng colAgent dev
                  (.abort { ctxid := ctxid, group := group, trick := trick, src := g.grp.rank, late := true }))

/-- Acknowledge an engine packet (R377). -/
def State.colAck (dev req : Nat) (s : State) : State := s.fabSend .rsp colAgent dev (.reply req .ack)

/-- Take a packet that comes by itself. -/
def State.colArrive (s : State) (b : FabBody) : Option State := s.colPacket b fun t => match b with
  | .start p => t.colAck p.dev p.req
  | .eng p => t.colAck p.dev p.req
  | _ => t

/-- DELIVER A MULTICAST COPY (R361, R362, R377), which is acknowledged to the switch that awaits it. -/
def State.mcstDeliver (s : State) (p : McstPkt) : Option State := match p.load with
  | .store off words => some (s.mcstWrite p off words)
  | .start q => s.colPacket (.start q) (State.colAck p.up p.req)
  | .eng q => s.colPacket (.eng q) (State.colAck p.up p.req)

/-- START_PACKET_ARRIVAL (R377). -/
def execStartPacketArrival (p : StartPkt) (s : State) : Out := .next ((s.colArrive (.start p)).getD s)
/-- ENGINE_DATA_ARRIVAL (R369, R377). -/
def execEngineDataArrival (p : EngPkt) (s : State) : Out := .next ((s.colArrive (.eng p)).getD s)
/-- ABORT_PACKET_ARRIVAL (R384). -/
def execAbortPacketArrival (p : AbortPkt) (s : State) : Out := .next ((s.colArrive (.abort p)).getD s)

/-- A packet of a call has left the package and has had no acknowledgement within the fabric timeout (R378). -/
def State.colExpired (s : State) (call : Nat) : Bool := s.remote.any fun q => q.2.ofCall call && expired q.2.clock s.tout s.clock

/-- ENGINE_PACKET_TIMEOUT (R378): a packet of the call has had no answer within the fabric timeout. -/
def execEnginePacketTimeout (call : Nat) (s : State) : Out :=
  if s.colExpired call then .next (s.callAbort call 3 true (some (3, 0))) else .next s

/-! ## Triggers (R20, R282, R382) -/

/-- A valid trigger decrements the counter in the oldest call where it is above 0; false where there is none. -/
def State.trigCall (s : State) (slot g i : Nat) : State × Bool :=
  match (s.callsOf fun c => c.slot == slot && c.gslot == g).find? fun e => 0 < (e.2.chunk i).cnt with
  | some (op, _) => (s.updCall op fun c => c.updOp i fun h => { h with cnt := h.cnt - 1 }, true)
  | none => (s, false)

/-- A TRIGGER REACHES THE SEQUENCER (R382). -/
def State.trigger (s : State) (slot pid uid : Nat) (target : Word) : State :=
  let t := target.toNat
  let g := fld t 7 0
  let i := fld t 23 8
  let q := s.gslot slot g
  let bad (s : State) : State := s.colCond slot pid uid 4 0
  match q.graph with
  | none => bad s
  | some gr =>
    if fld t 31 24 ≠ 0 || coOpc ((gr.ops[i]?).getD 0) ≠ 7 then bad s
    else match s.trigCall slot g i with
      | (s, true) => s
      | (s, false) =>
        let n := (q.trigs.get i).getD 0
        if 255 ≤ n then bad s else s.setGslot slot g { q with trigs := q.trigs.set i (n + 1) }

/-- Apply the held triggers of an operation to the calls, oldest first; the rest stays held. -/
def State.trigHeld (s : State) (slot g i : Nat) : Nat → State × Nat
  | 0 => (s, 0)
  | n + 1 => match s.trigCall slot g i with
    | (s, true) => State.trigHeld s slot g i n
    | (s, false) => (s, n + 1)

/-- Held triggers are applied at an acceptance (R382). -/
def State.trigAll (s : State) (slot g : Nat) : State :=
  ((s.gslot slot g).trigs).foldl (fun s e =>
    let (s, n) := s.trigHeld slot g e.1 e.2
    let q := s.gslot slot g
    s.setGslot slot g { q with trigs := if n = 0 then q.trigs.del e.1 else q.trigs.set e.1 n }) s

/-- TILE_TRIGGER (R382): the trigger of an ACCST or CGTRIG reaches the collective engine; CGTRIG then completes (R387). -/
def execTileTrigger (op : Nat) (s : State) : Out :=
  match s.trigs.find? fun t => t.op == op with
  | none => .next s
  | some t =>
    let s := { s with trigs := s.trigs.filter fun x => x.op != op }
    let pid := match s.plyUid t.uid with
      | some (pid, _) => pid
      | none => t.pid
    let s := s.trigger t.slot pid t.uid t.target
    .next (if t.cg then s.engComplete t.uid op else s)

/-! ## The instructions -/

/-- CGLOAD (R374): D is EMPTY, after the release the image is read. -/
def cgloadBody (k : Nat) (f : Full) (e : Env) (s : State) : Res :=
  let ga := sPairVal s e.p f.a % 2 ^ 56
  if ga % 64 ≠ 0 then trapLanes 0x104 0 (e.lanes.map fun l => (l, ga)) s
  else if s.acquiring e.p e.pid then .stall s
  else releaseThen true .pkg e s fun t =>
    let q : MPart := { onePart e 4 .wait with ga := ga, place := t.placeOf e.pid e.p ga }
    let (t, op) := t.enter { newReq e (.image false k) .net f 1 true [q] with ty := .n32, n := 1, ord := .weak }
    .done (emptyD t e op f.d 1)

/-- CGLOAD of a graph (R374). -/
def execCgloadGraph (f : Full) (s : State) : Out :=
  issueUnit 3 (formCgload f) (some .net) (whenExec (cgloadBody (2 * mX f) f)) f s
/-- CGLOAD of a group (R374). -/
def execCgloadGroup (f : Full) (s : State) : Out :=
  issueUnit 3 (formCgload f) (some .net) (whenExec (cgloadBody (2 * mX f + 1) f)) f s

/-- The lines that the host has sent for an operation. -/
def State.imgHost (s : State) (op : Nat) : Tbl Line := (s.images.get op).getD []

/-- Read bytes of one line of an image (R374): the bytes, or none where the request waits, is held or has failed. -/
def State.imgLine (s : State) (op : Nat) (r : MReq) (ga n : Nat) : State × Option (List Byte) :=
  match s.placeIn (plyCore r.pid) r.skein r.slot ga with
  | .loc c off => match (s.seg (segKey c off)).st, s.lsRead (segBase (segKey c off) + off % 4096) n with
    | .t _, _ => (s, none)
    | _, some bs => (s, some bs)
    | _, none => (s.setPSt op 0 (.bad 5), none)
  | .global va =>
    let w := s.whoReq r
    if s.atBay w.asid (va / 64) then (s, none)
    else match s.home w (va / 64) .read with
      | (s, .ok x) => (s, some (lineSlice x (va % 64) n))
      | (s, .poison) => (s.setPSt op 0 (.bad 5), none)
      | (s, .fail c) => (s.loadFault op 0 r (va / 64) c, none)
      | (s, .host a) => match (s.imgHost op).get a with
        | some x => (s, some (lineSlice x (va % 64) n))
        | none =>
          if s.remote.any fun q => q.2.use == .eng 5 op a then (s, none) else (s.askHost 5 op a r.slot, none)
  | _ => (s.setPSt op 0 (.bad 1), none)

/-- Read a run of an image. -/
def State.imgRead (s : State) (op : Nat) (r : MReq) (ga n : Nat) : State × Option (List Byte) :=
  (pieces ga n).foldl (fun (acc : State × Option (List Byte)) x => match acc.2 with
    | none => acc
    | some bs => match acc.1.imgLine op r ((x.1 * 64 + x.2.1) % 2 ^ 56) x.2.2 with
      | (t, some b) => (t, some (bs ++ b))
      | (t, none) => (t, none)) (s, some [])

/-- A call of a slot, or on a group, is accepted and not ended. -/
def State.cgBusy (s : State) (slot k : Nat) : Bool :=
  s.calls.any fun e => e.2.slot == slot && (if k % 2 = 0 then e.2.gslot == k / 2 else e.2.group == k / 2)

/-- The status word of a failed validation (R374). -/
def State.cgStatus (s : State) (st : Nat) (idx : Option Nat) : State × Nat := match idx with
  | some i => (s, st + i * 256)
  | none =>
    let (n, s) := s.drawFree
    (s, st + Config.freeNat n % 65536 * 256)

/-- The image is in: BUSY, or validation and the new contents (R374). -/
def State.cgPlace (s : State) (slot k : Nat) (bs : List Byte) : State × Nat :=
  let g := k / 2
  if k % 2 = 0 then
    match graphOf bs with
    | .ok x => (s.setGslot slot g { graph := some x, trigs := [] }, 0)
    | .bad st i => (s.setGslot slot g GSlot.empty).cgStatus st i
  else match s.groupOf (pktCtxid (s.ctx slot)) bs with
    | .ok (x, t) => ({ s with groups := s.groups.set (groupKey slot g) { grp := x, trick := t, lab := false, lcause := 0 } }, 0)
    | .bad st i => ({ s with groups := s.groups.del (groupKey slot g) }).cgStatus st i

/-- The length of an image by its first 64 bytes. -/
def imgLen (k h : Nat) : Nat := if k % 2 = 0 then (graphHead h).getD 64 else if 2048 < fld h 11 0 then 64 else groupLen h

/-- The collective engine reads an image as far as it can; then D's word is known (R374). -/
def State.imageTry (s : State) (op k : Nat) (r : MReq) : State :=
  match r.parts with
  | [] => s
  | q :: _ =>
    if q.st != .wait then s
    else match s.imgRead op r q.ga 64 with
      | (s, none) => s
      | (s, some h) => match s.imgRead op r q.ga (imgLen k (leNat h)) with
        | (s, none) => s
        | (s, some bs) =>
          let (s, v) := if s.cgBusy r.slot k then (s, 1) else s.cgPlace r.slot k bs
          ({ s with images := s.images.del op }).setPSt op 0 (.ready (leBytes 4 v))

/-- The range starts that CGRUN checks, those of every operation of the graph, with their alignments (R375). -/
def Call.aligns (c : Call) : List (Nat × Nat) :=
  c.graph.ops.flatMap fun x =>
    let z := if coOpc x = 5 || coOpc x = 6 then 16 else 32
    ((if [0, 2, 3, 4, 5].contains (coOpc x) then [c.src x] else []) ++ (if [1, 2, 3, 4, 6].contains (coOpc x) then [c.tgt x] else [])).map fun a => (a, z)

/-- What CGRUN's probe asks (R375). -/
def Call.asks (c : Call) : List ProbeAsk :=
  barAsks (some c.bar) ++ c.graph.ops.flatMap fun x =>
    let run (wr : Bool) (r : Option (Nat × Nat)) : List ProbeAsk :=
      r.toList.flatMap fun y => (pageStarts y.1 y.2).map fun a => { ga := a, write := wr, host := false, nl := 15 }
    run false (c.srcRange x) ++ run true (c.dstRange x)

/-- Sample the phases that WAITs start from (R369): none where one cannot be read yet; a failing address. -/
def State.sample (s : State) (c : Call) : State × Option (Tbl Nat × Option Nat) :=
  c.graph.ops.zipIdx.foldl (fun (acc : State × Option (Tbl Nat × Option Nat)) x =>
    match acc.2 with
    | none => acc
    | some (ws, bad) =>
      if coOpc x.1 ≠ 5 then acc
      else match acc.1.tbGet (acc.1.callAgent c).who (acc.1.tbFind c.slot (acc.1.callRef c (c.src x.1))) .read with
        | (t, .ok b) => (t, some (ws.set x.2 (fld b 3 0), bad))
        | (t, .wait) => (t, none)
        | (t, .fail _ _) => (t, some (ws, some (bad.getD (c.src x.1))))) (s, some ([], none))

/-- Deliver the packets held for a call (R377, R384). -/
def State.callHeld (s : State) (slot group trick : Nat) : State :=
  let ctxid := pktCtxid (s.ctx slot)
  let mine (b : FabBody) : Bool := match colHead b with
    | some (x, g, t, _) => x == ctxid && g == group && t == trick
    | none => false
  let mineNow := s.colHeld.filter mine
  mineNow.foldl (fun s b => match s.callAt slot group trick with
    | some (op, c) => s.callPacket op c id b
    | none => s) { s with colHeld := s.colHeld.filter fun b => !mine b }

/-- ACCEPT A CALL (R375, R377, R382, R384). -/
def State.callAccept (s : State) (op : Nat) (c : Call) (waits : Tbl Nat) (bad : Option Nat) : State :=
  let trick := match s.groupSt c.slot c.group with
    | some g => g.trick
    | none => 0
  let (n, s) := s.freshOp
  let ops : List ChSt := c.graph.ops.map fun x => { cnt := coDep x, ph := .idle, buf := [], emax := none }
  let c : Call := { c with trick := trick, order := n, ops := ops, waits := waits }
  let up (g : GroupSt) : GroupSt := { g with trick := (g.trick + 1) % 2 ^ 32 }
  let s := { s with calls := s.calls.set op c, groups := s.groups.upd (groupKey c.slot c.group) up }
  let s := s.colAll op c none .start
  let s := match bad with
    | some va => s.callFault op va
    | none => s
  (s.callHeld c.slot c.group trick).trigAll c.slot c.gslot

/-- The call as CGRUN names it. -/
def State.callNew (s : State) (e : Env) (f : Full) (graph : Graph) (grp : Group) : Call :=
  let n := mf f 26 24 + 1
  let ws := (sWords s e.p f.a (2 * n)).map BitVec.toNat
  { slot := e.p.ctx, gslot := mX f, group := mY f, trick := 0, order := 0, pid := e.pid, uid := e.p.uid, skein := e.p.skein, graph := graph,
    grp := grp, bases := (List.range n).map fun k => ((ws[2 * k]?).getD 0 + (ws[2 * k + 1]?).getD 0 * 2 ^ 32) % 2 ^ 56,
    bar := s.tbRef e.pid e.p (sPairVal s e.p f.d % 2 ^ 56), starts := [], ops := [], waits := [], inbox := [], abort := none }

/-- A probe is that of a CGRUN. -/
def Probe.isCall (p : Probe) : Bool := match p.what with
  | .call _ => true
  | _ => false
/-- Calls that a context's engine holds, with those in their probe. -/
def State.callCount (s : State) (slot : Nat) : Nat :=
  (s.calls.filter fun e => e.2.slot == slot).length + (s.probes.filter fun e => e.2.slot == slot && e.2.isCall).length
/-- A CGRUN that issued earlier on the package is still in its probe (R375). -/
def State.callEarlier (s : State) (op : Nat) : Bool := s.probes.any fun e => e.1 < op && e.2.isCall

/-- Check 1 of R375, before the registers (R61, R101): the slot and the group are loaded, with enough bases and ranks. -/
def cgrunEarly (f : Full) : Env → State → Pre := refuseIf fun e s => match (s.gslot e.p.ctx (mX f)).graph, s.groupSt e.p.ctx (mY f) with
  | some graph, some g => mf f 26 24 + 1 < graph.nbase || (match graph.absMax with
      | some r => g.grp.size ≤ r
      | none => false)
  | _, _ => true

/-- CGRUN (R375). -/
def cgrunBody (f : Full) (e : Env) (s : State) : Res :=
  probeAwait e s (fun op x t => match x with
    | .call c =>
      if s.callEarlier op then .stall s
      else match t.sample c with
        | (u, some (ws, bad)) => .done (u.callAccept op c ws bad)
        | (_, none) => .stall s
    | _ => .stall t) fun s =>
    match (s.gslot e.p.ctx (mX f)).graph, s.groupSt e.p.ctx (mY f) with
    | some graph, some g =>
      let c := s.callNew e f graph g.grp
      alignAll e ((sPairVal s e.p f.d % 2 ^ 56, 16) :: c.aligns) s fun _ =>
        if 256 ≤ s.callCount e.p.ctx || s.acquiring e.p e.pid then .stall s
        else releaseThen true .pkg e s fun t => probeStart e (some .net) c.asks (.call c) t
    | _, _ => refuseIssue e s

/-- CGRUN (R375). -/
def execCgrun (f : Full) (s : State) : Out := issueUnitPre 3 (cgrunEarly f) (formCgrun f) (some .net) (whenExec (cgrunBody f)) f s

/-- The snapshot of CGSTAT (R388). -/
def State.cgstatVal (s : State) (slot group : Nat) : Nat :=
  match s.groupSt slot group with
  | none => 0
  | some g =>
    let cs := s.callsOf fun c => c.slot == slot && c.group == group
    let st := match cs with
      | [] => 0
      | (_, c) :: _ => if c.abort.isSome then 3 else if s.callLive c then 2 else 1
    g.trick + (min 255 cs.length) <<< 32 + st <<< 40 + b2n g.lab <<< 43 + g.lcause <<< 44 + 2 ^ 63

/-- CGSTAT (R388). -/
def cgstatBody (f : Full) (e : Env) (s : State) : Res :=
  if s.acquiring e.p e.pid then .stall s
  else .done (enterOne e f .segstat .n64 2 (.ready (leBytes 8 (s.cgstatVal e.p.ctx (mX f)))) s).1

/-- CGSTAT (R388). -/
def execCgstat (f : Full) (s : State) : Out := issueUnit 3 (formCgstat f) (some .ld) (whenExec (cgstatBody f)) f s

/-- The group that CGABORT names is loaded (R386), before the registers (R61, R101). -/
def cgabortEarly (f : Full) : Env → State → Pre := refuseIf fun e s => (s.groupSt e.p.ctx (mX f)).isNone

/-- CGABORT (R384, R386). -/
def cgabortBody (f : Full) (e : Env) (s : State) : Res :=
  let cs := s.callsOf fun c => c.slot == e.p.ctx && c.group == mX f
  .done (cs.foldl (fun s x => s.callAbort x.1 0 true none) s)

/-- CGABORT (R386). -/
def execCgabort (f : Full) (s : State) : Out := issueUnitPre 3 (cgabortEarly f) (formCgabort f) none (whenExec (cgabortBody f)) f s

/-- CGTRIG (R387). -/
def cgtrigBody (f : Full) (e : Env) (s : State) : Res :=
  if s.acquiring e.p e.pid then .stall s
  else releaseThen true .pkg e s fun t =>
    let (op, t) := t.freshOp
    let t := t.updPly e.pid fun p => p.issueOp op .st
    .done { t with trigs := t.trigs ++ [{ op := op, slot := e.p.ctx, pid := e.pid, uid := e.p.uid, target := (sWords t e.p f.a 1).headD 0, cg := true }] }

/-- CGTRIG (R387). -/
def execCgtrig (f : Full) (s : State) : Out := issueUnit 3 (formCgtrig f) (some .st) (whenExec (cgtrigBody f)) f s

end Sys2Proof.Machine
end

