-- ==== Sys2Proof/Machine/Receive.lean ====
section
/-! DEFINITION. The receive engine (R390 to R407): endpoints, messages and their match order, landing, the unexpected queue, completion
records, and the instructions SEND, RPOST, RCANCEL, RPROBE, RCLAIM and RSTAT; and RELEASE of a context slot. -/

namespace Sys2Proof.Machine

/-! ## Endpoints (R390, R391) -/

/-- The key of an endpoint. -/
def epKey (slot ep : Nat) : Nat := slot * 16 + ep
/-- An open endpoint. -/
def State.endpoint (s : State) (k : Nat) : Option Endpoint := s.eps.get k
/-- Change an endpoint. -/
def State.updEp (s : State) (k : Nat) (f : Endpoint → Endpoint) : State := { s with eps := s.eps.upd k f }

/-- For whom the receive engine acts on an endpoint's own memory. -/
def State.epAgent (s : State) (k : Nat) : Agent :=
  { who := { asid := s.slotAsid (k / 16), slot := some (k / 16), core := 0, part := 0, pslot := 0, uid := none, dev := 0, inb := false }
    slot := k / 16, skein := 2 ^ 60, core := 0, kind := 3 }

/-- The address and job identifier of a scale-out peer (R391), none where its entry cannot be read. -/
def State.peerEntry (s : State) (k j : Nat) (e : Endpoint) : State × Option (Nat × Nat) :=
  match s.engRead (s.epAgent k) [] (e.ptBase + 32 * j) 32 with
  | (s, .ok bs) => let x := leNat bs; (s, some (fld x 127 0, fld x 151 128))
  | (s, _) => (s, none)

/-- The source rank of a scale-out sender: the first entry with its address and job identifier (R406). -/
def State.peerRank (s : State) (k : Nat) (e : Endpoint) (ip job : Nat) : State × Option Nat :=
  (List.range e.npeer).foldl (fun (acc : State × Option Nat) j => match acc.2 with
    | some _ => acc
    | none => match acc.1.peerEntry k j e with
      | (t, some x) => (t, if x.1 = ip && x.2 = job then some (e.mem.length + j) else none)
      | (t, none) => (t, none)) (s, none)

/-- A packet leaves for a scale-out peer by one of the four 800 GbE ports, which is free (R12, R406). -/
def State.uetSend (s : State) (to' : MsgFrom) (b : FabBody) : State :=
  let (n, s) := s.drawFree
  { s with uetOut := s.uetOut ++ [(Config.freeNat n % 4, to', b)] }

/-- Answer a sender. -/
def State.msgReply (s : State) (org : MsgFrom) (b : FabBody) : State := match org with
  | .rank _ dev => s.fabSend .eng recvAgent dev b
  | .peer _ _ => s.uetSend org b

/-! ## Ranges of a tensor (R394) -/

/-- Elements of a tensor. -/
def tidCount (e : Nat) : Nat := ((List.range (tidRank e)).map (tidDim e)).foldl (· * ·) 1
/-- The coordinates of a linear index. -/
def tidCoords (e n : Nat) : List Nat := digits ((List.range (tidRank e)).map (tidDim e)) n
/-- The bytes of a payload. -/
def payLen (e count : Nat) : Nat := count * tidBits e / 8
/-- The checks of R394. -/
def rangeOk (e off count : Nat) : Bool :=
  off + count ≤ tidCount e && (tidBits e != 4 || (off % 2 == 0 && count % 2 == 0)) && payLen e count < 2 ^ 32

/-- The runs of bytes of a range, in ascending linear index: rows of dimension 0. -/
def tensorRuns (e : Nat) : Nat → Nat → Nat → List (Nat × Nat)
  | 0, _, _ => []
  | fuel + 1, n, left =>
    if left = 0 || tidDim e 0 = 0 then []
    else
      let k := min (tidDim e 0 - n % tidDim e 0) left
      (tidAddr e (tidCoords e n), k * tidBits e / 8) :: tensorRuns e fuel (n + k) (left - k)
/-- The runs of the first `len` bytes. -/
def cutRuns : Nat → List (Nat × Nat) → List (Nat × Nat)
  | _, [] => []
  | len, r :: rs => if len = 0 then [] else (r.1, min r.2 len) :: cutRuns (len - r.2) rs
/-- The runs of a range. -/
def rangeRuns (e : Line) (off count : Nat) : List (Nat × Nat) := tensorRuns e.toNat count off count

/-- Read runs for an agent. -/
def State.runsRead (s : State) (g : Agent) (rs : List (Nat × Nat)) : State × ColGet :=
  rs.foldl (fun (acc : State × ColGet) r => match acc.2 with
    | .ok bs => match acc.1.colRead g r with
      | (t, .ok b) => (t, .ok (bs ++ b))
      | x => x
    | _ => acc) (s, .ok [])

/-- How far a landing came: all of it; so many bytes, and it waits; or a failure after so many bytes. -/
inductive Landed where
  | ok
  | wait
  | fail (n : Nat)
  deriving DecidableEq, Repr

/-- Write bytes to runs (R399). -/
def State.runsWrite (s : State) (g : Agent) : Nat → List (Nat × Nat) → List Byte → State × Landed
  | _, [], _ => (s, .ok)
  | n, r :: rs, bs => match s.colWrite g r.1 (bs.take r.2) with
    | (t, .ok _) => State.runsWrite t g (n + r.2) rs (bs.drop r.2)
    | (t, .wait) => (t, .wait)
    | (t, .fail va) => (t, .fail (n + (va + 2 ^ 56 - r.1) % 2 ^ 56))

/-! ## Records and decrements (R399, R400) -/

/-- S of R396. -/
def Post.sectors (p : Post) : Nat := (payLen p.ent.toNat p.count + 31) / 32
/-- For whom a receive lands. -/
def State.postAgent (s : State) (p : Post) : Agent := s.plyAgent p.pid p.uid p.skein p.slot 3
/-- The endpoint of a post. -/
def Post.key (p : Post) : Nat := epKey p.slot p.ep

/-- A completion record (R400). -/
def Recv.image (r : Recv) : Nat :=
  r.src + r.status <<< 16 + r.mlen <<< 32 + r.tag.toNat <<< 64 + r.land <<< 128 + r.post.handle <<< 160 + b2n r.uq <<< 176
    + r.post.cookie.toNat <<< 192

/-- Write the record, when the ring has room and no earlier receive waits; then the last decrement, or completion (R396, R399,
R400). -/
def State.recvRing (s : State) (n : Nat) : State :=
  match s.recvs.get n with
  | none => s
  | some r => match r.ph, s.endpoint r.post.key with
    | .ring, some e =>
      let earlier := s.recvs.any fun x => x.2.ph == .ring && x.2.post.key == r.post.key && x.2.order < r.order
      if earlier then s
      else if 2 ^ e.crLog ≤ e.wrote - e.took then s.updEp r.post.key fun e => { e with crfull := true }
      else match s.engWrite (s.epAgent r.post.key) (e.crBase + 32 * (e.wrote % 2 ^ e.crLog)) (leBytes 32 r.image) with
        | (t, .wait) => t
        | (t, _) =>
          let t := t.updEp r.post.key fun e => { e with wrote := e.wrote + 1 }
          if r.post.sectors = 0 then { t with recvs := t.recvs.del n }.engComplete r.post.uid n
          else { t with recvs := t.recvs.set n { r with ph := .over } }.tbSend r.post.bar r.post.slot r.post.pid r.post.uid (-1) false false (some (n, .net))
    | _, _ => s

/-- Every receive of an endpoint that waits for the ring tries again, in completion order. -/
def State.ringAll (s : State) (k : Nat) : State :=
  (sortBy (fun e => e.2.order) (s.recvs.filter fun x => x.2.ph == .ring && x.2.post.key == k)).foldl (fun s x => s.recvRing x.1) s

/-- A number under which a receive's decrement is on its way that completes nothing. -/
def recvKey (n : Nat) : Nat := 2 ^ 65 + n

/-- The data of a receive has landed, or will not: all decrements but the last, the answer owed, the freed units, and the record
(R398, R399, R402). -/
def State.recvDone (s : State) (n : Nat) (r : Recv) (land status : Nat) : State :=
  let (o, s) := s.freshOp
  let err := status == 3
  let sect : Int := 1 - (r.post.sectors : Int)
  let s := if r.post.sectors ≤ 1 && !err then s
    else s.tbSend r.post.bar r.post.slot r.post.pid r.post.uid (if r.post.sectors = 0 then 0 else sect) false err (some (recvKey n, .net))
  let s := match r.answer with
    | some a => s.msgReply r.org (.sendDone r.send a)
    | none => s
  let r : Recv := { r with order := o, land := land, status := status, answer := none, run := none, ph := .ring }
  { s with recvs := s.recvs.set n r }.recvRing n

/-- The status of a receive that lands what it should. -/
def Recv.okStatus (r : Recv) : Nat := if payLen r.post.ent.toNat r.post.count < r.mlen then 1 else 0
/-- L of R399. -/
def Recv.len (r : Recv) : Nat := min r.mlen (payLen r.post.ent.toNat r.post.count)

/-- LAND bytes that are here (R399). -/
def State.recvLand (s : State) (n : Nat) (r : Recv) (bs : List Byte) : State :=
  let s := { s with recvs := s.recvs.set n { r with ph := .land bs } }
  match s.runsWrite (s.postAgent r.post) 0 (cutRuns r.len (rangeRuns r.post.ent r.post.off r.post.count)) bs with
  | (t, .ok) => t.recvDone n r r.len r.okStatus
  | (t, .wait) => t
  | (t, .fail k) => t.recvDone n r k 3

/-- A receive goes as far as it can; with its last decrement performed its entry is free (R396). -/
def State.recvGo (s : State) (n : Nat) : State :=
  match s.recvs.get n with
  | none => s
  | some r => match r.ph with
    | .pull => s
    | .over => if s.tbOwes n then s else { s with recvs := s.recvs.del n }
    | .land bs => s.recvLand n r bs
    | .ring => s.ringAll r.post.key
    | .read => match r.run, s.endpoint r.post.key with
      | some (u, _), some e => match s.engRead (s.epAgent r.post.key) [] (e.uqBase + 64 * u) r.len with
        | (t, .ok bs) => t.recvLand n r bs
        | (t, .wait) => t
        | (t, _) => t.recvDone n r 0 3
      | _, _ => s

/-! ## A SEND and its source (R395, R398, R404) -/

/-- The bytes of a SEND. -/
def SendOp.len (o : SendOp) : Nat := payLen o.ent.toNat o.count
/-- The key of its endpoint. -/
def SendOp.key (o : SendOp) : Nat := epKey o.slot o.ep
/-- For whom a SEND reads. -/
def State.sendAgent (s : State) (o : SendOp) : Agent := s.plyAgent o.pid o.uid o.skein o.slot 3

/-- Where a SEND's message goes: a rank of the pod or a scale-out peer; none where the peer's entry cannot be read. -/
def State.sendTo (s : State) (o : SendOp) (e : Endpoint) : State × Option MsgFrom :=
  if o.dest < e.mem.length then (s, some (MsgFrom.rank o.dest ((e.mem[o.dest]?).getD 0)))
  else match s.peerEntry o.key (o.dest - e.mem.length) e with
    | (s, some x) => (s, some (.peer x.1 x.2))
    | (s, none) => (s, none)

/-- The message of a SEND, with a body. -/
def State.sendMsg (s : State) (n : Nat) (o : SendOp) (e : Endpoint) (b : MsgBody) : MsgIn :=
  { ctxid := pktCtxid (s.ctx o.slot), ep := o.ep, src := .rank e.rank s.mgmt.devidx, tag := o.tag, len := o.len, msn := o.msn, send := n, body := b }

/-- Put messages on the way to a destination. -/
def State.msgSend (s : State) (to' : MsgFrom) (ms : List MsgIn) : State := match to' with
  | .rank _ dev => ms.foldl (fun s m => s.fabSend .eng recvAgent dev (.msg m)) s
  | .peer _ _ => ms.foldl (fun s m => s.uetSend to' (.msg m)) s

/-- The receiver is told that an MSN has failed, so that no message waits behind it (R404); where the destination cannot be named, with the next
message there. -/
def State.sendVoid (s : State) (n : Nat) (o : SendOp) : State := match s.endpoint o.key with
  | none => s
  | some e => match s.sendTo o e with
    | (s, some d) => s.msgSend d [s.sendMsg n o e .void]
    | (s, none) => s.updEp o.key fun e => { e with failed := e.failed.set o.dest ((e.failed.get o.dest).getD [] ++ [o.msn]) }

/-- The SEND ends: it completes in `cl.net`, with its condition, and its MSN counts as failed (R395, R404). -/
def State.sendEnd (s : State) (n : Nat) (o : SendOp) (cond : Option (Nat × Nat)) (failed : Bool) : State :=
  let s := { s with sends := s.sends.del n }
  let s := match cond with
    | some (sub, va) => s.colCond o.slot o.pid o.uid sub va
    | none => s
  let s := if failed then s.sendVoid n o else s
  s.engComplete o.uid n

/-- A destination pulls a payload from here (R398): none where the source must still wait. -/
def State.pullFor (s : State) (back : State → PullReply → State) (n len : Nat) : Option State :=
  match s.sends.get n with
  | none => some (back s .failed)
  | some o => match s.runsRead (s.sendAgent o) (cutRuns len (rangeRuns o.ent o.off o.count)) with
    | (s, .ok bs) => some (back s (.payload bs))
    | (_, .wait) => none
    | (s, .fail va) => some ((back s .failed).sendEnd n o (some (0x11, va)) false)

/-- A scale-out peer reads by RMA a payload that stays here (R398, R406). -/
def State.pullPeer (s : State) (org : MsgFrom) (n recv len : Nat) : State :=
  (s.pullFor (fun s r => s.msgReply org (.pulled recv r)) n len).getD s

/-! ## The match order (R397, R398) -/

/-- Fits of R397. -/
def fits (src : Nat) (tag : DWord) (psrc smask : Nat) (ptag tmask : DWord) : Bool :=
  src &&& smask == psrc &&& smask && tag &&& tmask == ptag &&& tmask

/-- A new receive of a post. -/
def recvNew (p : Post) (src : Nat) (m : MsgIn) (uq : Bool) : Recv :=
  { post := p, order := 0, src := src, org := m.src, send := m.send, tag := m.tag, mlen := m.len, land := 0, status := 0, uq := uq,
    answer := none, run := none, ph := .pull }

/-- Ask the sender for the payload (R398). -/
def State.recvPull (s : State) (r : Recv) : State :=
  ({ s with recvs := s.recvs.set r.post.op { r with answer := some .pulled, ph := .pull, clock := s.clock } }).msgReply r.org (.pull r.send r.post.op r.len)

/-- Land(p, m) for a message that has just arrived (R399). -/
def State.landNow (s : State) (p : Post) (src : Nat) (m : MsgIn) : State :=
  let r := recvNew p src m false
  match m.body with
  | .eager bs => s.recvLand p.op { r with answer := some .landed } (bs.take r.len)
  | .header => s.recvPull r
  | _ => s.recvDone p.op r 0 3

/-- The gaps between runs of units, from a position. -/
def gapsFrom (total : Nat) : Nat → List (Nat × Nat) → List (Nat × Nat)
  | pos, [] => if pos < total then [(pos, total - pos)] else []
  | pos, (a, n) :: us => if pos < a then (pos, a - pos) :: gapsFrom total (a + n) us else gapsFrom total (max pos (a + n)) us
/-- The place that a number picks among those where `need` units fit. -/
def pickGap (need : Nat) : List (Nat × Nat) → Nat → Option Nat
  | [], _ => none
  | (a, n) :: gs, k => if n < need then pickGap need gs k else if k ≤ n - need then some (a + k) else pickGap need gs (k - (n - need + 1))

/-- Allocate units of the region for a payload (R398): which place is free. -/
def State.uqAlloc (s : State) (k : Nat) (e : Endpoint) (len : Nat) : State × Option (Nat × Nat) :=
  let need := (len + 63) / 64
  if need = 0 then (s, some (0, 0))
  else
    let used := e.uq.filterMap UqMsg.run ++ (s.recvs.filter fun x => x.2.post.key == k).filterMap fun x => x.2.run
    let gs := gapsFrom (2 ^ (e.uqLog - 6)) 0 (sortBy Prod.fst (used.filter fun u => u.2 != 0))
    let choices := ((gs.filter fun g => need ≤ g.2).map fun g => g.2 - need + 1).sum
    if choices = 0 then (s, none)
    else
      let (n, s) := s.drawFree
      (s, (pickGap need gs (Config.freeNat n % choices)).map fun u => (u, need))

/-- A message joins the unexpected queue (R398). -/
def State.msgQueue (s : State) (k src : Nat) (e : Endpoint) (m : MsgIn) : State :=
  let q : UqMsg := { src := src, org := m.src, tag := m.tag, len := m.len, msn := m.msn, send := m.send, lost := m.body == .lost, run := none }
  let put (s : State) (q : UqMsg) : State := s.updEp k fun e => { e with uq := e.uq ++ [q] }
  let keep (s : State) : State := (put s q).msgReply m.src (.sendDone m.send .kept)
  match m.body with
  | .eager bs => match s.uqAlloc k e m.len with
    | (s, some u) => match s.engWrite (s.epAgent k) (e.uqBase + 64 * u.1) bs with
      | (s, .ok) => (put s { q with run := some u }).msgReply m.src (.sendDone m.send .queued)
      | (s, _) => keep s
    | (s, none) => keep s
  | .header => keep s
  | _ => put s q

/-- ENTER A MESSAGE into the match order (R397): its MSN is the next of its source. False where it is held off. -/
def State.msgEnter (s : State) (k src : Nat) (m : MsgIn) : State × Bool :=
  match s.endpoint k with
  | none => (s, false)
  | some e =>
    let next (s : State) : State := s.updEp k fun e => { e with msnIn := e.msnIn.set src ((m.msn + 1) % 2 ^ 32) }
    if m.body == .void then (next s, true)
    else match e.posted.find? fun p => fits src m.tag p.psrc p.smask p.ptag p.tmask with
      | some p => (((next s).updEp k fun e => { e with posted := e.posted.filter fun x => x.op != p.op }).landNow p src m, true)
      | none =>
        if 4096 ≤ e.uq.length then (s.msgReply m.src (.hold m.send), false)
        else ((next s).msgQueue k src e m, true)

/-- Messages that waited for their predecessors enter (R397). -/
def State.msgNext (s : State) (k src : Nat) : Nat → State
  | 0 => s
  | fuel + 1 => match s.endpoint k with
    | none => s
    | some e => match e.early.find? fun m => m.1 == src && m.2.msn == (e.msnIn.get src).getD 0 with
      | none => s
      | some m =>
        let s := s.updEp k fun e => { e with early := e.early.filter (· != m) }
        match s.msgEnter k src m.2 with
        | (s, true) => State.msgNext s k src fuel
        | (s, false) => s

/-- A message of a known source rank: its turn, too early, or already used (R397, R407). -/
def State.msgFrom (s : State) (k src : Nat) (e : Endpoint) (m : MsgIn) : State :=
  let want := (e.msnIn.get src).getD 0
  let d := (m.msn + 2 ^ 32 - want) % 2 ^ 32
  if d = 0 then match s.msgEnter k src m with
    | (s, true) => s.msgNext k src e.early.length
    | (s, false) => s
  else if 2 ^ 31 ≤ d || e.early.any fun x => x.1 == src && x.2.msn == m.msn then s
  else
    let s := s.updEp k fun e => { e with early := e.early ++ [(src, m)] }
    if m.body == .void || m.body == .lost then s else s.msgReply m.src (.sendDone m.send .kept)

/-- A MESSAGE ARRIVES (R397, R398, R404, R406). -/
def State.msgArrive (s : State) (m : MsgIn) : State :=
  let quiet := m.body == .void
  match m.body with
  | .pull recv => s.pullPeer m.src m.send recv m.len
  | _ => match s.slotFor m.ctxid with
  | none => if quiet then s else s.msgReply m.src (.sendDone m.send .refused)
  | some slot =>
    let k := epKey slot m.ep
    match s.endpoint k with
    | none => if quiet then s else s.msgReply m.src (.hold m.send)
    | some e => match m.src with
      | .rank r _ => s.msgFrom k r e m
      | .peer ip job => match s.peerRank k e ip job with
        | (s, some r) => s.msgFrom k r e m
        | (s, none) => s.updEp k fun e => { e with drop := true }

/-- A message that reaches the package, or waits by fabric credit where the chunk buffers have no room for it (R377, R397). -/
def State.msgTake (s : State) (m : MsgIn) : Option State := if s.chunkRoom (.msg m) then some (s.msgArrive m) else none

/-- MESSAGE_ARRIVAL (R397). One from the package itself is a packet that its switch returned. -/
def execMessageArrival (m : MsgIn) (s : State) : Out :=
  let own := match m.src with
    | .rank _ dev => dev == s.mgmt.devidx
    | .peer _ _ => false
  if own then match s.takeLoop (.msg m) with
    | some t => .next ((t.msgTake m).getD s)
    | none => .next s
  else .next ((s.msgTake m).getD s)

/-- The payload of a header-only message comes, or does not (R398, R406). -/
def State.pullAnswer (s : State) (n : Nat) (r : Recv) : PullReply → State
  | .payload bs => s.recvLand n r (bs.take r.len)
  | .failed => s.recvDone n { r with answer := none } 0 3

/-- A receive's sender is the package itself. -/
def State.ownOrg (s : State) : MsgFrom → Bool
  | .rank _ dev => dev == s.mgmt.devidx
  | .peer _ _ => false

/-- PAYLOAD_PULL (R398); a receive whose landing waited goes on. A pull from a scale-out peer fails when the fabric timeout has run out (R406). -/
def execPayloadPull (recv : Nat) (r : PullReply) (s : State) : Out :=
  match s.recvs.get recv with
  | none => .next s
  | some x =>
    if x.ph != .pull then .next (s.recvGo recv)
    else if s.ownOrg x.org then match s.takeLoop (.pulled recv r) with
      | some s => .next (s.pullAnswer recv x r)
      | none => .next s
    else if r == .failed && (match x.org with
      | .peer _ _ => !expired (some x.clock) s.tout s.clock
      | .rank _ _ => false) then .next s
    else .next (s.pullAnswer recv x r)

/-! ## Sending (R395) -/

/-- The message leaves (R395): behind notices of the MSNs that failed (R404), with its payload where that is small. It waits where a
side log holds its source. -/
def State.sendOut (s : State) (n : Nat) (o : SendOp) : State :=
  match s.endpoint o.key with
  | none => s
  | some e =>
    let m : MsgIn := s.sendMsg n o e .header
    let pre := ((e.failed.get o.dest).getD []).map fun x => { m with msn := x, body := .void }
    let (s, to') := s.sendTo o e
    let left (s : State) : Option Nat := if o.dest < e.mem.length then none else some s.clock
    let out (s : State) : State := { s with sends := s.sends.set n { o with ph := .out, clock := left s } }
    match to' with
    | none => s.sendEnd n o (some (0x11, (e.ptBase + 32 * (o.dest - e.mem.length)) % 2 ^ 56)) true
    | some d =>
      if 16384 < o.len then (out s).msgSend d (pre ++ [m])
      else match s.runsRead (s.sendAgent o) (rangeRuns o.ent o.off o.count) with
        | (s, .ok bs) => (out s).msgSend d (pre ++ [{ m with body := .eager bs }])
        | (s, .wait) => { s with sends := s.sends.set n { o with ph := .wait } }
        | (s, .fail va) =>
          let t := (s.msgSend d (pre ++ [{ m with body := .lost }])).sendEnd n o (some (0x11, va)) false
          { t with sends := t.sends.set n { o with ph := .lost, clock := some s.clock } }

/-- A hold answers a SEND (R398): its timeout starts again and it waits to be sent again. A message that waited at the target for its
predecessor may be held off when its turn comes. -/
def State.sendHold (s : State) (n : Nat) : State :=
  match s.sends.get n with
  | none => s
  | some o => { s with sends := s.sends.set n { o with ph := if o.ph == .lost then .lost else .wait, clock := none } }

/-- The destination of a SEND is the package itself. -/
def State.ownSend (s : State) (o : SendOp) : Bool := match s.endpoint o.key with
  | some e => e.mem[o.dest]? == some s.mgmt.devidx
  | none => false

/-- The notice of a SEND whose source was lost goes out again after a hold (R398, R404). -/
def State.sendLost (s : State) (n : Nat) (o : SendOp) : State := match s.endpoint o.key with
  | none => s
  | some e => match s.sendTo o e with
    | (s, none) => s
    | (s, some d) => { s.msgSend d [s.sendMsg n o e .lost] with sends := s.sends.set n { o with clock := some s.clock } }

/-- MESSAGE_HOLD (R398): a hold arrives, or a message that was held is sent again. -/
def execMessageHold (send : Nat) (s : State) : Out :=
  match s.sends.get send with
  | none => .next s
  | some o => match o.ph with
    | .wait => .next (s.sendOut send o)
    | .lost => .next (if o.clock.isNone then s.sendLost send o else s.sendHold send)
    | _ =>
      if s.ownSend o then match s.takeLoop (.hold send) with
        | some s => .next (s.sendHold send)
        | none => .next s
      else .next (s.sendHold send)

/-- The first failing address of a SEND's source. -/
def State.sendBad (s : State) (o : SendOp) : State × Nat :=
  match s.runsRead (s.sendAgent o) (rangeRuns o.ent o.off o.count) with
  | (s, .fail va) => (s, va)
  | (s, _) => (s, 0)

/-- The destination's answer reaches a SEND (R395, R398, R404). -/
def State.sendAnswer (s : State) (n : Nat) (r : SendReply) : State :=
  match s.sends.get n with
  | none => s
  | some o => if o.ph == .lost then { s with sends := s.sends.del n } else match r with
    | .kept => { s with sends := s.sends.set n { o with ph := .kept } }
    | .refused => s.sendEnd n o (some (0x10, 0)) true
    | .fault => let (s, va) := s.sendBad o; s.sendEnd n o (some (0x11, va)) false
    | _ => s.sendEnd n o none false

/-- SEND_COMPLETE (R395). -/
def execSendComplete (send : Nat) (r : SendReply) (s : State) : Out :=
  match s.sends.get send with
  | none => .next s
  | some o =>
    if s.ownSend o then match s.takeLoop (.sendDone send r) with
      | some s => .next (s.sendAnswer send r)
      | none => .next s
    else .next (s.sendAnswer send r)

/-- A SEND that has had neither acknowledgement nor hold within the fabric timeout (R404). -/
def State.sendTimeout (s : State) (n : Nat) (o : SendOp) : State :=
  if o.ph == .out && expired o.clock s.tout s.clock then s.sendEnd n o (some (0x12, 0)) true
  else if o.ph == .lost && expired o.clock s.tout s.clock then { s with sends := s.sends.del n } else s

/-- A destination of the pod pulls a payload from here (R398). -/
def State.pullServe (s : State) (dev n recv len : Nat) : Option State :=
  s.pullFor (fun s r => s.fabSend .eng recvAgent dev (.pulled recv r)) n len

/-! ## The instructions -/

/-- The endpoint that an instruction names. -/
def epOf (e : Env) (f : Full) : Nat := epKey e.p.ctx (mX f)
/-- A word of the block. -/
def wordAt (ws : List Word) (i : Nat) : Nat := ((ws[i]?).getD 0).toNat
/-- A pair of words of the block. -/
def pairAt (ws : List Word) (i : Nat) : Nat := wordAt ws i + wordAt ws (i + 1) * 2 ^ 32

/-- The tensor entry that an instruction names (R235), by the receive engine's cache. -/
def State.recvTid (s : State) (e : Env) (f : Full) : State × Option Nat :=
  s.tidGet unitRecv (s.plyAgent e.pid e.p.uid e.p.skein e.p.ctx 3) (mY f)

/-- The endpoint that an instruction names is open (R393), before the registers (R61, R101). -/
def epEarly (f : Full) : Env → State → Pre := refuseIf fun e s => (s.endpoint (epOf e f)).isNone

/-- The same, and the tensor entry that it names is valid (R232, R393). -/
def epTidEarly (f : Full) : Env → State → Pre := preThen (epEarly f) fun e s => match s.recvTid e f with
  | (t, none) => .stall t
  | (t, some d) => if tidValid d then .go t else .refuse

/-- The element range in s registers i and i + 1 of an instruction's block fails its checks (R393, R399). -/
def rangeVals (f : Full) (i : Nat) : Env → State → Pre := refuseVals [⟨regAfter f.a i, 2, false⟩] fun e s => match s.recvTid e f with
  | (t, some d) =>
    let ws := sWords t e.p f.a (i + 2)
    !rangeOk d (wordAt ws i) (wordAt ws (i + 1))
  | _ => false

/-- The destination of a SEND is no rank of the endpoint (R393). -/
def destVals (f : Full) : Env → State → Pre := refuseVals [⟨f.a, 1, false⟩] fun e s => match s.endpoint (epOf e f) with
  | some ep => ep.mem.length + ep.npeer ≤ wordAt (sWords s e.p f.a 1) 0
  | none => false

/-- The probe's questions about runs. -/
def runAsks (rs : List (Nat × Nat)) (wr host : Bool) (nl : Nat) : List ProbeAsk :=
  rs.flatMap fun r => (pageStarts r.1 r.2).map fun a => { ga := a, write := wr, host := host, nl := nl }

/-- A SEND to one destination that issued earlier on the package is still in its probe (R395). -/
def State.sendEarlier (s : State) (op : Nat) (o : SendOp) : Bool := s.probes.any fun e => e.1 < op && match e.2.what with
  | .send x => x.key == o.key && x.dest == o.dest
  | _ => false
/-- An RPOST at an endpoint that issued earlier on the package is still in its probe (R397). -/
def State.postEarlier (s : State) (op : Nat) (p : Post) : Bool := s.probes.any fun e => e.1 < op && match e.2.what with
  | .post x => x.key == p.key
  | _ => false

/-- SEND (R393 to R395). -/
def sendBody (f : Full) (e : Env) (s : State) : Res :=
  probeAwait e s (fun op x t => match x with
    | .send o => if s.sendEarlier op o then .stall s else match t.endpoint o.key with
      | none => .done (t.engComplete o.uid op)
      | some ep =>
        let msn := (ep.msnOut.get o.dest).getD 0
        let t := t.updEp o.key fun e => { e with msnOut := e.msnOut.set o.dest ((msn + 1) % 2 ^ 32) }
        .done (t.sendOut op { o with msn := msn })
    | _ => .stall t) fun s =>
    match s.endpoint (epOf e f) with
    | none => refuseIssue e s
    | some _ => match s.recvTid e f with
      | (t, none) => .stall t
      | (t, some d) =>
        let ws := sWords t e.p f.a 5
        let dest := wordAt ws 0
        if t.acquiring e.p e.pid then .stall t
        else releaseThen true .pkg e t fun t =>
          let o : SendOp := { pid := e.pid, uid := e.p.uid, skein := e.p.skein, slot := e.p.ctx, ep := mX f, dest := dest,
                              tag := BitVec.ofNat 64 (pairAt ws 1), ent := BitVec.ofNat 512 d, off := wordAt ws 3, count := wordAt ws 4, msn := 0,
                              clock := none, ph := .wait }
          probeStart e (some .net) (runAsks (rangeRuns o.ent o.off o.count) false false 15) (.send o) t

/-- SEND (R395). -/
def execSend (f : Full) (s : State) : Out := issueUnitPre 4 (preThen (epTidEarly f) (preThen (rangeVals f 3) (destVals f))) (formSend f) (some .net) (whenExec (sendBody f)) f s

/-- Words that an engine has given arrive in D (R401, R402): a request that is performed already. -/
def enterWords (e : Env) (f : Full) (acq uns : Bool) (ws : List Nat) (s : State) : State :=
  let q := onePart e (4 * ws.length) (.ready (ws.flatMap (leBytes 4)))
  let r := { newReq e .answer .ld f ws.length true [q] with ty := .n32, n := ws.length, ord := if acq then .acq else .weak, scope := .pkg, uns := uns }
  let (s, op) := s.enter r
  emptyD s e op f.d ws.length

/-- Posted entries in use on the package (R396). -/
def State.postsUsed (s : State) : Nat := (s.eps.map fun e => e.2.posted.length).sum + s.recvs.length

/-- POST AN ENTRY (R397): with the oldest queued message that fits, or at the end of the posted entries; and whether it matched. -/
def State.post (s : State) (p : Post) : State × Bool :=
  match s.endpoint p.key with
  | none => (s, false)
  | some e => match e.uq.find? fun m => fits m.src m.tag p.psrc p.smask p.ptag p.tmask with
    | none => (s.updEp p.key fun e => { e with posted := e.posted ++ [p] }, false)
    | some m =>
      let s := s.updEp p.key fun e => { e with uq := e.uq.erase m }
      let r : Recv := { post := p, order := 0, src := m.src, org := m.org, send := m.send, tag := m.tag, mlen := m.len, land := 0, status := 0,
                        uq := true, answer := none, run := m.run, ph := .read }
      (if m.lost then s.recvDone p.op r 0 3
        else if m.run.isSome then { s with recvs := s.recvs.set p.op r }.recvGo p.op
        else s.recvPull r, true)

/-- The entry is posted and D's word is on its way (R396). -/
def rpostBegin (f : Full) (e : Env) (op : Nat) (p : Post) (s : State) : State :=
  if 65536 ≤ s.postsUsed then (enterWords e f false true [2 ^ 24] s).engComplete p.uid op
  else
    let used := (match s.endpoint p.key with
      | some x => x.posted.map Post.handle
      | none => []) ++ (s.recvs.filter fun r => r.2.post.key == p.key).map fun r => r.2.post.handle
    let (n, s) := s.drawFree
    let h := freeHandle (sortBy id used) (Config.freeNat n % (65536 - used.length))
    let (s, uq) := s.post { p with op := op, handle := h }
    enterWords e f false true [h + b2n uq * 2 ^ 16] s

/-- RPOST (R393, R394, R396). -/
def rpostBody (f : Full) (e : Env) (s : State) : Res :=
  probeAwait e s (fun op x t => match x with
    | .post p => if s.postEarlier op p then .stall s else .done (rpostBegin f e op p t)
    | _ => .stall t) fun s =>
    match s.endpoint (epOf e f) with
    | none => refuseIssue e s
    | some _ => match s.recvTid e f with
      | (t, none) => .stall t
      | (t, some d) =>
        let ws := sWords t e.p f.a 10
        let w0 := wordAt ws 0
        let bar := pairAt ws 7 % 2 ^ 56
        alignAll e [(bar, 16)] t fun _ =>
          if t.acquiring e.p e.pid then .stall t
          else releaseThen true .pkg e t fun t =>
            let p : Post := { op := 0, pid := e.pid, uid := e.p.uid, skein := e.p.skein, slot := e.p.ctx, ep := mX f, psrc := w0 % 65536,
                              smask := w0 / 65536, ptag := BitVec.ofNat 64 (pairAt ws 1), tmask := BitVec.ofNat 64 (pairAt ws 3),
                              ent := BitVec.ofNat 512 d, off := wordAt ws 5, count := wordAt ws 6, bar := t.tbRef e.pid e.p bar,
                              cookie := BitVec.ofNat 32 (wordAt ws 9), handle := 0 }
            probeStart e (some .net) (runAsks (rangeRuns p.ent p.off p.count) true true (tidNl d) ++ barAsks (some p.bar)) (.post p) t

/-- RPOST (R396). -/
def execRpost (f : Full) (s : State) : Out := issueUnitPre 4 (preThen (epTidEarly f) (rangeVals f 5)) (formRpost f) (some .net) (whenExec (rpostBody f)) f s

/-- RCANCEL (R402). -/
def rcancelBody (f : Full) (e : Env) (s : State) : Res :=
  match s.endpoint (epOf e f) with
  | none => refuseIssue e s
  | some ep =>
    if s.acquiring e.p e.pid then .stall s
    else
      let h := wordAt (sWords s e.p f.a 1) 0 % 65536
      match ep.posted.find? fun p => p.handle == h with
      | none => .done (enterWords e f false false [1] s)
      | some p =>
        let s := s.updEp (epOf e f) fun x => { x with posted := x.posted.filter fun q => q.op != p.op }
        let r : Recv := { post := p, order := 0, src := 0, org := .peer 0 0, send := 0, tag := 0, mlen := 0, land := 0, status := 2, uq := false,
                          answer := none, run := none, ph := .ring }
        .done (enterWords e f false false [0] (s.recvDone p.op r 0 2))

/-- RCANCEL (R402). -/
def execRcancel (f : Full) (s : State) : Out := issueUnitPre 4 (epEarly f) (formRcancel f) (some .ld) (whenExec (rcancelBody f)) f s

/-- RPROBE (R402). -/
def rprobeBody (f : Full) (e : Env) (s : State) : Res :=
  match s.endpoint (epOf e f) with
  | none => refuseIssue e s
  | some ep =>
    if s.acquiring e.p e.pid then .stall s
    else
      let ws := sWords s e.p f.a 5
      let w0 := wordAt ws 0
      let hit := ep.uq.find? fun m =>
        fits m.src m.tag (w0 % 65536) (w0 / 65536) (BitVec.ofNat 64 (pairAt ws 1)) (BitVec.ofNat 64 (pairAt ws 3))
      .done (enterWords e f false false (match hit with
        | some m => [0, m.src, m.tag.toNat % 2 ^ 32, m.tag.toNat / 2 ^ 32, m.len]
        | none => [1, 0, 0, 0, 0]) s)

/-- RPROBE (R402). -/
def execRprobe (f : Full) (s : State) : Out := issueUnitPre 4 (epEarly f) (formRprobe f) (some .ld) (whenExec (rprobeBody f)) f s

/-- RCLAIM (R401): the next record, or none; the freed slot lets a receive that waits for the ring go on. -/
def rclaimBody (f : Full) (e : Env) (s : State) : Res :=
  match s.endpoint (epOf e f) with
  | none => refuseIssue e s
  | some ep =>
    if s.acquiring e.p e.pid then .stall s
    else if ep.wrote = ep.took then .done (enterWords e f false false (1 :: List.replicate 8 0) s)
    else match s.engRead (s.epAgent (epOf e f)) [] (ep.crBase + 32 * (ep.took % 2 ^ ep.crLog)) 32 with
      | (t, .wait) => .stall t
      | (t, g) =>
        let t := t.updEp (epOf e f) fun x => { x with took := x.took + 1 }
        let t := match g with
          | .ok bs => enterWords e f true false (0 :: (List.range 8).map fun i => leNat ((bs.drop (4 * i)).take 4)) t
          | _ =>
            let sub := match g with
              | .fail n _ => n
              | _ => 1
            let r := { newReq e .answer .ld f 9 true [onePart e 36 (.bad sub)] with ty := .n32, n := 9, ord := .weak }
            let (t, op) := t.enter r
            emptyD t e op f.d 9
        .done (t.ringAll (epOf e f))

/-- RCLAIM (R401). -/
def execRclaim (f : Full) (s : State) : Out := issueUnitPre 4 (epEarly f) (formRclaim f) (some .ld) (whenExec (rclaimBody f)) f s

/-- The snapshot of RSTAT (R403). -/
def State.rstatVal (s : State) (k : Nat) : Nat := match s.endpoint k with
  | none => 0
  | some e => (e.wrote - e.took) + e.uq.length <<< 17 + (min 65535 e.posted.length) <<< 33 + b2n e.drop <<< 61 + b2n e.crfull <<< 62 + 2 ^ 63

/-- RSTAT (R403). -/
def rstatBody (f : Full) (e : Env) (s : State) : Res :=
  if s.acquiring e.p e.pid then .stall s
  else .done (enterOne e f .segstat .n64 2 (.ready (leBytes 8 (s.rstatVal (epOf e f)))) s).1

/-- RSTAT (R403). -/
def execRstat (f : Full) (s : State) : Out := issueUnit 4 (formRstat f) (some .ld) (whenExec (rstatBody f)) f s

/-- RSTAT `.open` (R403): D is EMPTY, after the release the descriptor is read. -/
def rstatOpenBody (f : Full) (e : Env) (s : State) : Res :=
  let ga := sPairVal s e.p f.a % 2 ^ 56
  alignAll e [(ga, 64)] s fun _ =>
    if s.acquiring e.p e.pid then .stall s
    else releaseThen true .pkg e s fun t =>
      let q : MPart := { onePart e 4 .wait with ga := ga, place := t.placeOf e.pid e.p ga }
      let (t, op) := t.enter { newReq e (.image true (mX f)) .ld f 1 true [q] with ty := .n32, n := 1, ord := .weak }
      .done (emptyD t e op f.d 1)

/-- RSTAT `.open` (R403). -/
def execRstatOpen (f : Full) (s : State) : Out := issueUnit 4 (formRstatOpen f) (some .ld) (whenExec (rstatOpenBody f)) f s

/-- The descriptor's own fields (R390), but for where its regions lie. -/
def descOk (x : Nat) : Bool :=
  fld x 15 10 == 0 && 16 ≤ fld x 21 16 && fld x 21 16 ≤ 30 && fld x 23 22 == 0 && 4 ≤ fld x 28 24 && fld x 28 24 ≤ 16 && fld x 63 29 == 0 &&
  fld x 119 64 % 4096 == 0 && fld x 127 120 == 0 && fld x 183 128 % 32 == 0 && fld x 191 184 == 0 && fld x 247 192 % 32 == 0 &&
  fld x 255 248 == 0 && (fld x 271 256 != 0 || fld x 247 192 == 0) && fld x 511 272 == 0

/-- A region lies in the global region, on writable pages that are not HOST pages (R390). -/
def State.regionOk (s : State) (k base n : Nat) : State × Bool :=
  if 2 ^ 48 < base + n then (s, false)
  else
    let asks : List ProbeAsk := (pageStarts base n).map fun a => { ga := a, write := true, host := false, nl := 15 }
    let (s, bad) := s.probeAll (s.epAgent k) asks
    (s, bad.isEmpty)

/-- OPEN AN ENDPOINT from its descriptor (R391, R403): the status. -/
def State.epOpen (s : State) (k x : Nat) : State × Nat :=
  let busy := match s.endpoint k with
    | some e => !e.posted.isEmpty || !e.uq.isEmpty
    | none => false
  if busy then (s, 1)
  else if !descOk x then (s, 2)
  else match s.regionOk k (fld x 119 64) (2 ^ fld x 21 16) with
    | (s, false) => (s, 2)
    | (s, true) => match s.regionOk k (fld x 183 128) (32 * 2 ^ fld x 28 24) with
      | (s, false) => (s, 2)
      | (s, true) => match s.groupSt (k / 16) (fld x 9 0) with
        | none => (s, 3)
        | some g =>
          if 65536 < g.grp.size + fld x 271 256 then (s, 2)
          else
            let e : Endpoint := { mem := g.grp.mem, rank := g.grp.rank, uqBase := fld x 119 64, uqLog := fld x 21 16, crBase := fld x 183 128,
                                  crLog := fld x 28 24, ptBase := fld x 247 192, npeer := fld x 271 256, posted := [], uq := [], msnOut := [],
                                  msnIn := [], failed := [], early := [], wrote := 0, took := 0, crfull := false, drop := false }
            ({ s with eps := s.eps.set k e }, 0)

/-- The receive engine reads a descriptor as far as it can; then D's word is known (R403). -/
def State.openTry (s : State) (op ep : Nat) (r : MReq) : State :=
  match r.parts with
  | [] => s
  | q :: _ =>
    if q.st != .wait then s
    else match s.imgRead op r q.ga 64 with
      | (s, none) => s
      | (s, some bs) =>
        let (s, v) := s.epOpen (epKey r.slot ep) (leNat bs)
        ({ s with images := s.images.del op }).setPSt op 0 (.ready (leBytes 4 v))

/-! ## RELEASE of a context slot (R288, R366, R389, R407) -/

/-- What a context holds in a table keyed by its slot. -/
def ofSlot (size slot k : Nat) : Bool := k / size == slot

/-- The quota entries of a released slot hold no grant (R288, R296). -/
def State.quotaFree (s : State) (slot : Nat) : Tbl DWord :=
  ((s.quota.map fun e => if ofSlot 192 slot e.1 then (e.1, e.2 &&& BitVec.ofNat 64 (2 ^ 27 - 1)) else e).filter fun e => e.2 != 0)

/-- A signal that was parked for a shared segment (R314). -/
def isParked (slot : Nat) (u : TbUpd) : Bool := u.slot == slot && match u.ref with
  | .shared _ _ => true
  | _ => false

/-- What RELEASE discards and returns (R288), REMERR among it (R339). -/
def State.releaseCtx (s : State) (slot : Nat) : State :=
  let s := (s.callsOf fun c => c.slot == slot).foldl (fun s x => (s.callAbort x.1 0 true none).callQuit x.1 true) s
  let ctxid := pktCtxid (s.ctx slot)
  let mine (b : FabBody) : Bool := match colHead b with
    | some (x, _, _, _) => x == ctxid
    | none => false
  let free (g : Seg) : Seg := if g.cond = .scratch slot then { Seg.reset with retired := g.retired } else g
  { s with
    gslots := s.gslots.filter fun e => !ofSlot 256 slot e.1
    groups := s.groups.filter fun e => !ofSlot 1024 slot e.1
    colHeld := s.colHeld.filter fun b => !mine b
    eps := s.eps.filter fun e => !ofSlot 16 slot e.1
    recvs := s.recvs.filter fun e => e.2.post.slot != slot
    sends := s.sends.filter fun e => e.2.slot != slot
    decks := s.decks.filter fun e => !ofSlot 64 slot e.1
    tbq := s.tbq.filter fun u => !isParked slot u
    copies := s.copies.filter fun e => e.2.slot != slot
    saved := s.saved.filter fun e => e.2.skein.ctx != slot
    trigs := s.trigs.filter fun t => t.slot != slot
    dlReqs := s.dlReqs.filter fun e => !e.2.use.ofSlot slot
    remerr := s.remerr.filter fun e => e.1 % 256 != slot
    quota := s.quotaFree slot
    segs := s.segs.mapVals fun _ g => free g
    tidc := s.tidc.filter fun e => e.1 / 4096 % 256 != slot }

/-- RELEASE (R288), from DONE or STOPPED. -/
def execRelease (slot : Nat) (s : State) : Out :=
  s.served (
    if 256 ≤ slot then .next s
    else
      let go : Out := .next ((s.releaseCtx slot).updCtx slot fun c => { c with st := .idle })
      match (s.ctx slot).st with
      | .done => go
      | .stopped => go
      | _ => .next (s.cerr slot))

end Sys2Proof.Machine
end

