-- ==== Sys2Proof/Machine/Integrity.lean ====
section
/-! DEFINITION. Telemetry rings (R421, R422) and checkpoint runs (R423 to R425). -/

namespace Sys2Proof.Machine

/-! ## Telemetry (R421, R422) -/

/-- A record with its stamp. -/
def Tel.stamped (t : Tel) (clock : Nat) : BitVec 256 := BitVec.ofNat 256 (t.image.toNat % 2 ^ 192 + (clock % 2 ^ 64) <<< 192)

/-- For whom the ring of a slot is written: a strong store (R331). -/
def State.telAgent (s : State) (slot : Nat) : Agent :=
  { who := { asid := s.slotAsid slot, slot := some slot, core := 0, part := 0, pslot := 0, uid := none, dev := 0, inb := false }
    slot := slot, skein := 2 ^ 60, core := 0, kind := 2 }

/-- Write a record into its slot's ring (R421); none where a side log holds the ring. A write that faults is dropped, and reported by its fault record; one whose
HEAD is poisoned or lies in host memory is reported by a record whose cause is free (DESIGN CHOICE, log entry 157). -/
def State.telRing (s : State) (slot : Nat) (x : BitVec 256) : Option State :=
  let v := (s.ctx slot).telbase.toNat
  let n := fld v 4 0
  let base := fld v 55 12 * 4096
  if n < 6 || 16 < n then some s
  else
    let g := s.telAgent slot
    match s.engRead g [] base 8 with
    | (_, .wait) => none
    | (s, .ok hb) =>
      let head := leNat hb
      match s.engWrite g (base + 64 + 32 * (head % 2 ^ n)) (leBytes 32 x.toNat) with
      | (_, .wait) => none
      | (s, .fail _ _) => some s
      | (s, .ok) => some (s.engWrite g base (leBytes 8 (head + 1))).1
    | (s, .fail 1 _) => some s
    | (s, _) =>
      let (c, s) := s.hostCause
      some (s.record g.who (base % 2 ^ 48) c 2 false).1

/-- A record requests MSI-X 258: CLASS 2, or RET 1, of TYPE 1 (R442). -/
def telAlarm (x : Nat) : Bool := fld x 3 0 == 1 && (fld x 5 4 == 2 || bit x 7)

/-- One record on its way: to the management processor, and to its ring (R421). -/
def State.telOne (s : State) (t : Tel) : Option State :=
  let x := t.stamped s.clock
  let put (s : State) : State :=
    let s := { s with telLog := s.telLog ++ [x] }
    if telAlarm x.toNat then s.msix 258 else s
  match t.slot with
  | none => some (put s)
  | some k => (s.telRing k x).map put

/-- Records are written in order; one whose ring is held by a side log waits with those behind it. -/
def State.telDrain (s : State) : List Tel → State
  | [] => s
  | t :: ts => match s.telOne t with
    | some s => State.telDrain s ts
    | none => { s with telPend := t :: ts ++ s.telPend }

/-- TELEMETRY is written after each step (R421). What the writing of records itself notes follows in the next step. -/
def State.telFlush (s : State) : State :=
  if s.telPend.isEmpty then s
  else State.telDrain { s with telPend := [] } s.telPend

/-! ## Checkpoints (R423, R424) -/

/-- Frames of a die. -/
def State.dieFrames (s : State) (d : Nat) : Nat := s.dieBytes d / 65536
/-- Frames of the package. -/
def State.frames (s : State) : Nat := s.dieFrames 0 + s.dieFrames 1
/-- The physical line of line i of the package, die 0 first (R423). -/
def State.ckLine (s : State) (i : Nat) : Nat :=
  if i < s.dieFrames 0 * 1024 then i else 2 ^ 40 / 64 + (i - s.dieFrames 0 * 1024)
/-- The layout of a line's frame by the layout table; an unassigned code counts as RAW. -/
def State.ckNl (s : State) (i : Nat) : Nat :=
  let layt := match s.ck.run with
    | some r => r.layt
    | none => s.ck.layt
  let x := s.physNat (layt * 4096 + i / 1024) 1 % 16
  if 3 < x then 0 else x

/-- The targets in use with their first frames: number, DEV, COUNT, OFF, CTXID. -/
structure CkTarget where
  first : Nat
  dev   : Nat
  count : Nat
  off   : Nat
  ctxid : Nat
  deriving DecidableEq, Repr

/-- A target entry (R423). -/
def State.ckEntry (s : State) (k first : Nat) : CkTarget :=
  let e := (s.ck.targets.get k).getD (0, 0)
  { first := first, dev := fld e.1.toNat 10 0, count := fld e.1.toNat 63 32, off := fld e.2.toNat 43 0, ctxid := fld e.2.toNat 63 48 }
/-- The targets in use. -/
def State.ckTargets (s : State) : List CkTarget :=
  ((List.range (s.ck.nt + 1)).foldl (fun (acc : List CkTarget × Nat) k =>
    let t := s.ckEntry k acc.2
    (acc.1 ++ [t], acc.2 + t.count)) ([], 0)).1

/-- Send one access of a run to its target; `kind` and `idx` say what the answer is for. -/
def State.ckSend (s : State) (t : CkTarget) (kind idx off : Nat) (op : PodOp) (write : Bool) : State :=
  let (n, s) := s.freshOp
  let r : RReq := { use := .eng 6 kind idx, dev := t.dev, off := off % 2 ^ 44, clock := none, core := 4094, slot := 256, pid := 0, write := write,
                    host := false }
  ({ s with remote := s.remote.set n r }).fabSend .mem 4094 t.dev
    (.access { dev := s.mgmt.devidx, req := n, ctxid := t.ctxid, off := off % 2 ^ 44, op := op })

/-- A line as a save reads it: at the memory side, decoded under its frame's layout; none where it is poisoned (R424). -/
def State.ckRead (s : State) (i : Nat) : State × Option Line :=
  let pl := s.ckLine i
  match s.mc.findVal fun _ e => e.phys == pl && e.dirty with
  | some (k, e) => let (s, e) := s.mcCheck k e (physEv none pl); (s, if e.poison then none else some e.data)
  | none => s.hbmRead pl (s.ckNl i) (physEv none pl)

/-- Save the lines of a target: the data, then the poison map (R424). -/
def State.ckSave (s : State) (t : CkTarget) : State :=
  let n := t.count * 1024
  let (s, bad) := (List.range n).foldl (fun (acc : State × List Nat) i =>
    let (u, x) := acc.1.ckRead (t.first * 1024 + i)
    (u.ckSend t 0 0 (t.off + 64 * i) (.write ((lineBytes (x.getD 0)).map some)) true,
      if x.isNone then acc.2 ++ [i] else acc.2)) (s, [])
  (List.range (t.count * 2)).foldl (fun s c =>
    let bits := (List.range 512).foldl (fun b j => b + b2n (bad.contains (512 * c + j)) <<< j) 0
    s.ckSend t 0 0 (t.off + t.count * 65536 + 64 * c) (.write ((leBytes 64 bits).map some)) true) s

/-- Ask for the lines and the poison map of a target (R424). -/
def State.ckLoad (s : State) (t : CkTarget) : State :=
  let s := (List.range (t.count * 1024)).foldl (fun s i => s.ckSend t 1 (t.first * 1024 + i) (t.off + 64 * i) (.read 64) false) s
  (List.range (t.count * 2)).foldl (fun s c =>
    s.ckSend t 2 (t.first * 2 + c) (t.off + t.count * 65536 + 64 * c) (.read 64) false) s

/-- A line of a restore is written: under its layout, or as the poison word. -/
def State.ckPut (s : State) (i : Nat) (x : Option Line) : State :=
  let pl := s.ckLine i
  let s := { s with mc := s.mc.filter fun e => e.2.phys != pl }
  match x with
  | some d => s.hbmWrite pl (s.ckNl i) d
  | none => s.hbmPoison pl

/-- Change the run under way. -/
def State.updRun (s : State) (f : CkRun → CkRun) : State := { s with ck := { s.ck with run := s.ck.run.map f } }

/-- A target answers an access of a run (R424): a refusal or no answer stops the run. -/
def State.ckReply (s : State) (kind idx : Nat) (x : Reply) : State :=
  match s.ck.run, x with
  | none, _ => s
  | some _, .ack => s
  | some r, .data bs =>
    if r.failed then s
    else match kind with
      | 1 => if r.poison.contains idx then s else s.ckPut idx (some (lineOf bs))
      | 2 =>
        let m := leNat bs
        let bad := ((List.range 512).filter fun j => bit m j).map fun j => idx * 512 + j
        bad.foldl (fun s i => s.ckPut i none) (s.updRun fun r => { r with poison := r.poison ++ bad })
      | _ => s
  | some _, .fail _ _ => s.updRun fun r => { r with failed := true }

/-- An access of a run has had no answer yet. -/
def isCkUse : RUse → Bool
  | .eng 6 _ _ => true
  | _ => false

/-- The end of a run (R422 to R424, R442): ST, the TYPE 4 record of the firmware's log, and MSI-X 260. -/
def State.ckEnd (s : State) (st : Nat) : State :=
  let x : Tel := { slot := none, image := BitVec.ofNat 256 (4 + 0xFF <<< 16 + st <<< 128) }
  let left : Tbl RReq := s.remote.filter fun e => !isCkUse e.2.use
  let k : Ck := { s.ck with st := st, run := none }
  let t : State := { s with ck := k, remote := left, telPend := s.telPend ++ [x] }
  t.msix 260

/-- The fields of CKCTL that a write sets (R423). -/
def State.ckctl (s : State) (v : Nat) : State :=
  { s with ck := { s.ck with layt := fld v 55 12, nt := fld v 11 8, restore := bit v 2 } }

/-- CKCTL is written (R423, R424): with GO 1 a run starts, which is ignored while one lasts or a context is active. -/
def State.ckWrite (s : State) (v : Nat) : State :=
  let s := s.ckctl v
  let ts := s.ckTargets
  if !bit v 0 || s.ck.st = 1 || s.anyActive then s
  else if s.mgmt.reduced || (ts.map CkTarget.count).sum ≠ s.frames then s.ckEnd 3
  else
    let r : CkRun := { restore := s.ck.restore, layt := s.ck.layt, poison := [], failed := false }
    let s := { s with ck := { s.ck with st := 1, run := some r } }
    ts.foldl (fun s t => if s.ck.restore then s.ckLoad t else s.ckSave t) s

/-- CHECKPOINT_GO (R423, R424): a write of CKCTL. -/
def execCheckpointGo (v : DWord) (s : State) : Out := s.served (.next (s.ckWrite v.toNat))

/-- CHECKPOINT_END (R424): every target has answered, or one has refused. -/
def execCheckpointEnd (s : State) : Out :=
  match s.ck.run with
  | none => .next s
  | some r =>
    if r.failed then .next (s.ckEnd 3)
    else if s.remote.any fun e => isCkUse e.2.use then .next s
    else .next (s.ckEnd 2)

/-! ## Errors of memories (R413, R417 to R419) -/

/-- The unit of an SRAM word in a record (R422). -/
def SramWord.unit : SramWord → Nat
  | .l1 .. => 2
  | .ls _ => 3
  | .reg .. | .sreg .. => 4
  | .acc .. => 5
  | .ic _ => 6
  | .chunk _ => 7
  | .other => 8

/-- The ply of a thread of a skein, where it is resident. -/
def State.threadPly (s : State) (sk tid : Nat) : Option (Nat × Ply) := s.plies.findVal fun _ p => p.skein == sk && p.lanes.contains (some tid)

/-- The ply that owns a tile: the first resident one of the skein that holds it, on the tile's partition (DESIGN CHOICE, log entry 158). -/
def State.tilePly (s : State) (part tile : Nat) : Option (Nat × Ply) :=
  (s.plies.range (part * 32) (part * 32 + 32)).findVal fun _ p => match s.skeins.get p.skein with
    | some k => (k.held part).contains tile
    | none => false

/-- The record with which a register in error reads (R417): its offset is that of the ply's next instruction (DESIGN CHOICE, log entry 158). -/
def State.sramRecord (s : State) (p : Ply) : Word :=
  faultRecord 5 (codeOff (s.ctx p.ctx) (s.plyPc p).toNat)

/-- The slot whose context uses an ASID. -/
def State.asidSlot (s : State) (asid : Nat) : Option Nat := (s.ctxs.findVal fun k c => c.st != .idle && s.slotAsid k == asid).map Prod.fst

/-- Where an error of an SRAM word is noted (R422): slot, core, partition and address. -/
def State.sramEv (s : State) (w : SramWord) : TelEv :=
  let none' : TelEv := { slot := none, cls := 0, pol := 0, last := false, unit := w.unit, core := 0xFF, part := 0, off := 0, addr := 0, phys := false }
  let ply (x : Option (Nat × Ply)) : TelEv := match x with
    | some (pid, p) => { none' with slot := some p.ctx, core := plyCore pid, part := plyPart pid }
    | none => none'
  match w with
  | .l1 k word => { none' with slot := s.asidSlot (k / 2 ^ 42 % 8192), core := k / 2 ^ 55, addr := (l1LineNo k * 64 + 8 * word) }
  | .ls word => { none' with core := word / 2 ^ 18, addr := 8 * word }
  | .reg sk tid _ => ply (s.threadPly sk tid)
  | .sreg pid _ => ply ((s.plies.get pid).map fun p => (pid, p))
  | .acc part .. => { none' with core := part / 4, part := part % 4 }
  | .ic k => { none' with core := k / 2 ^ 55, slot := s.asidSlot (k / 2 ^ 42 % 8192) }
  | .chunk c => { none' with slot := (s.calls.get c).map Call.slot }
  | .other => none'

/-- A word of an L1 line cannot be corrected (R417): clean, the line is fetched again; dirty, its home line becomes poison. -/
def State.l1Upset (s : State) (k word : Nat) : State :=
  match s.l1.get k with
  | none => s
  | some e =>
    let m := byteSpan (8 * word) 8
    if e.dirty &&& m = 0 then s.l1Clean k (~~~e.dirty) true
    else
      let core := k / 2 ^ 55
      let asid := k / 2 ^ 42 % 8192
      let t := (s.l1BackBy false core asid (l1LineNo k) (~~~0#64)).1
      let key := mcKey asid (l1LineNo k)
      { (t.dlStale (· == k)) with l1 := t.l1.del k, mc := t.mc.upd key fun e => { e with data := poisonData, poison := true, dirty := true } }

/-- A word of an SRAM that cannot be corrected (R417). -/
def State.sramBad (s : State) : SramWord → State
  | .l1 k word => s.l1Upset k word
  | .ls word => { s with lsPoison := s.lsPoison ++ [word] }
  | .reg sk tid n => match s.threadPly sk tid with
    | some (_, p) => s.updThread sk tid fun t => { t with regs := t.regs.put n { val := s.sramRecord p, st := .faulted, pend := none } }
    | none => s
  | .sreg pid n => match s.plies.get pid with
    | some p => s.updS pid n fun r => r.put n { val := s.sramRecord p, st := .faulted, pend := none }
    | none => s
  | .acc part tile r word =>
    let row := s.tileRow part tile r
    let t := s.setRow part tile r ((row.set (2 * word) 0x7FC00000).set (2 * word + 1) 0x7FC00000)
    match s.tilePly part tile with
    | some (_, p) => t.engFault p.uid .mma 5 0
    | none => t
  | .ic k => { s with ic := s.ic.del k }
  | .chunk c => s.callFault c 0
  | .other => s

/-- A lasting error takes a segment out of use when it next becomes free (R419). -/
def State.sramLast (s : State) : SramWord → State
  | .ls word => s.updSeg (word / 512) fun g => { g with retired := true }
  | _ => s

/-- The class of an SRAM word's error (R414, R417): what is corrected, or fetched again, is S0. -/
def State.sramClass (s : State) (fix : Bool) : SramWord → Nat
  | .l1 k word => match s.l1.get k with
    | some e => if fix || e.dirty &&& byteSpan (8 * word) 8 = 0 then 0 else 2
    | none => 0
  | .ic _ => 0
  | _ => if fix then 0 else 2

/-- AN ERROR OF A MEMORY (R412 to R419): HBM cells and lines of the memory-side cache are found out when they are next read; an SRAM word is noted
now, and one that cannot be corrected has the outcome of its row of R417. -/
def State.upset (s : State) : Upset → State
  | .hbm pl flip =>
    { s with chk := s.chk.set pl (.word (s.chkWord pl)), hbm := s.hbm.write (pl * 64) (lineBytes (s.storedLine pl ^^^ flip)) }
  | .stuck pl m v => { s with stuck := s.stuck.set pl (m, v) }
  | .transit pl flip => { s with transit := s.transit.set pl flip }
  | .mc k flip => { s with mc := s.mc.upd k fun e => { e with data := e.data ^^^ flip, chk := e.chk.or (some (nlEncode e.leaf.nl e.data)) } }
  | .sram w fix last =>
    let t := s.note { s.sramEv w with cls := s.sramClass fix w, last := last }
    let t := if fix then t else t.sramBad w
    if last then t.sramLast w else t

end Sys2Proof.Machine
end

