-- ==== Sys2Proof/Machine/DieLink.lean ====
section
/-! DEFINITION. The die link (R426 to R438): what each message does at the die that receives it, the transactions of this package's own units, flits,
the failure of modules, discovery, and the shootdown that crosses the link. -/

namespace Sys2Proof.Machine

/-! ## Lines by physical address (R429, R430, R432) -/

/-- A physical address lies in a die's memory. -/
def State.onDie (s : State) (d a : Nat) : Bool := a / 2 ^ 40 == d && a % 2 ^ 40 < s.dieBytes d
/-- The line of the memory-side cache that holds a physical line. -/
def State.mcPhys (s : State) (pl : Nat) : Option (Nat × McLine) := s.mc.findVal fun _ e => e.phys == pl
/-- A physical line with its check word as it stands, and whether it is poisoned. -/
def State.physLine (s : State) (pl : Nat) : Line × DWord × Bool := match s.mcPhys pl with
  | some (_, e) => (e.data, e.chk.getD (nlEncode e.leaf.nl e.data), e.poison)
  | none => (s.rawLine pl, s.chkWord pl, s.isPoison pl)
/-- Write bytes of a physical line at its home. A whole line comes with its check word (R429); into part of a line they are merged once the line has
been decoded, and poison stays (R412, R416). -/
def State.physMerge (s : State) (pl : Nat) (x : Line) (m : Mask) (chk : DWord) : State :=
  let whole := m == ~~~0#64
  match s.mcPhys pl with
  | some (key, e) =>
    let (s, e) := if whole then (s, e) else s.mcCheck key e (physEv none pl)
    let e : McLine := { e with data := lineMerge e.data x m, dirty := true, poison := e.poison && !whole,
                               chk := if whole && chk != nlEncode e.leaf.nl x then some chk else none }
    { s with mc := s.mc.set key e }
  | none =>
    if whole then
      let s := s.hbmWrite pl 0 x
      if chk = nlEncode 0 x then s else { s with chk := s.chk.set pl (.word chk) }
    else
      let nl := match s.lineChk pl with
        | .coded nl => nl
        | _ => 0
      match s.hbmRead pl nl (physEv none pl) with
      | (s, some y) => s.hbmWrite pl nl (lineMerge y x m)
      | (s, none) => s
/-- Bytes written by physical address, at the memory side (R340). -/
def State.physPut (s : State) (a : Nat) (bs : List Byte) : State :=
  (pieces a bs.length).foldl (fun s x =>
    s.physMerge x.1 (lineAt x.2.1 x.2.2 (leNat ((bs.drop (x.1 * 64 + x.2.1 - a)).take x.2.2))) (byteSpan x.2.1 x.2.2) 0) s
/-- The frame-owner check of a request by physical address (R328). -/
def State.physOwner (s : State) (pa asid : Nat) (write : Bool) : Bool :=
  let e := s.physNat (s.mgmt.owners + 2 * (pa / 65536)) 2
  bit e 15 && (fld e 11 0 == asid || (bit e 14 && !write))

/-- Answer with a refusal. -/
def State.dlNack (s : State) (k : Nat) (m : DlMsg) (cause : Nat) : State := s.dlReply k (dlMake 1 0x81 0 0 (dlTag m) cause false [])
/-- Answer that a request has been performed. -/
def State.dlAck (s : State) (k : Nat) (m : DlMsg) : State := s.dlReply k (dlMake 1 0x80 0 0 (dlTag m) 0 false [])
/-- Answer with a line. -/
def State.dlData (s : State) (k : Nat) (m : DlMsg) (x : Line) (chk : DWord) (bad : Bool) : State :=
  s.dlReply k (dlMake 2 0xC0 0 (dlAddr m) (dlTag m) (b2n bad) false (lineSlots x (~~~0#64) chk))

/-- A request for a line of this die's memory that comes from elsewhere: the checks that come first, by its physical address. -/
def State.dlLineReq (s : State) (k : Nat) (m : DlMsg) (write : Bool) (f : State → State) : State :=
  let a := dlAddr m
  if !s.onDie (dpDie k) a then s.dlNack k m 4
  else if !s.physOwner a (dlAsid m) write then s.dlNack k m 3
  else f s

/-- The number by which a part waits for a transaction of the die link. -/
def dlWait (tag : Nat) : Nat := 2 ^ 66 + tag

/-- What a request of the die link serves in this package, by its tag (R429): the part of a load-store request that awaits it. None where it comes from
elsewhere. -/
def State.dlPart (s : State) (m : DlMsg) : Option (Nat × Nat × MReq × MPart) := match (s.dlReqs.get (dlTag m)).map DlReq.use with
  | some (.part op idx) => match s.reqs.get op with
    | some r => match r.parts[idx]? with
      | some p => if p.st = .sent (dlWait (dlTag m)) then some (op, idx, r, p) else none
      | none => none
    | none => none
  | _ => none

/-- The same where it is a part at a global address: the request, the part, its number in it and the virtual address. -/
def State.dlGlobal (s : State) (m : DlMsg) : Option (Nat × Nat × MReq × Nat) := match s.dlPart m with
  | some (op, idx, r, p) => match p.place with
    | .global va => some (op, idx, r, va)
    | _ => none
  | none => none

/-- The layout under which the requester of a message reads its line (R412). -/
def State.dlNl (s : State) (m : DlMsg) : Nat := ((s.dlReqs.get (dlTag m)).map DlReq.nl).getD 0

/-- How a line that a package's own request names is answered by the home slice, which reaches it by the request's virtual address (R174, R175, R428,
R432): the line under the requester's layout; poison; or a cause, HOSTOP where the page is a HOST page now. -/
def State.dlHome (s : State) (k : Nat) (m : DlMsg) (x : LineRes) : State := match x with
  | .ok x => s.dlData k m x (nlEncode (s.dlNl m) x) false
  | .poison => s.dlData k m poisonData poisonCheck true
  | .host _ => s.dlNack k m 8
  | .fail c => s.dlNack k m c

/-- RD (R430). -/
def execRd (port : DiePort) (m : DlMsg) (s : State) : Out :=
  dlStep? port m 0 0x01 (fun k s => match s.dlGlobal m with
    | some (_, _, r, va) =>
      if s.atBay (s.slotAsid r.slot) (va / 64) then none
      else match s.home (s.whoReq r) (va / 64) .read with
        | (t, x) => some (t.dlHome k m x)
    | none => some (s.dlLineReq k m false fun s =>
      let (x, c, bad) := s.physLine (dlAddr m / 64)
      s.dlData k m x c bad)) s

/-- A refusal has been recorded where it was met. -/
def State.dlNoted (s : State) (m : DlMsg) : State := { s with dlReqs := s.dlReqs.upd (dlTag m) fun q => { q with noted := true } }

/-- WR (R430). A store whose write the side log accepts ends with its replay (R334); bytes of the L1 that it accepts leave their line. -/
def execWr (port : DiePort) (m : DlMsg) (s : State) : Out :=
  dlStep? port m 0 0x02 (fun k s => match s.dlGlobal m with
    | some (op, idx, r, va) => match s.homeWrite (s.whoReq r) (va / 64) (dlLine m) (dlMask m) 2 false (some (op, idx)) with
      | (t, .fin) => some (t.dlAck k m)
      | (t, .logged) => some { t.setPSt op idx .logged with dlReqs := t.dlReqs.del (dlTag m) }
      | (t, .fail c) => some ((t.dlNoted m).dlNack k m c)
      | (_, .full) => none
    | none => match (s.dlReqs.get (dlTag m)).map DlReq.use with
    | some (.back key uid x mask) =>
      let core := key / 2 ^ 55
      let asid := key / 2 ^ 42 % 8192
      match s.homeWrite (s.whoUid uid core asid) (l1LineNo key) (dlLine m) (dlMask m) 1 true none with
      | (t, .fin) => some (t.dlAck k m)
      | (t, .logged) => some ({ t with dlReqs := t.dlReqs.del (dlTag m) }.l1Sent key x mask true)
      | (t, .fail c) => some ((t.dlNoted m).dlNack k m c)
      | (_, .full) => none
    | _ => some (s.dlLineReq k m true fun s =>
      (s.physMerge (dlAddr m / 64) (dlLine m) (dlMask m) (dlCheck m)).dlAck k m)) s

/-- A line after ATOM's operation on it. -/
def dlAtomLine (m : DlMsg) (ty : Ty) (a : Nat) (x : Line) : Line :=
  let z := tyBytes ty
  lineMerge x (lineAt (a % 64) z (opNew (fld (dlArg m) 3 0) ty (leNat (lineSlice x (a % 64) z)) (fld (dlSlot m 0) (8 * z - 1) 0)))
    (byteSpan (a % 64) z)

/-- ATOM of the die link (R185, R430): the operand in one slot; the line as it was comes back. -/
def execDlAtom (port : DiePort) (m : DlMsg) (s : State) : Out :=
  dlStep? port m 0 0x03 (fun k s => match tyOf (fld (dlArg m) 8 4) with
    | none => some (s.dlNack k m 0xF)
    | some ty =>
      let a := dlAddr m
      let z := tyBytes ty
      if !(atomTys (fld (dlArg m) 3 0)).contains ty || a % z ≠ 0 then some (s.dlNack k m 0xF)
      else match s.dlGlobal m with
        | some (_, _, r, va) =>
          let asid := s.slotAsid r.slot
          if s.logFull (va / 64) || s.atBay asid (va / 64) then none
          else match s.home (s.whoReq r) (va / 64) .write with
            | (t, .ok x) => some ((t.mcPut asid (va / 64) (dlAtomLine m ty a x) (byteSpan (a % 64) z)).dlHome k m (.ok x))
            | (t, x) => some (t.dlHome k m x)
        | none => some (s.dlLineReq k m true fun s =>
          let (x, c, bad) := s.physLine (a / 64)
          let s := s.dlData k m x c bad
          if bad then s else s.physMerge (a / 64) (dlAtomLine m ty a x) (byteSpan (a % 64) z) 0)) s

/-- PROBEW (R171, R430). -/
def execProbew (port : DiePort) (m : DlMsg) (s : State) : Out :=
  dlStep port m 0 0x04 (fun k s => match (s.dlReqs.get (dlTag m)).map DlReq.use with
    | some (.probe key) => match s.home (s.probeWho key) (l1LineNo key) .write with
      | (t, .fail c) => t.dlNack k m c
      | (t, .host _) => t.dlNack k m 8
      | (t, _) => t.dlAck k m
    | _ => s.dlLineReq k m true fun s => s.dlAck k m) s

/-- The scratchpad line that a message names on this die, granted to a slot of the ASID (R156, R160). -/
def State.dlSeg (s : State) (k : Nat) (m : DlMsg) : Option (Nat × Nat) := match scratchSeg (dlAddr m) with
  | none => none
  | some g => match (s.seg g).cond with
    | .scratch slot => if g / 512 / 96 = dpDie k && s.slotAsid slot = dlAsid m then some (g, slot) else none
    | _ => none

/-- STR: the access is strong (R429). -/
def dlStr (m : DlMsg) : Bool := bit m.hdr.toNat 19

/-- The core that makes an access over the die link, where it is of this package. -/
def State.dlCore (s : State) (m : DlMsg) : Option Nat := match (s.dlReqs.get (dlTag m)).map DlReq.use with
  | some (.part op _) => (s.reqs.get op).map fun r => plyCore r.pid
  | some (.bytes w _ _ _) => some w.core
  | _ => none

/-- A scratchpad access stays on the link: while its segment is in transit (R161) and, a weak read of a replica, until the replica has applied the
updates of the reader's core on their way (R163); one from elsewhere waits for all of them. -/
def State.dlWaits (s : State) (k : Nat) (m : DlMsg) : Bool := match s.dlSeg k m with
  | none => false
  | some (g, _) => match (s.seg g).st with
    | .t _ => true
    | .s => !bit (dlArg m) 0 && !dlStr m && (match s.dlCore m with
      | some c => s.replicaWaits c g (dlAddr m % 4096 / 64) s.nextOp
      | none => !(s.seg g).msgs.isEmpty)
    | _ => false

/-- The copy that a read of a scratchpad segment reads (R161, R432): the replica's own where it is weak, else the single copy. -/
def State.dlCopy (s : State) (g : Nat) (m : DlMsg) : Option Nat :=
  if (s.seg g).st == .s && !dlStr m then some g else s.segHome g

/-- SPRD (R430, R432): uncached read of a scratchpad line. -/
def execSprd (port : DiePort) (m : DlMsg) (s : State) : Out :=
  if bit (dlArg m) 0 || s.dlWaits (s.dlKey (dpKey port)) m then .next s
  else dlStep port m 0 0x05 (fun k s => match s.dlSeg k m with
    | none => s.dlNack k m 1
    | some (g, _) => match s.dlCopy g m with
      | none => s.dlNack k m 1
      | some h =>
        let a := segBase h + dlAddr m % 4096 / 64 * 64
        let x := lineOf (s.ls.read a 64)
        let t := match s.dlCore m with
          | some c => s.heard c h (dlAddr m % 4096 / 64)
          | none => s
        t.dlData k m x (nlEncode 0 x) (s.lsBad a 64)) s

/-- SPWR (R430, R432): uncached write of scratchpad bytes at their single copy, stamped as its writer's core's (R163). -/
def execSpwr (port : DiePort) (m : DlMsg) (s : State) : Out :=
  if !bit (dlArg m) 0 || s.dlWaits (s.dlKey (dpKey port)) m then .next s
  else dlStep port m 0 0x05 (fun k s => match s.dlSeg k m with
    | none => s.dlNack k m 1
    | some (g, _) => match s.segHome g with
      | none => s.dlNack k m 1
      | some h => (s.segWrite h (dlAddr m % 4096 / 64) (dlLine m) (dlMask m) ((s.dlCore m).getD (h / 512))).dlAck k m) s

/-- The number under which an update from elsewhere is on its way; it completes nothing. -/
def dlTbKey (tag : Nat) : Nat := 2 ^ 66 + tag

/-- An update of this package arrives at the barrier's core (R432). -/
def TbUpd.arrived (tag : Nat) (u : TbUpd) : TbUpd := if u.link = some (tag, false) then { u with link := some (tag, true) } else u

/-- TBUPD (R251, R430): an update for a scratchpad barrier of this die. The data slot holds arrivals in bits [31:0], sectors in [71:32],
ABT in [72] and ERR in [73] (DESIGN CHOICE, log entry 159). -/
def execTbupd (port : DiePort) (m : DlMsg) (s : State) : Out :=
  dlStep port m 0 0x06 (fun k s => match s.dlSeg k m with
    | none => s.dlNack k m 1
    | some (g, slot) =>
      if (s.dlReqs.get (dlTag m)).map DlReq.use = some .update then { s with tbq := s.tbq.map (TbUpd.arrived (dlTag m)) }.dlAck k m
      else
        let x := dlSlot m 0
        let u : TbUpd := { ref := .scratch (g / 512) (dlAddr m % 2 ^ 21 / 16 * 16), slot := slot, pid := 128 * (g / 512), uid := 2 ^ 60, init := none,
                           arr := fld x 31 0, sect := sextInt 40 (fld x 71 32), abt := bit x 72, err := bit x 73, req := none,
                           eng := some (dlTbKey (dlTag m), .net), held := none }
        { s with tbq := s.tbq ++ [u] }.dlAck k m) s

/-! ## Promotion (R206, R433) -/

/-- The cores of a die. -/
def dieCores (d : Nat) : List Nat := (List.range 96).map fun i => d * 96 + i
/-- Step 3 of R206 on every core of a die for an ASID; false where a core must still wait. -/
def State.promoDie (s : State) (d asid : Nat) : State × Bool :=
  (dieCores d).foldl (fun (acc : State × Bool) c =>
    let slots := (acc.1.ctxs.filter fun e => acc.1.slotAsid e.1 == asid).map Prod.fst
    let ready := slots.all fun k => acc.1.stamped c ((acc.1.relOp.get (remKey c k)).getD 0)
    if !acc.2 || !ready then (acc.1, false) else acc.1.l1BackAll c asid true) (s, true)

/-- PROMO (R433): the die performs step 3 for every one of its cores, then answers; it stays on the link until it can, and what the cores have
written back by then is gone. -/
def execPromo (port : DiePort) (m : DlMsg) (s : State) : Out :=
  dlStep? port m 0 0x10 (fun k t => match t.promoDie (dpDie k) (dlAsid m) with
    | (u, true) => some (u.dlReply k (dlMake 1 0x82 0 0 (dlTag m) 0 false []))
    | (_, false) => some (s.promoDie (dpDie k) (dlAsid m)).1) s

/-- The cores of a die have acknowledged an acquire's promotion. -/
def State.promoFrom (s : State) (op d : Nat) : State :=
  { s with acqs := s.acqs.upd op fun a => { a with promo := a.promo.map fun cs => cs.filter fun c => !(dieCores d).contains c } }

/-- PACK (R433): the die that answers has done step 3 on its cores. -/
def execPack (port : DiePort) (m : DlMsg) (s : State) : Out :=
  dlStep port m 1 0x82 (fun k s => match (s.dlReqs.get (dlTag m)).map DlReq.use with
    | some (.promo op) => { s with dlReqs := s.dlReqs.del (dlTag m) }.promoFrom op (1 - dpDie k)
    | _ => s) s

/-! ## Shootdowns (R341, R433) -/

/-- The keys of a request's lines. -/
def shootKey (x k : Nat) : Bool := k / 2 ^ 42 % 8192 == fld x 11 0 && shootHit x (k % 2 ^ 42 * 64)
/-- A TLB entry lies in a request's range. -/
def shootTlb (x : Nat) (e : TlbEnt) : Bool := e.asid == fld x 11 0 && (bit x 12 ||
  (e.page * 2 ^ e.leaf.size < (fld x 47 16 + fld x 95 64) * 65536 && fld x 47 16 * 65536 < (e.page + 1) * 2 ^ e.leaf.size))

/-- The die of a translation unit (R329). -/
def tlbDie (u : Nat) : Nat := if u < 128 then u / 64 else if u < 144 then (u - 128) / 8 else u - 144

/-- A step of R341 on a die: its TLBs lose the range; its copy engines that work for the ASID have paused; its L1s and slices purge the range.
False where the step cannot end yet. -/
def State.shootStep (s : State) (x d step : Nat) : State × Bool := match step with
  | 1 => ({ s with tlb := s.tlb.filterMap fun u =>
      let es := if tlbDie u.1 = d then u.2.filter fun e => !shootTlb x e else u.2
      if es.isEmpty then none else some (u.1, es) }, true)
  | 2 => (s, s.copies.all fun e => s.slotAsid e.2.slot != fld x 11 0 || coreDie (plyCore e.2.pid) != d || s.copyPaused e.2)
  | 3 => s.purgeAll ((s.l1.filter fun e => shootKey x e.1 && e.1 / 2 ^ 55 / 96 == d).map Prod.fst)
  | 4 => (s.mcPurge fun k => shootKey x k && k % 2 ^ 42 / 2 ^ 41 == d, true)
  | _ => (s, true)

/-- The L1s drop what they filled of a range under its old translation, and its write permission (R342). -/
def State.shootStale (s : State) (x : Nat) : State :=
  { (s.dlStale (shootKey x)) with l1 := s.l1.mapVals fun k e => if shootKey x k then { e with valid := e.dirty, w := false } else e }

/-- The end of a request: the completion word (R341). -/
def State.shootEnd (s : State) (x : Nat) (rest : List (BitVec 256)) : State :=
  { (s.shootStale x).physPut (fld x 183 128 / 8 * 8) (leBytes 8 (fld x 255 192)) with shoot := rest, shootAt := (0, []) }

/-- A step on die 0 and the SHOOT that asks die 1 for it (R433). -/
def State.shootOpen (s : State) (x step : Nat) : State := match s.shootStep x 0 step with
  | (t, false) => t
  | (t, true) => match t.dlAsk 1 (fun tag => dlMake 0 0x11 (fld x 11 0) (fld x 47 16 * 65536) tag step false []) (.shoot step) with
    | some (u, _) => { u with shootAt := (step, [0]) }
    | none => s

/-- Steps 1 to 4 on both dies at once, where the dies are not joined by a link that is up. -/
def State.shootAll (s : State) (x : Nat) : State × Bool :=
  [(0, 1), (1, 1), (0, 2), (1, 2), (0, 3), (1, 3), (0, 4), (1, 4)].foldl (fun (acc : State × Bool) y =>
    if acc.2 then acc.1.shootStep x y.1 y.2 else acc) (s, true)

/-- SHOOTDOWN_EXECUTE (R341, R433): the oldest request goes on: a malformed one completes; a step begins when both dies have done the one
before. -/
def execShootdownExecute (s : State) : Out :=
  match s.shoot with
  | [] => .next s
  | r :: rest =>
    let x := r.toNat
    if shootBad x then .next { s.physPut (fld x 183 128 / 8 * 8) (leBytes 8 (2 ^ 64 - 1)) with shoot := rest, shootAt := (0, []) }
    else if !s.dlLinked then match s.shootAll x with
      | (_, false) => .next s
      | (t, true) => .next (t.shootEnd x rest)
    else match s.shootAt with
      | (0, _) => .next (s.shootOpen x 1)
      | (k, ds) =>
        if !(ds.contains 0 && ds.contains 1) then .next s
        else if 4 ≤ k then .next (s.shootEnd x rest)
        else .next (s.shootOpen x (k + 1))

/-- The step of R341 that a SHOOT asks of a die. -/
def State.shootAsked (s : State) (d : Nat) (m : DlMsg) : State × Bool :=
  if s.shoot.isEmpty then (s, true) else s.shootStep (s.shoot.headD 0).toNat d (fld (dlArg m) 2 0)

/-- SHOOT (R433): the die does the step of R341, and answers SACK; it stays on the link until it can, and what the L1s have written back by then is
gone. -/
def execShoot (port : DiePort) (m : DlMsg) (s : State) : Out :=
  dlStep? port m 0 0x11 (fun k t => match t.shootAsked (dpDie k) m with
    | (u, true) => some (u.dlReply k (dlMake 1 0x83 0 0 (dlTag m) (fld (dlArg m) 2 0) false []))
    | (_, false) => some (s.shootAsked (dpDie k) m).1) s

/-- SACK (R433): the other die has done the step. -/
def execSack (port : DiePort) (m : DlMsg) (s : State) : Out :=
  dlStep port m 1 0x83 (fun k s =>
    let s := match (s.dlReqs.get (dlTag m)).map DlReq.use with
      | some (.shoot _) => { s with dlReqs := s.dlReqs.del (dlTag m) }
      | _ => s
    let far := 1 - dpDie k
    if s.shootAt.1 = 0 || s.shootAt.1 ≠ fld (dlArg m) 2 0 || s.shootAt.2.contains far then s
    else { s with shootAt := (s.shootAt.1, s.shootAt.2 ++ [far]) }) s

/-- PROMOTION_REQUEST (R206, R433): it reaches a core. To the other die it crosses as one PROMO where the dies are linked, when credit allows. -/
def execPromotionRequest (op core : Nat) (s : State) : Out :=
  match s.acqs.get op with
  | none => .next s
  | some a =>
    let d := coreDie a.core
    if coreDie core = d || !s.dlLinked then .next (s.promote op core)
    else if (s.dlReqs.any fun q => q.2.use == .promo op) || !((a.promo.getD []).contains core) then .next s
    else .next (((s.dlAsk (3 * d + 1) (fun tag => dlScoped .pkg (dlMake 0 0x10 (s.slotAsid a.slot) 0 tag a.core false [])) (.promo op)).map
      Prod.fst).getD s)

/-! ## Requests of this package's load-store units (R431, R432) -/

/-- The code of a type (R40). -/
def dlTy (t : Ty) : Nat := ((List.range 32).find? fun c => tyOf c == some t).getD 0

/-- A weak load. -/
def MReq.weakLoad (r : MReq) : Bool := r.kind == .ld && r.ord == .weak

/-- A weak load misses the L1 (R171). -/
def State.l1Misses (s : State) (r : MReq) (q : MPart) (va : Nat) : Bool :=
  match s.l1.get (l1Key (plyCore r.pid) (s.slotAsid r.slot) (va / 64)) with
  | some e => byteSpan (va % 64) q.n &&& ~~~e.valid != 0 && !e.poison
  | none => true

/-- The message for a strong access, an atomic, or a weak load that misses the L1, to a line of the other die that is translated, or for an access to
its scratchpad (R171, R187, R430, R432), with the layout of its page. An atomic that combines lanes, and ATOMCAS, have no message: the one slot holds one operand (DESIGN CHOICE, log
entry 159). -/
def State.dlMsgOf (s : State) (r : MReq) (q : MPart) (tag : Nat) : Option (DlMsg × Nat) :=
  let asid := s.slotAsid r.slot
  let d := coreDie (plyCore r.pid)
  let ld := r.kind == .ld
  let at' := r.kind == .atom || r.kind == .red
  let line (i nl : Nat) : List (BitVec 128) :=
    let x := lineAt i q.n q.data
    lineSlots x (byteSpan i q.n) (nlEncode nl x)
  match q.place with
  | .global va =>
    if (r.ord == .weak && !at' && !(ld && s.l1Misses r q va)) || va / 2 ^ 47 % 2 = d || s.atBay asid (va / 64) || (at' && (r.aop == aopCas || (r.atLoc q.ga).length ≠ 1)) then none
    else match s.tlbFind asid va with
      | none => none
      | some l =>
        if l.host || (permCause l (if ld then .read else .write) false).isSome then none
        else
          let pa := leafPhys l va
          some (dlScoped r.scope (if ld then dlMake 0 0x01 asid (pa / 64 * 64) tag 0 (r.ord != .weak) []
            else if at' then dlMake 0 0x03 asid pa tag (r.aop + dlTy r.ty <<< 4) true [BitVec.ofNat 128 q.data]
            else dlMake 0 0x02 asid (pa / 64 * 64) tag 0 true (line (va % 64) l.nl)), l.nl)
  | .loc c off =>
    if coreDie c = d || at' then none
    else
      let ga := scratchGa c (off / 64 * 64)
      some (dlScoped r.scope (if ld then dlMake 0 0x05 asid ga tag 0 (r.ord != .weak) [] else dlMake 0 0x05 asid ga tag 1 true (line (off % 64) 0)), 0)
  | _ => none

/-- A part leaves on the die link, where the dies are linked, it need not wait and credit allows (R431). The L1's copy of the line is
first given up, as for any access but a weak load (R171); while that takes time the part waits. -/
def State.dlIssue (s : State) (op : Nat) (r : MReq) (x : MPart × Nat) : Option State :=
  let k := 3 * coreDie (plyCore r.pid) + 1
  if !s.dlLinked || x.1.st != .wait || s.blocked op r x.1 || s.behind op x.2 x.1 || !(r.kind == .ld || r.kind == .st || r.kind == .atom || r.kind == .red)
  then none
  else match s.dlMsgOf r x.1 0 with
    | none => none
    | some (_, nl) =>
      let (t, ok) := match x.1.place with
        | .global va => if r.weakLoad then (s, true) else s.l1Purge (plyCore r.pid) (s.slotAsid r.slot) (va / 64)
        | _ => (s, true)
      if !ok then some t
      else match t.dlAsk k (fun tag => ((s.dlMsgOf r x.1 tag).map Prod.fst).getD { hdr := 0, slots := [] }) (.part op x.2) with
        | none => none
        | some (u, tag) => some ({ u with dlReqs := u.dlReqs.upd tag fun q => { q with nl := nl } }.setPSt op x.2 (.sent (dlWait tag)))

/-- A part of a request, of a lane where one is given, is to cross the die link and has not left for want of credit (R431). -/
def State.dlHolds (s : State) (op : Nat) (lane : Option Nat) : Bool := s.dlLinked && match s.reqs.get op with
  | none => false
  | some r => r.numbered.any fun x => x.1.st == .wait && (lane == none || lane == some x.1.lane) && !s.blocked op r x.1 && !s.behind op x.2 x.1
      && (s.dlMsgOf r x.1 0).isSome

/-- The parts of a request that cross leave. -/
def State.dlIssueAll (s : State) (op : Nat) : State := match s.reqs.get op with
  | none => s
  | some r => r.numbered.foldl (fun s x => (s.dlIssue op r x).getD s) s

/-- The part that a transaction serves takes its answer, and the L1's clean bytes of the line are given up, but for a weak load (R172, R196). -/
def State.dlPartEnd (s : State) (tag op idx : Nat) (x : MReq → MPart → Reply) : State :=
  match s.reqs.get op with
  | none => s
  | some r => match r.parts[idx]? with
    | none => s
    | some p =>
      let s := match p.place with
        | .global va => if r.weakLoad then s else s.l1Stale (plyCore r.pid) (s.slotAsid r.slot) (va / 64)
        | _ => s
      let d : RReq := { use := .part op idx, dev := 0, off := 0, clock := none, core := 0, slot := r.slot, pid := r.pid, write := false, host := false }
      let s := s.partReply (dlWait tag) d op (x r p)
      if r.kind == .st || r.kind == .red then s.finishReq op else s

/-- The requester's side of a transaction ends (R430, R431): what it served takes the answer; `ok` where it was performed. A promotion or a step of a
shootdown that was not is asked for again (DESIGN CHOICE, log entry 159). -/
def State.dlAnswer (s : State) (tag : Nat) (ok : Bool) (x : MReq → MPart → Reply) : State :=
  match s.dlReqs.get tag with
  | none => s
  | some q =>
    let t := { s with dlReqs := s.dlReqs.del tag }
    match q.use with
    | .part op idx => t.dlPartEnd tag op idx x
    | .promo _ => t
    | .probe key => if ok then t.probeOk key else t.probeRefused key
    | .update =>
      if ok then t
      else
        let us := t.tbq.filter fun u => u.link == some (tag, false)
        us.foldl (fun s u => s.tbDone u (.bad 1) (tbGa u.ref)) { t with tbq := t.tbq.filter fun u => u.link != some (tag, false) }
    | .bytes w ga bs _ => { s with dlReqs := s.dlReqs.set tag { q with use := .bytes w ga bs (some ok) } }
    | .back key uid x mask =>
      if ok then t.l1Sent key x mask false else (t.storeFault (some uid) 1 (l1LineNo key * 64)).l1Sent key x mask true
    | .shoot step => if ok then t else { t with shootAt := if t.shootAt.1 = step then (step - 1, if step = 1 then [] else [0, 1]) else t.shootAt }

/-- The line of an answer, decoded under its page's layout: none where it is poisoned or cannot be corrected, and failing parity bits by the context's
policy (R412, R414, R415). -/
def State.dlLineIn (s : State) (m : DlMsg) (slot : Nat) : Option Line :=
  let nl := s.dlNl m
  if bit (dlArg m) 0 then none
  else match nlDecode nl (dlLine m) (dlCheck m) with
    | none => none
    | some (x, _, bad) => match (if bad.isEmpty then 0 else s.s1pol (some slot)) with
      | 2 => none
      | 1 => some (nlZero nl x bad)
      | _ => some x

/-- The bytes of a part in the line of an answer; a weak load's own core's dirty bytes lie over it (R171). -/
def State.dlBytes (s : State) (m : DlMsg) (r : MReq) (p : MPart) : Reply :=
  if bit (dlArg m) 0 then .fail 5 none
  else match p.place with
    | .global va =>
      let n := if r.kind == .ld then p.n else tyBytes r.ty
      match s.dlLineIn m r.slot with
      | none => .fail 5 none
      | some x => match (if r.weakLoad then s.l1.get (l1Key (plyCore r.pid) (s.slotAsid r.slot) (va / 64)) else none) with
        | some e => .data (lineSlice (lineMerge x e.data e.dirty) (va % 64) n)
        | none => .data (lineSlice x (va % 64) n)
    | .loc _ off => .data (lineSlice (dlLine m) (off % 64) p.n)
    | _ => .fail 1 none

/-- The line that a weak load asked for fills the L1 of its core (R171, R432). -/
def State.dlFill (s : State) (m : DlMsg) : State := match s.dlGlobal m with
  | some (_, _, r, va) =>
    let asid := s.slotAsid r.slot
    if r.weakLoad then s.l1Fill (plyCore r.pid) asid (va / 64) (s.dlLineIn m r.slot) (s.homeW asid (va / 64)) else s
  | none => s

/-- A weak load whose answer the L1 has overtaken goes again. -/
def State.dlOld (s : State) (m : DlMsg) : Option (Nat × Nat) := match s.dlGlobal m with
  | some (op, idx, r, _) => if r.weakLoad && ((s.dlReqs.get (dlTag m)).map DlReq.stale).getD false then some (op, idx) else none
  | none => none

/-- RDATA (R417, R430): the part takes its bytes, and a weak load's line fills the L1. -/
def execRdata (port : DiePort) (m : DlMsg) (s : State) : Out :=
  dlStep port m 2 0xC0 (fun _ s => match s.dlOld m with
    | some (op, idx) => { s.setPSt op idx .wait with dlReqs := s.dlReqs.del (dlTag m) }
    | none => (s.dlFill m).dlAnswer (dlTag m) true fun r p => s.dlBytes m r p) s
/-- ACK (R430). -/
def execAck (port : DiePort) (m : DlMsg) (s : State) : Out :=
  dlStep port m 1 0x80 (fun _ s => s.dlAnswer (dlTag m) true fun _ _ => .ack) s
/-- The record of a refusal that a NACK brings, with its cause (R175, R330, R430). -/
def State.dlRecord (s : State) (m : DlMsg) (cause : Nat) : State := match s.dlGlobal m with
  | some (_, _, r, va) => (s.record (s.whoReq r) va cause (if r.kind == .ld || r.kind == .atom then 0 else 2) false).1
  | none => s

/-- A refusal that the ordinary access meets in its own way: firmware answers it, or the page is a HOST page (R177, R332, R334). -/
def dlAgain (cause : Nat) : Bool := serviceable cause || cause == 8

/-- NACK (R430): the cause is recorded, and the part fails; one whose refusal firmware answers is made again without the link. -/
def execNack (port : DiePort) (m : DlMsg) (s : State) : Out :=
  dlStep port m 1 0x81 (fun _ s =>
    let c := fld (dlArg m) 3 0
    match s.dlPart m, s.dlReqs.get (dlTag m) with
    | some (op, idx, _, _), some q =>
      if dlAgain c && !q.noted then { s.setPSt op idx .wait with dlReqs := s.dlReqs.del (dlTag m) }
      else (if 1 ≤ c && c ≤ 8 && !q.noted then s.dlRecord m c else s).dlAnswer (dlTag m) false fun _ _ => .fail 1 none
    | _, _ => s.dlAnswer (dlTag m) false fun _ _ => .fail 1 none) s

/-! ## Modules and ports fail (R426, R427, R431) -/

/-- ST of a port by its working modules, of four or, for the combined port B, eight (R426, R436). -/
def DlPort.stNow (p : DlPort) : Nat :=
  if p.st = 5 then 5 else if p.modok.isEmpty then (if p.st = 0 then 0 else 4)
  else if !(p.ident && p.cap) then 1 else if p.modok.length < (if p.role = 1 then 8 else 4) || !p.half.isEmpty then 3 else 2

/-- The requests of a failed module leave by the one that takes their addresses (R427). -/
def State.dlMove (s : State) (k module : Nat) : State :=
  { s with dlReqs := s.dlReqs.mapVals fun _ q => if q.port = k && q.module = module then { q with module := s.dlModule k q.addr } else q }

/-- A module fails: the port goes on without it, and what it had not delivered is sent again in order, ahead of later messages (R426, R427). -/
def State.dlModuleFail (s : State) (k module : Nat) : State :=
  let drop (p : DlPort) : DlPort := { p with modok := p.modok.filter (· != module), half := p.half.filter (· != module), naks := p.naks.del module }
  let s := s.updDl k fun p => let p := drop p; { p with st := p.stNow }
  (s.dlMove k module).dlResend k

/-- The whole link of a partner fails (R429). -/
def State.dlFail (s : State) (k : Nat) : State := s.updDl k fun p => { p with st := 4, modok := [], half := [] }

/-- The partner is told of a module that has failed (R427, R430). -/
def State.dlTellFail (s : State) (k module : Nat) : State := (s.dlModuleFail k module).dlReply k (dlMake 3 0xE0 0 0 0 module false [])

/-- MODULE_FAIL (R427): the partner is told. -/
def execModuleFail (port : DiePort) (module : Nat) (s : State) : Out :=
  let k := s.dlKey (dpKey port)
  if !(s.dlPort k).modok.contains module then .next s else .next (s.dlTellFail k module)

/-- MFAIL (R430): the partner says that a module has failed. -/
def execMfail (port : DiePort) (m : DlMsg) (s : State) : Out :=
  dlStep port m 3 0xE0 (fun k s => s.dlModuleFail k (fld (dlArg m) 3 0)) s

/-- MODULE_DEGRADE (R426): failed lanes leave x32, or nothing. -/
def execModuleDegrade (port : DiePort) (module : Nat) (trainsX32 : Bool) (s : State) : Out :=
  let k := s.dlKey (dpKey port)
  if !(s.dlPort k).modok.contains module then .next s
  else if trainsX32 then
    .next (s.updDl k fun p => let q := { p with half := p.half.filter (· != module) ++ [module] }; { q with st := q.stNow })
  else .next (s.dlModuleFail k module)

/-- A request under a tag still awaits its answer. -/
def DlReq.waits (q : DlReq) : Bool := match q.use with
  | .bytes _ _ _ (some _) => false
  | _ => true

/-- DIE_LINK_REQ_TIMEOUT (R431): 1 ms without an answer: the request fails and is withdrawn, and its module fails and is reported to the partner. -/
def execDieLinkReqTimeout (tag : Nat) (s : State) : Out :=
  match s.dlReqs.get tag with
  | none => .next s
  | some q =>
    if s.clock < q.clock + 600000 || !q.waits then .next s
    else
      let gone (m : DlMsg) : Bool := dlCls m == 0 && dlTag m == tag
      let t := (s.dlAnswer tag false fun _ _ => .fail 1 none).updDl q.port fun p => { p with unack := p.unack.filter fun x => !gone x.2 }
      .next ({ t with dlOut := t.dlOut.filter fun x => !(x.1 == q.port && gone x.2) }.dlTellFail q.port q.module)

/-! ## Flits (R428) -/

/-- The messages in the slots of a flit after its header, and whether one was malformed: that one is dropped (R429), and where its slots cannot be
told, what follows it. -/
def flitMsgs : Nat → List (BitVec 128) → List DlMsg × Bool
  | 0, _ => ([], false)
  | _, [] => ([], false)
  | fuel + 1, h :: rest =>
    if h = 0 then flitMsgs fuel rest
    else
      let n := fld h.toNat 5 3
      if !([0, 1, 2, 5].contains n) || rest.length < n then ([], true)
      else
        let (ms, bad) := flitMsgs fuel (rest.drop n)
        if dlHdrOk h.toNat then ({ hdr := h, slots := rest.take n } :: ms, bad) else (ms, true)

/-- The CRC of a flit: over bytes 16 to 255, then bytes 0 to 11 (R428). -/
def flitCrc (slots : List (BitVec 128)) : Word :=
  crc32c ((slots.drop 1).flatMap (fun x => leBytes 16 x.toNat) ++ leBytes 12 ((slots.headD 0).toNat % 2 ^ 96))

/-- A is at most b in the half of the sequence numbers behind b. -/
def seqUpTo (a b : Nat) : Bool := (b + 256 - a) % 256 < 128

/-- What a flit's header says of the flits sent: acknowledged ones go, a NAK sends the rest again ahead of all else, credits
return (R428). -/
def State.flitBack (s : State) (k h : Nat) : State :=
  let give (x : Nat × Nat) : Nat := x.1 + fld h (27 + 8 * x.2) (20 + 8 * x.2)
  let s := s.updDl k fun p => { p with unack := p.unack.filter fun x => !seqUpTo x.1 (fld h 15 8), cred := p.cred.zipIdx.map give }
  if bit h 16 then s.dlResend k else s

/-- FLIT_RECEIVE (R428, R429): a flit whose CRC fails is discarded and NAKed; the eighth NAK in a row fails the module; a good flit out of
order is discarded; a malformed message is dropped and fails the link. -/
def execFlitReceive (port : DiePort) (module : Nat) (slots : List (BitVec 128)) (s : State) : Out :=
  let k := s.dlKey (dpKey port)
  let p := s.dlPort k
  let h := (slots.headD 0).toNat
  if slots.length ≠ 16 || !p.modok.contains module || p.st = 5 then .next s
  else if (flitCrc slots).toNat ≠ fld h 127 96 then
    let n := (p.naks.get module).getD 0 + 1
    let s := s.updDl k fun p => { p with naks := p.naks.set module n, nak := true }
    .next (if 8 ≤ n then s.dlModuleFail k module else s)
  else
    let s := (s.updDl k fun p => { p with naks := p.naks.del module }).flitBack k h
    if fld h 7 0 ≠ p.rseq then .next s
    else
      let (ms, bad) := flitMsgs 16 (slots.drop 1)
      let s := s.updDl k fun p => { p with rseq := (p.rseq + 1) % 256, inbox := p.inbox ++ ms }
      .next (if bad then s.dlFail k else s)

/-- The slots of a flit (R428): its header with FSEQ, ASEQ, NAK, CRED and CRC, a message, and zeros. -/
def DlPort.flit (p : DlPort) (seq : Nat) (m : DlMsg) : List (BitVec 128) :=
  let cred := (p.back.zipIdx.map fun x => min 255 x.1 <<< (20 + 8 * x.2)).sum
  let body := (m.hdr :: m.slots).take 15
  let all (crc : Nat) : List (BitVec 128) :=
    BitVec.ofNat 128 (seq % 256 + ((p.rseq + 255) % 256) <<< 8 + b2n p.nak <<< 16 + cred + crc <<< 96) :: (body ++ List.replicate (15 - body.length) 0)
  all (flitCrc (all 0)).toNat

/-- A PORT SENDS A FLIT (R428): its oldest message, on the module that takes its address; or none, where it has a NAK or credits to return. The flit
is kept until it is acknowledged. -/
def State.flitSend (s : State) (k : Nat) : State :=
  let out := (s.dlOut.filter fun x => x.1 == k).map Prod.snd
  let p := s.dlPort k
  let put (s : State) (seq : Nat) (m : DlMsg) : State :=
    { s.updDl k fun p => { p with nak := false, back := p.back.map fun c => c - min 255 c } with
        flitOut := s.flitOut ++ [(k, s.dlModule k (dlLineAddr m), p.flit seq m)] }
  match out with
  | m :: _ => match (p.unack.drop (p.unack.length - out.length)).head? with
    | some x => put { s with dlOut := s.dlOut.erase (k, m) } x.1 m
    | none => s
  | [] =>
    if !p.nak && p.back.all (· == 0) then s
    else
      let m : DlMsg := { hdr := 0, slots := [] }
      put (s.updDl k fun p => { p with tseq := (p.tseq + 1) % 256, unack := p.unack ++ [(p.tseq, m)] }) p.tseq m

/-! ## Discovery (R434 to R437) -/

/-- What a Reust die says of itself (R435). -/
def identMsg (d : Nat) : DlMsg :=
  dlMake 4 0xF0 0 0 0 (Config.diePart % 65536 + 1 <<< 16 + 1 <<< 20) false
    [BitVec.ofNat 128 (d + (Config.dieIdent d).toNat <<< 64)]
/-- Its credits and capabilities: none of a partner's units. -/
def capMsg : DlMsg :=
  dlMake 4 0xF1 0 0 0 0 false [BitVec.ofNat 128 ((List.range 5).map fun c => (Config.dlCredit c % 256) <<< (8 * c)).sum]

/-- MODULE_TRAINED (R434): with the first module the port is in training and the die sends IDENT and CAP. -/
def execModuleTrained (port : DiePort) (module : Nat) (s : State) : Out :=
  let k := s.dlKey (dpKey port)
  let p := s.dlPort k
  if 6 ≤ k || !(dpModules (dpKey port)).contains module || p.modok.contains module || 4 ≤ p.st then .next s
  else
    let first := p.modok.isEmpty
    let s := s.updDl k fun p =>
      let q : DlPort := { p with modok := sortBy id (module :: p.modok), st := 1, asked := if first then some s.clock else p.asked }
      { q with st := q.stNow }
    .next (if first then (s.dlReply k (identMsg (dpDie k))).dlReply k capMsg else s)

/-- The expansion memory of a die: what its B0 and B1 partners in that role hold (R436, R437). -/
def State.topoMem (s : State) (d : Nat) : State :=
  let mem (k : Nat) : Nat := let p := s.dlPort k; if p.role = 3 && p.ident && p.cap && bit p.caps 0 then min 32 p.memsz * 2 ^ 32 else 0
  { s with mgmt := { s.mgmt with expMem := s.mgmt.expMem.set d (mem (3 * d + 1) + mem (3 * d + 2)) } }

/-- A port has learnt something. -/
def State.topoLearn (s : State) (k : Nat) (f : DlPort → DlPort) : State :=
  (s.updDl k fun p => let q := f p; { q with st := q.stNow }).topoMem (dpDie k)

/-- B0 and B1 of a die both face its Reust partner: B0 takes over the modules of B1 and what it has learnt (R426). -/
def State.dlJoin (s : State) (d : Nat) : State :=
  let b := s.dlPort (3 * d + 2)
  let s := s.updDl (3 * d + 1) fun p =>
    { p with modok := sortBy id (p.modok ++ b.modok), half := p.half ++ b.half, cap := p.cap || b.cap, cred := if p.cap then p.cred else b.cred,
             caps := if p.cap then p.caps else b.caps, memsz := if p.cap then p.memsz else b.memsz,
             asked := p.asked.or b.asked, unack := p.unack ++ b.unack, inbox := p.inbox ++ b.inbox }
  { s with dl := s.dl.set (3 * d + 2) { DlPort.reset with st := b.st }
           dlOut := s.dlOut.map fun x => if x.1 = 3 * d + 2 then (3 * d + 1, x.2) else x }

/-- The 10 ms in which a partner must send IDENT and CAP are over (R434). -/
def DlPort.late (p : DlPort) (clock : Nat) : Bool := match p.asked with
  | some t => !(p.ident && p.cap) && t + 6000000 ≤ clock
  | none => false

/-- IDENT (R435): part, role, version and the die index of a Reust partner (R436); a partner of another version, or a late one, is timed out. -/
def execIdent (port : DiePort) (m : DlMsg) (s : State) : Out :=
  dlStep port m 4 0xF0 (fun k s =>
    if (s.dlPort k).late s.clock || fld (dlArg m) 23 20 ≠ 1 then s.updDl k fun p => { p with st := 5 }
    else
      let role := fld (dlArg m) 19 16
      let h := if role = 1 && k % 3 = 2 then k - 1 else k
      let fresh := k % 3 ≠ 0 && role = 1 && !s.dlJoined (dpDie k)
      let s := if fresh then s.dlJoin (dpDie k) else s
      s.topoLearn h fun p => { p with part := fld (dlArg m) 15 0, role := role, ver := fld (dlArg m) 23 20,
                                      peer := if role = 1 then fld (dlSlot m 0) 7 0 else 0, ident := true }) s

/-- CAP (R435): credits, capabilities and expansion memory. -/
def execCap (port : DiePort) (m : DlMsg) (s : State) : Out :=
  dlStep port m 4 0xF1 (fun k s =>
    let x := dlSlot m 0
    if (s.dlPort k).late s.clock then s.updDl k fun p => { p with st := 5 }
    else if (s.dlPort k).cap then s
    else s.topoLearn k fun p => { p with cred := (List.range 5).map (fun c => fld x (8 * c + 7) (8 * c)), caps := fld x 46 40, memsz := fld x 55 48,
                                         cap := true }) s

/-- DISCOVERY_TIMEOUT (R434): 10 ms without both answers; the port is never used until reset. -/
def execDiscoveryTimeout (port : DiePort) (s : State) : Out :=
  let k := s.dlKey (dpKey port)
  if (s.dlPort k).late s.clock then .next (s.updDl k fun p => { p with st := 5 }) else .next s

/-- A topology register (R436): TOPOB0 and TOPOB1 both describe the combined port B (R426). -/
def State.topo (s : State) (k : Nat) : Nat :=
  let h := s.dlKey k
  let p := s.dlPort h
  p.st + p.role <<< 4 + p.peer <<< 8 + ((p.modok.map fun m => 2 ^ (m - 4 * (h % 3))).sum) <<< 16 + p.ver <<< 24 + p.caps <<< 32 + p.memsz <<< 40
    + p.part <<< 48

end Sys2Proof.Machine
end

