-- ==== Sys2Proof/Machine/HostIf.lean ====
section
/-! DEFINITION. The host interface (R439 to R451): the device memory aperture, the management registers, power and thermal limits, reset
and boot, reduced service, and attestation. -/

namespace Sys2Proof.Machine

/-! ## The aperture (R440, R451) -/

/-- The virtual address of a BAR4 offset. -/
def State.apVa (s : State) (off : Nat) : Nat := (s.mgmt.apbase + off) % 2 ^ 48
/-- The host, as the maker of an access through the aperture. -/
def State.apWho (s : State) : Who :=
  { asid := s.mgmt.apasid, slot := none, core := 0, part := 0, pslot := 0, uid := none, dev := 0, inb := false }
/-- Put a PCIe message out. -/
def State.pcie (s : State) (m : PcieMsg) : State := { s with pcieOut := s.pcieOut ++ [m] }
/-- Record a refusal of a host access: KIND 6, SERV 0. -/
def State.apRecord (s : State) (va cause : Nat) : State := (s.record s.apWho va cause 6 false).1

/-- What an aperture read of one line meets. -/
inductive ApGet where
  | ok (bytes : List Byte)
  | poison
  | fail (cause : Nat)
  | host (addr : Nat)
  | wait
  deriving DecidableEq, Repr

/-- READ bytes of one line for the host (R440). -/
def State.apLine (s : State) (va n : Nat) (k : AccKind) : State × ApGet :=
  if s.logged s.mgmt.apasid (va / 64) then match s.xlate s.mgmt.apasid va k false with
    | (s, .fail c) => (s.apRecord va c, .fail c)
    | (s, .ok _) => if k == .write then ((s.unitWaits s.apWho (va / 64) (byteSpan (va % 64) n) 6).1, .wait) else (s, .wait)
  else match s.home s.apWho (va / 64) k with
    | (s, .ok x) => (s, .ok (lineSlice x (va % 64) n))
    | (s, .poison) => (s, .poison)
    | (s, .fail c) => (s.apRecord va c, .fail c)
    | (s, .host a) => (s, .host (a + va % 64))

/-- Ask the host for its own memory on its behalf, through a HOST page. -/
def State.apHost (s : State) (va addr n : Nat) (msg : Nat → PcieMsg) : State :=
  (s.hostSend { use := .eng 7 n va, dev := 0, off := addr, clock := none, core := 0, slot := 256, pid := 0, write := false, host := true } msg).1

/-- The BARs answer: the endpoint is not in stage 7 (R447). -/
def State.barLive (s : State) : Bool := s.mgmt.stage != 7

/-- APERTURE_READ (R440): at most 64 bytes of one line. -/
def execApertureRead (off len : Nat) (s : State) : Out :=
  let va := s.apVa off
  if !s.barLive || 2 ^ 36 < off + len || len = 0 || 64 < va % 64 + len then .next s
  else s.inTurn (.read off len) false (match s.apLine va len .read with
    | (t, .ok bs) => .next (t.pcie (.completion bs))
    | (t, .poison) => .next (t.pcie .poisoned)
    | (t, .fail _) => .next (t.pcie .unsupported)
    | (t, .host a) => .next (t.apHost va a len fun n => .read n a len)
    | (t, .wait) => .next { t with posted := [.read off len] })

/-- APERTURE_WRITE (R440): a write that fails is dropped and counted. -/
def execApertureWrite (off : Nat) (bytes : List Byte) (s : State) : Out :=
  let va := s.apVa off
  let n := bytes.length
  if !s.barLive || 2 ^ 36 < off + n || n = 0 || 64 < va % 64 + n then .next s
  else s.inTurn (.write off bytes) false (
    let x := lineAt (va % 64) n (leNat bytes)
    let m := byteSpan (va % 64) n
    match s.apLine va n .write with
    | (t, .fail _) => .next { t with mgmt := { t.mgmt with aperr := min 0xFFFFFFFF (t.mgmt.aperr + 1) } }
    | (t, .host a) => .next (t.hostWrite (a / 64 * 64) x m)
    | (t, .wait) => .next { t with posted := [.write off bytes] }
    | (t, _) => .next (t.mcPut t.mgmt.apasid (va / 64) x m))

/-- Width, operation code, operand and new value of a host AtomicOp (R440). -/
def apOp : HostAtomic → Nat × (Nat → Nat)
  | .fetchAdd z v => (z, fun old => opNew 0 (if z = 4 then .n32 else .n64) old v)
  | .swap z v => (z, fun _ => v % 2 ^ (8 * z))
  | .cas z c v => (z, fun old => if old = c % 2 ^ (8 * z) then v % 2 ^ (8 * z) else old)

/-- APERTURE_ATOMIC (R440): performed at the home as ATOM. -/
def execApertureAtomic (off : Nat) (op : HostAtomic) (s : State) : Out :=
  let va := s.apVa off
  let (z, f) := apOp op
  if !s.barLive || 2 ^ 36 < off + z || !(z = 4 || z = 8) || va % z ≠ 0 then .next s
  else s.inTurn (.atomic off op) false (match s.apLine va z .write with
    | (t, .ok bs) =>
      let new := f (leNat bs)
      .next ((t.mcPut t.mgmt.apasid (va / 64) (lineAt (va % 64) z new) (byteSpan (va % 64) z)).pcie (.completion bs))
    | (t, .poison) => .next (t.pcie .poisoned)
    | (t, .fail _) => .next (t.pcie .unsupported)
    | (t, .host a) => .next (t.apHost va a z fun n => .atomic n a op)
    | (t, .wait) => .next { t with posted := [.atomic off op] })

/-- The oldest access of the host that waits is tried again, ahead of the others (R440). -/
def State.postTry (s : State) : Out := match s.posted with
  | [] => .next s
  | x :: rest =>
    let t := { s with posted := [] }
    let out := match x with
      | .read off len => execApertureRead off len t
      | .write off bytes => execApertureWrite off bytes t
      | .atomic off op => execApertureAtomic off op t
      | .packet slot bytes => execLaunchPacketWrite slot bytes t
      | .restore slot => execRestore slot t
    match out with
    | .next t => .next { t with posted := t.posted ++ rest }
    | o => o

/-- APERR_READ (R451): the count, which the read clears. -/
def execAperrRead (s : State) : Out :=
  s.served (
    .next ({ s with mgmt := { s.mgmt with aperr := 0 } }.pcie (.completion (leBytes 4 s.mgmt.aperr))))

/-- The host's own memory answers an aperture access to a HOST page; a completion that fails is a failed translation, which is recorded (R330,
R440, R441). -/
def State.apReply (s : State) (va : Nat) : Reply → State
  | .data bs => s.pcie (.completion bs)
  | .ack => s.pcie (.completion [])
  | .fail 5 _ => s.pcie .poisoned
  | .fail _ _ =>
    let (c, s) := s.hostCause
    (s.apRecord va c).pcie .unsupported

/-! ## Registers (R6, R443) -/

/-- Clear the sticky bits of CTXSTAT that a write names (R288). -/
def ctxClear (v : Nat) (c : Ctx) : Ctx :=
  { c with nosave := c.nosave && !bit v 20, cerr := c.cerr && !bit v 16, qerr := c.qerr && !bit v 15, pfull := c.pfull && !bit v 14,
           lpart := c.lpart && !bit v 13, lbusy := c.lbusy && !bit v 12 }

/-- Unmask or mask an MSI-X entry; an entry whose PBA bit is set sends its message when it is unmasked. -/
def State.msixWrite (s : State) (i : Nat) (mask : Bool) : State :=
  let others := s.mgmt.msixMask.filter (· != i)
  if mask then { s with mgmt := { s.mgmt with msixMask := sortBy id (i :: others) } }
  else
    let due := s.mgmt.pba.contains i
    let s := { s with mgmt := { s.mgmt with msixMask := others, pba := s.mgmt.pba.filter (· != i) } }
    if due then s.pcie (.msix i) else s

/-- Change the management registers. -/
def State.updMgmt (s : State) (f : Mgmt → Mgmt) : State := { s with mgmt := f s.mgmt }

/-- A WRITE TO A REGISTER: RW fields take their bits, W1C bits written as 1 are cleared, the rest is ignored (R6). -/
def State.regWrite (s : State) (r : HostReg) (v : DWord) : State :=
  let x := v.toNat
  match r with
  | .ctxstat k => if 256 ≤ k then s else s.updCtx k (ctxClear x)
  | .ctxsave k => if 256 ≤ k then s else s.updCtx k fun c => { c with save := fld x 55 12 * 4096 }
  | .telbase k => if 256 ≤ k then s else s.updCtx k fun c => { c with telbase := v &&& BitVec.ofNat 64 (2 ^ 56 - 4096 + 31) }
  | .portStatus k => if 24 ≤ k then s else s.updPort k fun p => { p with fail := p.fail && !bit x 3 }
  | .mcastGroup i => if 256 ≤ i then s else
      { s with mgroups := s.mgroups.set i (v &&& BitVec.ofNat 64 (0xFFFF <<< 32 + 1 <<< 31 + 1 <<< 24 + 0xFFFFFF)) }
  | .route c => if 128 ≤ c then s else { s with routes := s.routes.set c (x % 4096) }
  | .detour a b => if 16 ≤ a || 16 ≤ b then s else { s with detours := s.detours.set (a * 16 + b) (x % 16) }
  | .port23 i => if 16 ≤ i then s else { s with port23 := s.port23.set i (fld x 10 0 + b2n (bit x 15) * 2 ^ 15) }
  | .port23Ctx => { s with port23Ctx := x % 65536 }
  | .ckctl => s.ckWrite x
  | .ckTarget i hi => if 16 ≤ i then s else
      let e := (s.ck.targets.get i).getD (0, 0)
      let t : Tbl (DWord × DWord) := s.ck.targets.set i (if hi then (e.1, v &&& BitVec.ofNat 64 (2 ^ 64 - 2 ^ 48 + 2 ^ 44 - 1)) else
        (v &&& BitVec.ofNat 64 (2 ^ 64 - 2 ^ 32 + 2 ^ 11 - 1), e.2))
      { s with ck := { s.ck with targets := t } }
  | .fwctl => s.updMgmt fun m => { m with hostmw := bit x 0 }
  | .devidx => if s.mgmt.devset then s else s.updMgmt fun m => { m with devidx := x % 2048, devset := true }
  | .apbase => s.updMgmt fun m => { m with apbase := x % 2 ^ 48 }
  | .apasid => s.updMgmt fun m => { m with apasid := x % 4096 }
  | .asidTable => s.updMgmt fun m => { m with asidTable := x % 2 ^ 56 }
  | .podMap => s.updMgmt fun m => { m with podMap := x % 2 ^ 56 }
  | .frameOwners => s.updMgmt fun m => { m with owners := x % 2 ^ 56 }
  | .winFrame => s.updMgmt fun m => { m with winFrame := if x % 65536 = 0 then some (x % 2 ^ 56) else none }
  | .msixMask i => if 264 ≤ i then s else s.msixWrite i (bit x 0)
  | .coreFreq => s.updMgmt fun m => { m with coreFreq := x }
  | .phys a => s.physPut (a / 8 * 8 % 2 ^ 56) (leBytes 8 x)

/-- REGISTER_WRITE (R6, R443): by firmware, which runs from stage 5 on, or by the host through the window that firmware opens. -/
def execRegisterWrite (r : HostReg) (v : DWord) (s : State) : Out :=
  s.served (.next (s.regWrite r v))

/-! ## Reading registers (R6, R7, R443) -/

/-- The code of a context slot's state (R287). -/
def CtxSt.code : CtxSt → Nat
  | .idle => 0
  | .running => 1
  | .saving => 2
  | .saved => 3
  | .restoring => 4
  | .done => 5
  | .stopped => 6

/-- CTXSTAT (R288). -/
def Ctx.stat (c : Ctx) : Nat :=
  c.st.code + (c.lerr % 256) <<< 4 + b2n c.lbusy <<< 12 + b2n c.lpart <<< 13 + b2n c.pfull <<< 14 + b2n c.qerr <<< 15 + b2n c.cerr <<< 16
    + (c.stopc % 8) <<< 17 + b2n c.nosave <<< 20

/-- CKCTL (R423). -/
def Ck.ctl (k : Ck) : Nat := b2n k.restore <<< 2 + k.st <<< 3 + k.nt <<< 8 + k.layt <<< 12

/-- PWRCTL as it reads (R446). -/
def State.pwrctl (s : State) : Nat :=
  b2n s.mgmt.evt + b2n (!s.throttled.isEmpty) <<< 1 + b2n s.mgmt.stopt <<< 2 + s.mgmt.tj <<< 8 + s.mgmt.pnow <<< 16 + s.mgmt.pcap <<< 32

/-- FWCTL (R443, R447, R449). -/
def Mgmt.fwctl (m : Mgmt) : Nat := b2n m.hostmw + m.stage <<< 1 + b2n m.reduced <<< 4

/-- The registers that a read reaches: those of a slot's launch window and management block, of a deck window by offset, and of the management
window (R303, R439, R443). -/
inductive ReadReg where
  | launch (slot : Nat)
  | ctxstat (slot : Nat)
  | ctxcmd (slot : Nat)
  | ctxsave (slot : Nat)
  | ctxsz (slot : Nat)
  | intcfg (slot : Nat)
  | telbase (slot : Nat)
  | deck (slot deck off : Nat)
  | quota (slot core : Nat)
  | fwctl
  | devidx
  | apbase
  | apasid
  | aperr
  | asidTable
  | podMap
  | frameOwners
  | fabcfg
  | portStatus (port : Nat)
  | mcastGroup (i : Nat)
  | route (clique : Nat)
  | detour (a b : Nat)
  | port23 (i : Nat)
  | port23Ctx
  | ckctl
  | ckTarget (i : Nat) (hi : Bool)
  | topo (port : Nat)
  | pwrctl
  | coreFreq
  | faultQueue (die : Nat)
  | resolve (slice : Nat)
  | shootdown
  | msix (i : Nat)
  | pba (i : Nat)
  deriving DecidableEq, Repr

/-- An entry of the MSI-X table (R439, R442): its message's address and data, and in bit 96 its mask. -/
def Mgmt.msixEntry (m : Mgmt) (i : Nat) : Nat := ((m.msixTab.get i).getD 0).toNat + b2n (m.msixMask.contains i) <<< 96
/-- 64 bits of the PBA. -/
def Mgmt.pbaWord (m : Mgmt) (i : Nat) : Nat := (((m.pba.filter fun v => v / 64 == i)).map fun v => 2 ^ (v % 64)).sum

/-- WHAT A REGISTER READS (R6, R7): its fields as they stand; reserved fields and write-only registers read 0. What a read also clears is in
State.readTakes. -/
def State.regRead (s : State) : ReadReg → Nat
  | .launch _ => 0
  | .ctxstat k => (s.ctx k).stat
  | .ctxcmd _ => 0
  | .ctxsave k => (s.ctx k).save
  | .ctxsz k => (s.ctx k).size
  | .intcfg k => (s.ctx k).intcfg.toNat
  | .telbase k => (s.ctx k).telbase.toNat
  | .deck k d off => if off = 0x48 then s.deckDrops k d else s.deckWindow k d off
  | .quota k n => s.quotaOf k n
  | .fwctl => s.mgmt.fwctl
  | .devidx => s.mgmt.devidx
  | .apbase => s.mgmt.apbase
  | .apasid => s.mgmt.apasid
  | .aperr => s.mgmt.aperr
  | .asidTable => s.mgmt.asidTable
  | .podMap => s.mgmt.podMap
  | .frameOwners => s.mgmt.owners
  | .fabcfg => s.mgmt.fabcfg.toNat
  | .portStatus k => if 24 ≤ k then 0 else s.portStatus k
  | .mcastGroup i => s.mgroup i
  | .route c => s.routeOf c
  | .detour a b => (s.detours.get (a * 16 + b)).getD 0
  | .port23 i => (s.port23.get i).getD 0
  | .port23Ctx => s.port23Ctx
  | .ckctl => s.ck.ctl
  | .ckTarget i hi => let e := (s.ck.targets.get i).getD (0, 0); (if hi then e.2 else e.1).toNat
  | .topo k => s.topo k
  | .pwrctl => s.pwrctl
  | .coreFreq => s.mgmt.coreFreq
  | .faultQueue d => ((s.faultQ.find? fun x => x.1 == d).map fun x => x.2.toNat).getD 0
  | .resolve _ => 0
  | .shootdown => 0
  | .msix i => s.mgmt.msixEntry i
  | .pba i => s.mgmt.pbaWord i

/-- A register lies in the management window. -/
def ReadReg.inWindow : ReadReg → Bool
  | .launch _ => false
  | .ctxstat _ => false
  | .ctxcmd _ => false
  | .ctxsave _ => false
  | .ctxsz _ => false
  | .intcfg _ => false
  | .telbase _ => false
  | .deck _ _ _ => false
  | .msix _ => false
  | .pba _ => false
  | _ => true

/-- What a host read of a register returns (R443, R447): 0 in the management window unless FWCTL.HOSTMW is 1; in stage 7 only the status registers of
BAR0 answer. -/
def State.hostReads (s : State) (r : ReadReg) : Option Nat :=
  let status := match r with
    | .ctxstat _ => true
    | .fwctl => true
    | _ => false
  if s.mgmt.stage = 7 && !status then none else some (if r.inWindow && !s.mgmt.hostmw then 0 else s.regRead r)

/-! ## Limits (R14, R445, R446) -/

/-- A limit has acted: EVT and MSI-X 259 (R442, R446). -/
def State.limitActs (s : State) : State := (s.updMgmt fun m => { m with evt := true }).msix 259

/-- THROTTLE (R14, R445): a core inserts idle issue slots. -/
def execThrottle (core : Nat) (s : State) : Out :=
  if 192 ≤ core || s.throttled.contains core then .next s
  else .next ({ s with throttled := s.throttled ++ [core] }.limitActs)

/-- THROTTLE_END (R14). -/
def execThrottleEnd (core : Nat) (s : State) : Out := .next { s with throttled := s.throttled.filter (· != core) }

/-- THERMAL_STOP (R445): at 115 °C all issue stops; engine operations go on. -/
def execThermalStop (s : State) : Out :=
  if s.mgmt.stopt then .next s else .next ((s.updMgmt fun m => { m with stopt := true }).limitActs)

/-- THERMAL_RESUME (R445). -/
def execThermalResume (s : State) : Out := .next (s.updMgmt fun m => { m with stopt := false })

/-- PWRCTL_WRITE (R446): a PCAP out of range is ignored. -/
def execPwrctlWrite (v : DWord) (s : State) : Out :=
  s.served (
    let x := v.toNat
    let cap := fld x 47 32
    .next (s.updMgmt fun m => { m with pcap := if 300 ≤ cap && cap ≤ 2000 then cap else m.pcap, evt := m.evt && !bit x 0 }))

/-! ## Reset, boot and attestation (R447 to R449) -/

/-- The check that ends a stage of the boot (R447): the header names the body's length; the key's hash; the signature; the version. -/
def bootOk (img : FwImage) : Nat → Bool
  | 1 => img.len == img.body.length
  | 2 => Config.sha256 img.key == Config.rootHash
  | 3 => Config.lmsVerify img.key img.sig (Config.sha256 img.body)
  | 4 => Config.minVersion ≤ img.version
  | _ => true

/-- A STAGE OF THE BOOT ENDS (R442, R447): the next one begins, or stage 7 where its check fails. Stage 5 runs the firmware, whose measurement is
kept, in reduced service (R448, R449). -/
def State.bootStep (s : State) : State := match s.mgmt.image with
  | none => s
  | some img =>
    let n := if bootOk img s.mgmt.stage then s.mgmt.stage + 1 else 7
    let m : Mgmt := { s.mgmt with stage := n, image := if 5 ≤ n then none else some img, reduced := n == 5,
                                  measure := if n = 5 then some (Config.sha256 img.body) else none }
    { s with mgmt := m }.msix 261

/-- RESET (R447 to R449): the state after reset, from which the boot ROM goes on with the image; the leaf counter of the attestation key only rises,
and free values stay fresh. -/
def execReset (img : FwImage) (s : State) : Out :=
  .next { State.reset with mgmt := { Mgmt.reset with leaf := s.mgmt.leaf, image := some img }, free := s.free, agenda := s.agenda }

/-- REDUCED_SERVICE_EXIT (R449): the cache's contents are the frames' from then on; stage 6. -/
def execReducedServiceExit (s : State) : Out :=
  if s.mgmt.stage ≠ 5 || !s.mgmt.reduced || s.anyActive then .next s
  else .next ((s.updMgmt fun m => { m with reduced := false, stage := 6 }).msix 261)

/-- ATTESTATION_REPORT (R448): each leaf signs once; none is left after 32,768 reports. -/
def execAttestationReport (nonce : List Byte) (s : State) : Out :=
  match s.mgmt.measure with
  | none => .next s
  | some h =>
    let body := leBytes 32 h.toNat ++ Config.deviceId ++ nonce
    if nonce.length ≠ 32 then .next s
    else if 32768 ≤ s.mgmt.leaf then .next (s.pcie (.report body none))
    else .next ((s.updMgmt fun m => { m with leaf := m.leaf + 1 }).pcie (.report body (some (Config.lmsSign s.mgmt.leaf body))))

end Sys2Proof.Machine
end

