-- ==== Sys2Proof/Machine/Late.lean ====
section
/-! DEFINITION. The steps that many units share: what a fault record's answer releases (R333, R336), the arrival of loaded data
(R181) and the completion of stores (R183), the end of a segment's transit (R166, R167), replies of other packages and of the host
(R359, R360, R441), and packets at the switch (R353 to R358, R362). -/

namespace Sys2Proof.Machine

/-! ## Answers to fault records (R333, R336) -/

/-- A barrier update that is held on a record. -/
def TbUpd.on (u : TbUpd) (slice rid : Nat) : Bool := u.held == some (slice, rid)

/-- RESOLVE_RETRY (R333): the accesses held on the record walk again, and the page's side-log entries replay. -/
def execResolveRetry (slice rid : Nat) (s : State) : Out :=
  match (s.slice slice).recs.find? fun r => r.rid == rid with
  | none => .next s
  | some r =>
    let upd (u : TbUpd) : TbUpd := if u.on slice rid then { u with held := none } else u
    let probe (p : Probe) : Probe := if p.ph.on slice rid then { p with ph := .going [] } else p
    let t := (s.closeRec slice rid).heldTo slice rid .wait
    .next (({ t with tbq := t.tbq.map upd, probes := t.probes.mapVals fun _ p => probe p }).replayPage slice r.asid r.page fun _ => true)

/-- RESOLVE_FAIL (R333, R336): the record closes and every access on it ends. -/
def execResolveFail (slice rid : Nat) (s : State) : Out :=
  match (s.slice slice).recs.find? fun r => r.rid == rid with
  | none => .next s
  | some r =>
    let s := (s.closeRec slice rid).heldTo slice rid (.bad 1)
    let s := { s with ic := r.fetches.foldl (fun t k => t.set k .bad) s.ic }
    let out := (s.slice slice).log.filter fun e => e.rid == some rid
    let s := s.updSlice slice fun x => { x with log := x.log.filter fun e => e.rid != some rid }
    let s := out.foldl (fun s e => s.logFail e 1) s
    let us := s.tbq.filter fun u => u.on slice rid
    let s := { s with tbq := s.tbq.filter fun u => !u.on slice rid }
    let s := us.foldl (fun s u => s.tbDone u (.bad 1) (tbGa u.ref)) s
    let s := s.probes.foldl (fun s p => if p.2.ph.on slice rid then s.probeFail p.1 r.page p.2 else s) s
    .next (s.replayPage slice r.asid r.page fun e => e.rid.isNone)

/-! ## Loads and stores -/

/-- A lane's loads are tried: first those that cross the die link (R431). -/
def State.dlLoads (s : State) (op lane : Nat) : State :=
  let t := s.dlIssueAll op
  if t.dlHolds op (some lane) then t else t.loadLane op lane

/-- ATOMIC_AT_HOME (R186): the combined request of one location. One lane's operation on a line of the other die crosses the die link (R187, R430). -/
def execAtomicAtHome (op loc : Nat) (s : State) : Out :=
  match s.reqs.get op with
  | none => .next s
  | some r =>
    if r.kind != .atom && r.kind != .red then .next s
    else
      let xs := r.atLoc loc
      match xs with
      | [] => .next s
      | x :: _ =>
        if s.blocked op r x.1 then .next s
        else if s.dlLinked && (s.dlMsgOf r x.1 0).isSome then .next ((s.dlIssue op r x).getD s)
        else match x.1.place with
          | .global va => .next (s.atomGlobal op r xs va)
          | .loc c off => .next (s.atomLocal op r xs c off loc)
          | _ => .next s

/-- LOAD_DATA_ARRIVAL (R181, R183): a lane's data, or its fault record, arrives. -/
def execLoadDataArrival (op lane : Nat) (s : State) : Out :=
  match s.reqs.get op with
  | none => .next s
  | some r => match r.kind with
    | .ld => .next (((s.dlLoads op lane).deliver op lane))
    | .refill => .next ((s.dlLoads op lane).refillEnd op)
    | .tbtest => .next (if r.uns then s else (s.tbtestTry op r).deliver op lane)
    | .image rep k => .next ((if rep then s.openTry op k r else s.imageTry op k r).deliver op lane)
    | .tb => .next (s.deliver op lane)
    | .atom => .next (s.deliver op lane)
    | .subs _ _ => .next (s.deliver op lane)
    | .unsubs _ => .next (s.deliver op lane)
    | .segstat => .next (s.deliver op lane)
    | .answer => .next (s.deliver op lane)
    | .st => .next s
    | .red => .next s

/-- STORE_COMPLETION (R183). -/
def execStoreCompletion (op : Nat) (s : State) : Out :=
  match s.reqs.get op with
  | none => .next s
  | some r => match r.kind with
    | .st =>
      let t := s.dlIssueAll op
      .next ((if t.dlHolds op none then t else t.storeAll op).finishReq op)
    | .red => .next (s.finishReq op)
    | _ => .next s

/-! ## Segments in transit (R166, R167) -/

/-- Copy the 64 lines of a home to its replica, poisoned words too; and whether there are any (R166, R416). -/
def State.segCopy (s : State) (seg home : Nat) : State × Bool :=
  let a := segBase home
  let b := segBase seg
  let bad := s.lsPoison.filter fun w => a ≤ 8 * w && 8 * w < a + 4096
  let t := s.lsZero b 4096
  ({ t with ls := t.ls.write b (s.ls.read a 4096), lsPoison := t.lsPoison ++ bad.map fun w => w - a / 8 + b / 8 }, !bad.isEmpty)

/-- SUBS ends: the replica takes the snapshot with its sequence numbers and enters S; D takes status 0 (R166, R417). -/
def State.subsEnd (s : State) (op seg home : Nat) : State :=
  let (t, bad) := s.segCopy seg home
  (t.updSeg seg fun g => { g with st := .s, home := home, subs := [], seqs := [], msgs := [], applied := (s.seg home).seqs }).setPSt op 0
    (if bad then .bad 5 else .ready (leBytes 4 0))

/-- What the issuing core has pending against the home before its UNSUBS (R163, R167). -/
def State.unsubsWaits (s : State) (op core home : Nat) : Bool :=
  s.unstamped core home op ≠ 0 || (s.replicas core).any fun r => (s.seg r).home == home && (s.seg r).unapplied core ≠ 0

/-- SEGMENT_TRANSIT_END (R166, R167). -/
def execSegmentTransitEnd (seg : Nat) (s : State) : Out :=
  match (s.seg seg).st with
  | .t op => match s.reqs.get op with
    | none => .next s
    | some r => match r.kind with
      | .subs _ home => .next (s.subsEnd op seg home)
      | .unsubs _ =>
        let home := (s.seg seg).home
        if !(s.seg seg).msgs.isEmpty || s.unsubsWaits op (plyCore r.pid) home then .next s
        else
          let t := s.updSeg home fun g => { g with subs := g.subs.filter (· != seg) }
          .next ((t.updSeg seg fun g => { g with st := .o, subs := [], seqs := g.applied, applied := [] }).setPSt op 0 (.ready (leBytes 4 0)))
      | _ => .next s
  | _ => .next s

/-! ## Replies of other packages (R338, R359, R360) -/

/-- A remote write failed (R211, R338), or not. -/
def State.remoteEnd (s : State) (q : RReq) (dev off : Nat) : Reply → State
  | .fail _ cause => s.remoteErr q.core q.slot dev off cause
  | _ => s

/-- A write to the package's own exported space has been performed at its home: the clean bytes of the core's own copy of the line go (R172, R196). -/
def State.ownStale (s : State) (q : RReq) : State :=
  if q.dev = s.mgmt.devidx then s.l1Stale q.core (s.slotAsid q.slot) (podVa q.off / 64) else s

/-- What a reply, or the lack of one, does to the request that awaits it. -/
def State.remoteReply (s : State) (n : Nat) (q : RReq) (x : Reply) : State :=
  let s := { s with remote := s.remote.del n }
  match q.use with
  | .part op _ => ((s.ownStale q).partReply n q op x).finishReq op
  | .wc _ slot dev _ => ((s.ownStale q).remoteEnd q dev q.off x).tryDone slot
  | .mcst op _ _ _ => (s.remoteEnd q q.dev q.off x).completeOp q.pid op
  | .col _ _ => s
  | .eng 6 kind idx => s.ckReply kind idx x
  | .eng _ _ _ => s

/-- An acknowledgement reaches a switch that merges (R362): the last one sends the merged one on. -/
def State.mergeReply (s : State) (n : Nat) (m : Merge) (r : RemoteReply) : State :=
  let cause := match m.cause, r with
    | some c, _ => some c
    | none, .nack c => some c
    | none, _ => none
  if 1 < m.left then { s with merges := s.merges.set n { m with left := m.left - 1, cause := cause } }
  else
    let s := { s with merges := s.merges.del n }
    s.fabSend .rsp 4095 m.up (.reply m.req (match cause with
      | some c => .nack c
      | none => .ack))

/-- A reply arrives: at a merge, or at its request; one that nothing awaits is discarded (R360). -/
def State.replyArrive (s : State) (n : Nat) (r : RemoteReply) : State :=
  match s.merges.get n with
  | some m => s.mergeReply n m r
  | none => match s.remote.get n with
    | some q => if q.host then s else s.remoteReply n q (replyOf r)
    | none => s

/-- REMOTE_ACK (R359): the reply to a request to another package. One to the package itself is a packet that its switch returns. -/
def execRemoteAck (req : Nat) (r : RemoteReply) (s : State) : Out :=
  match s.takeLoop (.reply req r) with
  | some t => .next (t.replyArrive req r)
  | none => match s.remote.get req with
    | some q => if q.dev = s.mgmt.devidx then .next s else .next (s.replyArrive req r)
    | none => .next s

/-- FABRIC_TIMEOUT (R360, R404): a request, or a SEND, that has had no answer within the fabric timeout ends. One of a collective call ends it by
ENGINE_PACKET_TIMEOUT (R378). -/
def execFabricTimeout (req : Nat) (s : State) : Out :=
  match s.remote.get req with
  | some q =>
    let col := match q.use with
      | .col _ _ => true
      | _ => false
    if q.host || col || !expired q.clock s.tout s.clock then .next s
    else
      let t := s.remoteReply req q (.fail 3 none)
      .next { t with merges := t.merges.filter fun m => !(m.2.up == s.mgmt.devidx && m.2.req == req) }
  | none => match s.sends.get req with
    | some o => .next (s.sendTimeout req o)
    | none => .next s

/-! ## Completions of the host (R441) -/

/-- A host line arrives for an instruction cache (R332, R417). -/
def icReply : Reply → IcLine
  | .data bs => .data (lineOf bs)
  | _ => .bad

/-- A host line arrives for an image or a descriptor. -/
def State.imageReply (s : State) (op a : Nat) : Reply → State
  | .data bs => { s with images := s.images.set op ((s.imgHost op).set a (lineOf bs)) }
  | .fail sub _ => ({ s with images := s.images.del op }).setPSt op 0 (.bad sub)
  | .ack => s

/-- The answer to an inbound access that went to the host (R337, R359, R417): the values by lane; poison; or a refusal, which is recorded with KIND 4. -/
def State.podHostAnswer (s : State) (h : PodHost) : State :=
  let send (s : State) (x : RemoteReply) : State := s.fabSend .rsp 4095 h.dev (.reply h.req x)
  match h.bad with
  | some true => send s .poisoned
  | some false =>
    let (c, s) := s.hostCause
    send (s.record (s.whoPod h.dev h.ctxid) h.va c 4 false).1 (.nack c)
  | none => send s (.data ((sortBy Prod.fst h.vals).flatMap Prod.snd))

/-- A PCIe request of an inbound access has completed: with the last the access is performed, and answered (R188, R359). -/
def State.inboundReply (s : State) (k lane : Nat) (r : HostReply) : State := match s.podHost.get k with
  | none => s
  | some h =>
    let h : PodHost := match r with
      | .data bs => { h with left := h.left - 1, vals := h.vals ++ [(lane, bs)] }
      | .poisoned => { h with left := h.left - 1, bad := some (h.bad.getD true) }
      | .error => { h with left := h.left - 1, bad := some false }
    if h.left = 0 then { s with podHost := s.podHost.del k }.podHostAnswer h else { s with podHost := s.podHost.set k h }

/-- What a completion does to the request that awaits it. -/
def State.hostReply (s : State) (n : Nat) (q : RReq) (r : HostReply) : State :=
  let s := { s with remote := s.remote.del n }
  let x := hostReplyOf r
  match q.use with
  | .part op _ => (s.partReply n q op x).finishReq op
  | .eng 1 k lane => s.inboundReply k lane r
  | .eng 2 k _ => s.icPut (k / 2 ^ 55) k (icReply x)
  | .eng 3 op line => s.copyHost op line x
  | .eng 4 op line => s.matHost op line x
  | .eng 5 op a => s.imageReply op a x
  | .eng 7 _ va => s.apReply va x
  | _ => s

/-- HOST_COMPLETION (R441). -/
def execHostCompletion (req : Nat) (r : HostReply) (s : State) : Out :=
  match s.remote.get req with
  | some q => if q.host then .next (s.hostReply req q r) else .next s
  | none => .next s

/-- HOST_COMPLETION_TIMEOUT (R441): no completion came; it counts as a failed translation. -/
def execHostCompletionTimeout (req : Nat) (s : State) : Out :=
  match s.remote.get req with
  | some q => if q.host then .next (s.hostReply req q .error) else .next s
  | none => .next s

/-! ## Inbound accesses (R337, R344) -/

/-- An inbound access, under the context bound to port 23 where a standard-mode endpoint makes it (R344). -/
def State.podArrive (s : State) (p : PodAccess) : State :=
  if s.boundStd p.dev then
    if stdOp p.off p.op then s.podAccess { p with ctxid := s.port23Ctx } else s.answer p .aunsup
  else s.podAccess p

/-- An inbound access to a line whose page is mapped again and of which the side log still holds an entry waits behind it (R334). -/
def State.podWaits (s : State) (p : PodAccess) : Bool :=
  let w := s.whoPod p.dev (if s.boundStd p.dev then s.port23Ctx else p.ctxid)
  s.logged w.asid (podVa p.off / 64) && match s.walk w.asid (podVa p.off) with
    | .ok _ => true
    | .fail _ => false

/-- INBOUND_POD_ACCESS (R337, R358): an access through the pod window arrives. One from the package's own index is a packet that its
switch returned. -/
def execInboundPodAccess (p : PodAccess) (s : State) : Out :=
  if s.podWaits p then .next s
  else if p.dev = s.mgmt.devidx then match s.takeLoop (.access p) with
    | some t => .next (t.podArrive p)
    | none => .next s
  else .next (s.podArrive p)

/-! ## Multicast at a switch (R361, R362) -/

/-- The agent of a switch's multicast copies: each group has flows of its own from each switch (R354, R363). -/
def mcstAgent (group : Nat) : Nat := 192 + group

/-- The destination that stands for a port of this switch, for a multicast copy that waits for it. -/
def portDst (k : Nat) : Nat := 4096 + k

/-- A multicast packet reaches this switch: a copy here where the entry says so, and one for each of its ports, all of whose
acknowledgements this switch merges. A copy for a port waits in the switch under the number `portDst` of the port. The package's own request has
left: its timeout runs (R360, R362). None where the package must wait to take its own copy (R377). -/
def State.mcstHere (s : State) (pkt : FabPkt) (m : McstPkt) : Option State :=
  let g := s.mgroup m.group
  let ports := if s.mgroupOk m.group m.ctxid then (List.range 24).filter fun k => bit g k else []
  let here := s.mgroupOk m.group m.ctxid && bit g 24
  let (n, s) := s.freshOp
  let c : McstPkt := { m with up := s.mgmt.devidx, req := n }
  let copies := ports.length + b2n here
  let s := { s with merges := s.merges.set n { up := m.up, req := m.req, left := copies, cause := none } }
  let s := if m.up = s.mgmt.devidx then { s with remote := s.remote.upd m.req fun q => { q with clock := q.clock.or (some s.clock) } } else s
  let one (s : State) (k : Nat) : State :=
    if 8 ≤ pkt.hop || (k = 23 && s.p23std) then s
    else { s with fabOut := s.fabOut ++ [{ cls := pkt.cls, src := s.mgmt.devidx, agent := mcstAgent m.group, dst := portDst k, hop := pkt.hop, seq := 0,
                                           body := .mcst c }] }
  let s := ports.foldl one s
  if copies = 0 then some (s.mergeReply n { up := m.up, req := m.req, left := 1, cause := none } .ack)
  else if here then s.mcstDeliver c else some s

/-- MCST_DELIVERY (R361, R362): a copy reaches this package, whose entry delivers one. The package's own packet is copied as its
switch takes it. -/
def execMcstDelivery (p : McstPkt) (s : State) : Out :=
  if p.dev = s.mgmt.devidx then match s.fabOut.find? fun x => x.dst == s.mgmt.devidx && x.body == .mcst p with
    | some pkt => match s.takeLoop (.mcst p) with
      | some t => .next ((t.mcstHere pkt p).getD s)
      | none => .next s
    | none => .next s
  else if s.mgroupOk p.group p.ctxid && bit (s.mgroup p.group) 24 then .next ((s.mcstDeliver p).getD s)
  else .next s

/-! ## Packets at the switch (R353 to R357) -/

/-- A package reports that its plies of the pod context have completed a phase (R122): with the last report the phase ends here. A report that
comes before the context starts here is kept for it. -/
def State.podPhase (s : State) (src ctxid phase : Nat) : State :=
  match s.slotFor ctxid with
  | none => if s.podEarly.contains (ctxid, src, phase) then s else { s with podEarly := s.podEarly ++ [(ctxid, src, phase)] }
  | some slot =>
    let k := barKey .pod 0
    let b0 := ((s.ctx slot).bars.get k).getD PlyBar.launch
    let b := if b0.reports.contains (src, phase) then b0 else { b0 with reports := b0.reports ++ [(src, phase)] }
    s.updCtx slot fun c => { c with bars := c.bars.set k (if b.pkgDone && b.podDone (Config.podMembers ctxid) then b.advance else b) }

/-- DELIVER a packet that has reached its destination; none where it must wait there. -/
def State.deliverPkt (s : State) (p : FabPkt) : Option State :=
  match p.body with
  | .access a => if s.podWaits a then none else some (s.podArrive a)
  | .reply n r => some (s.replyArrive n r)
  | .mcst m => s.mcstHere p m
  | .start q => s.colArrive (.start q)
  | .eng q => s.colArrive (.eng q)
  | .abort q => s.colArrive (.abort q)
  | .msg m => s.msgTake m
  | .hold n => some (s.sendHold n)
  | .sendDone n r => some (s.sendAnswer n r)
  | .pull n recv len => s.pullServe p.src n recv len
  | .pulled n r => match s.recvs.get n with
    | some x => some (if x.ph == .pull then s.pullAnswer n x r else s)
    | none => some s
  | .podBar ctxid phase => some (s.podPhase p.src ctxid phase)

/-- Deliver, in the order of their numbers, the packets of a flow that have arrived (R356). -/
def State.flowDrain (s : State) (k : Nat) : Nat → State
  | 0 => s
  | fuel + 1 =>
    let next := (s.flowIn.get k).getD 0
    match s.flowHeld.zipIdx.find? fun x => arriveKey x.1 == k && x.1.seq == next with
    | none => s
    | some x => match s.deliverPkt x.1 with
      | none => s
      | some t => State.flowDrain { t with flowHeld := t.flowHeld.eraseIdx x.2, flowIn := t.flowIn.set k (next + 1) } k fuel

/-- A packet of another package arrives at its destination (R356): a number already delivered is discarded. -/
def State.flowArrive (s : State) (p : FabPkt) : State :=
  let k := arriveKey p
  if p.seq < (s.flowIn.get k).getD 0 then s
  else
    let s := if s.flowHeld.contains p then s else { s with flowHeld := s.flowHeld ++ [p] }
    s.flowDrain k (s.flowHeld.length + 1)

/-- A request that standard mode lacks is refused where it was made (R344). -/
def State.stdRefuse (s : State) (p : FabPkt) : State := match p.body with
  | .access a => s.replyArrive a.req .aunsup
  | _ => s

/-- A copy for a port takes its number in the flow to the port's peer and leaves by the port, behind every packet of that flow that is here; where the
port is down it goes to the peer by the routes of R353 and R355; where the port has not trained it waits (R355, R356, R361). -/
def State.routeCopy (s : State) (i k : Nat) (p : FabPkt) : State :=
  let x := s.port k
  let copy : FabPkt := { p with dst := x.pdev }
  let mine (q : FabPkt) : Bool := arriveKey q == arriveKey copy && q.dst == x.pdev
  if x.txw = 0 || s.fabOut.any mine then s
  else
    let gone : State := { s with fabOut := s.fabOut.eraseIdx i }
    let (t, q) := gone.fabMake p.cls p.agent x.pdev p.hop p.body
    if s.usable k copy then t.portOut k q
    else if x.up then s
    else { (t.awayFrom k 24 q) with fabOut := t.fabOut ++ [q] }

/-- ROUTE a packet that waits in the switch (R353 to R356): out of a port; dropped at its ninth hop; refused, or dropped, where port 23
in standard mode leads to its device and does not carry it; or it waits, and where it waits in its own package its timeout runs (R355, R360, log entry
70). -/
def State.route (s : State) (i : Nat) (p : FabPkt) : State :=
  let gone : State := { s with fabOut := s.fabOut.eraseIdx i }
  if 8 ≤ p.hop then gone
  else if portDst 0 ≤ p.dst then s.routeCopy i (p.dst - portDst 0) p
  else if s.boundStd p.dst then
    let carried := match p.body with
      | .access a => stdOp a.off a.op
      | .reply _ _ => true
      | _ => false
    if !carried then gone.stdRefuse p else if (s.port 23).up then gone.portOut 23 p else s.leaves p
  else match s.nextHop p with
    | some k => (gone.noteAway k p).portOut k p
    | none => s.leaves p

/-- A packet of an endpoint in standard mode: a request into the exported space, or an answer; it carries no flow number, and nothing else is
supported (R344). -/
def State.stdArrive (s : State) (p : FabPkt) : State := match p.body with
  | .access a => s.podArrive a
  | .reply n r => s.replyArrive n r
  | _ => s

/-- PACKET_FORWARD (R353 to R358): the switch takes a packet: one of its own or in transit, which is first of its flow there; or one that
arrives from another package. -/
def execPacketForward (p : FabPkt) (s : State) : Out :=
  match s.fabOut.zipIdx.find? fun x => x.1 == p && s.firstOfFlow x.2 x.1 with
  | some (q, i) =>
    if q.dst = s.mgmt.devidx then match ({ s with fabOut := s.fabOut.eraseIdx i }).deliverPkt q with
      | some t => .next t
      | none => .next s
    else .next (s.route i q)
  | none =>
    if p.src = s.mgmt.devidx || !s.hasUnit 2 then .next s
    else if s.boundStd p.src then .next (s.stdArrive p)
    else if p.dst = s.mgmt.devidx then .next (s.flowArrive p)
    else
      let t := { s with fabOut := s.fabOut ++ [p] }
      if t.firstOfFlow s.fabOut.length p then .next (t.route s.fabOut.length p) else .next t

end Sys2Proof.Machine
end

