-- ==== Sys2Proof/Machine/Fetch.lean ====
section
/-! DEFINITION. Fetching and choosing (R34, R39, R86 to R89, R14): the bytes of a ply's next instruction, which ply of a partition
issues in a slot, and the core clock. What runs an instruction is a parameter, so that these definitions stand before the
dispatch. -/

namespace Sys2Proof.Machine

/-! ## Fetch (R31, R34, R86) -/

/-- What a fetch finds: a line that the instruction cache lacks; a fetch that fails, with the key of a line that failed; bytes. -/
inductive Fetched where
  | miss
  | bad (line : Option Nat)
  | bytes (bs : List Byte)
  deriving DecidableEq, Repr

/-- The lines of a core's instruction cache that hold bytes from an address on, as one string. -/
def State.icBytes (s : State) (core asid a n : Nat) : Fetched :=
  (pieces a n).foldl (fun acc x => match acc with
    | .bytes bs => match s.ic.get (icKey core asid x.1) with
      | some (.data d) => .bytes (bs ++ lineSlice d x.2.1 x.2.2)
      | some .bad => .bad (some (icKey core asid x.1))
      | none => .miss
    | r => r) (.bytes [])

/-- FETCH the instruction at the PC of a ply's running part (R31, R34): its first parcel, then the bytes of its form, all of them in
the code window. -/
def State.fetch (s : State) (pid : Nat) (p : Ply) : Fetched :=
  let c := s.ctx p.ctx
  let pc := (s.plyPc p).toNat
  let core := plyCore pid
  let asid := s.slotAsid p.ctx
  if !inWindow c pc || !inWindow c ((pc + 3) % 2 ^ 56) || 2 ^ 48 ≤ pc then .bad none
  else match s.icBytes core asid pc 4 with
    | .bytes b0 =>
      let n := formSize (leNat b0)
      if !inWindow c ((pc + n - 1) % 2 ^ 56) then .bad none else s.icBytes core asid pc n
    | r => r

/-- The bytes of an instruction as its decoder takes them: with 4-byte zero parcels after a form that is shorter than 12. -/
def padBytes (bs : List Byte) : List Byte := bs ++ List.replicate (12 - bs.length) 0

/-- The instruction that a ply would issue, or the TRAPSUB of the refusal of its encoding (R61, R62), or a miss. -/
inductive Next where
  | miss
  | illop (sub : Nat) (line : Option Nat)
  | run (i : Instr)
  deriving DecidableEq, Repr

/-- Fetch and decode. -/
def State.nextInstr (s : State) (pid : Nat) (p : Ply) : Next := match s.fetch pid p with
  | .miss => .miss
  | .bad l => .illop 1 l
  | .bytes bs => match decode (padBytes bs) with
    | .ok (i, _) => .run i
    | .error e => .illop (decErrCause e) none

/-! ## Choosing a ply (R39, R86, R87) -/

/-- ILLOP at a fetch or a decode (R61, R62): taken in every active lane. A line that failed is fetched anew afterwards. -/
def State.fetchTrap (s : State) (pid : Nat) (p : Ply) (sub : Nat) (line : Option Nat) : State :=
  let t := s.takeTrap pid (Trap.plain 0x100 sub p.active)
  match line with
  | some k => { t with ic := t.ic.del k }
  | none => t

/-- A ply is chosen: it issues what it fetched. -/
def State.select (s : State) (pid : Nat) : State := { s with sel := some pid, stall := false }
/-- No ply is issuing. -/
def State.deselect (s : State) : State := { s with sel := none, stall := false }

/-- A ply sleeps after a SLEEP that has retired (R126). -/
def Ply.asleep (p : Ply) : Bool := match p.wait with
  | some (.sleep _) => true
  | _ => false

/-- ONE ISSUE ATTEMPT of a ply. `State.stall` of the result says that it did not issue. A divergence entry that is due comes back from
memory first (R94). -/
def tryPly (run : Instr → State → Out) (pid : Nat) (s : State) : Out :=
  match s.ply? pid with
  | none => .next { s with stall := true }
  | some p =>
    if p.asleep then .next { s with stall := true }
    else match p.entNext with
    | some i => .next (s.deselect.entBack pid p i)
    | none => match s.nextInstr pid p with
      | .miss => .next { s with stall := true }
      | .illop sub line => .next (s.deselect.fetchTrap pid p sub line)
      | .run i => run i (s.select pid)

/-- The plies of a list attempt in turn until one issues: which, and the outcome. A ply makes an issue attempt, and so a switch event of R92, in every
slot in which none before it in R87's order issues; the plies after the one that issues make none (DESIGN CHOICE, log entry 144). -/
def tryPlies (run : Instr → State → Out) : List Nat → State → Option Nat × Out
  | [], s => (none, .next s)
  | pid :: rest, s => match tryPly run pid s with
    | .next t => if t.stall then tryPlies run rest t.deselect else (some pid, .next t.deselect)
    | o => (some pid, o)

/-- A ply could issue now (R86). -/
def canIssue (run : Instr → State → Out) (s : State) (pid : Nat) : Bool := match tryPly run pid s with
  | .next t => !t.stall
  | _ => true

/-- The plies of a partition that take part in a slot: not stopped, and not drawn in this clock (R98, R310). -/
def State.pliesOf (s : State) (part : Nat) : Tbl Ply :=
  (s.plies.range (part * 32) (part * 32 + 32)).filter fun e => !e.2.stopped && e.2.drawnAt != some s.clock

/-- A join window holds a ply no longer (R39): its slots have passed, S has reached 256, or every other ply of its skein on the
partition stands at its PC or is not ready. -/
def State.released (run : Instr → State → Out) (s : State) (part pid : Nat) (p : Ply) : Bool :=
  p.hold == some 0 || 256 ≤ p.starve ||
    (s.pliesOf part).all fun e => e.1 == pid || e.2.skein != p.skein || s.plyPc e.2 == s.plyPc p || e.2.hold.isSome
      || !canIssue run s e.1

/-- A join window moves on for a ply (R39), as a state shows it: it is released, or it has become ready. -/
def State.joinStep (run : Instr → State → Out) (s : State) (part pid : Nat) (p : Ply) : Ply :=
  if p.hold.isNone then p
  else if s.released run part pid p then { p with hold := none }
  else if !p.ripe && canIssue run s pid then { p with ripe := true }
  else p

/-- What time has brought to the plies of a partition: sleeps end; then join windows open, all judged on one state, so that two held
plies release each other (R39, R126). -/
def State.wake (run : Instr → State → Out) (s : State) (part : Nat) : State :=
  let s := (s.pliesOf part).foldl (fun s e => match execSleepExpiry e.1 s with
    | .next t => t
    | _ => s) s
  let held := (s.pliesOf part).filter fun e => e.2.hold.isSome
  held.foldl (fun t e => t.setPly e.1 (s.joinStep run part e.1 e.2)) s

/-- The order in which the plies of a partition are considered (R87): those that starve; those with no pending yield; the others;
each by age, then slot. -/
def State.order (s : State) (part : Nat) : List Nat :=
  let ps := (s.pliesOf part).filter fun e => e.2.hold.isNone
  let byAge (ok : Ply → Bool) : List Nat := (sortBy (fun e => e.2.age * 32 + plySlot e.1) (ps.filter fun e => ok e.2)).map Prod.fst
  byAge (fun p => 256 ≤ p.starve) ++ byAge (fun p => p.starve < 256 && !p.yld) ++ byAge (fun p => p.starve < 256 && p.yld)

/-- The skeins with a bobbin on a partition none of whose plies there is ready (R98); a ply drawn in this clock may issue from the next. -/
def State.idleSkeins (run : Instr → State → Out) (s : State) (part : Nat) : List Nat :=
  (((s.part part).bobbins.map fun b => b.2.skein).eraseDups).filter fun k =>
    !(s.plies.range (part * 32) (part * 32 + 32)).any fun e => e.2.skein == k && !e.2.stopped &&
      (e.2.drawnAt == some s.clock || canIssue run s e.1)

/-- The slot is used. -/
def State.endSlot (s : State) (run : Instr → State → Out) (part : Nat) (who : Option Nat) : State :=
  let s := { s with issued := s.issued.set part who }
  if (s.part part).bobbins.isEmpty then s else s.updPart part fun x => { x with idle := s.idleSkeins run part }

/-- AN ISSUE SLOT of a partition (R87): one ply issues; the model never co-issues, which R89 allows and makes invisible in results (DESIGN
CHOICE, log entry 121). -/
def issueSlot (run : Instr → State → Out) (part : Nat) (s : State) : Out :=
  if !s.mayIssue part then .next s
  else
    let s := s.wake run part
    match tryPlies run (s.order part) s with
    | (who, .next t) => .next (t.endSlot run part who)
    | (_, o) => o

/-! ## The clock (R14, R87) -/

/-- A ply at the end of a clock: one that had an issue slot and did not issue grows older; a sleep and a ripe join window run. -/
def tickPly (slot mine : Bool) (p : Ply) : Ply :=
  if !slot then p
  else { p with
    starve := if mine then p.starve else p.starve + 1
    hold := match p.hold with
      | some (n + 1) => if p.ripe && !mine then some n else some (n + 1)
      | h => h
    wait := match p.wait with
      | some (.sleep (n + 1)) => if mine then some (.sleep (n + 1)) else some (.sleep n)
      | w => w }

/-- Contexts whose skeins have all ended, and whose last writes could not be accepted before, end where they now can (R295). -/
def State.doneAll (s : State) : State := s.ctxs.foldl (fun s e => s.tryDone e.1) s

/-- THE CORE CLOCK ticks (R14); the slots of plies that ended in it are free (R85). -/
def State.tick (s : State) : State :=
  let ply (pid : Nat) (p : Ply) : Ply :=
    tickPly (!s.throttled.contains (plyCore pid) && s.dieRuns (coreDie (plyCore pid)) && !p.stopped)
      (s.issued.get (plyPartKey pid) == some (some pid)) p
  { s with clock := s.clock + 1, issued := [], gone := [], plies := s.plies.mapVals ply }.watchAcc.doneAll

/-- The partitions that still have an issue slot in this clock, lowest first. -/
def State.duePart (s : State) : Option Nat :=
  ((s.plies.map fun e => plyPartKey e.1).eraseDups).find? s.mayIssue

end Sys2Proof.Machine
end

