-- ==== Sys2Proof/Machine/Auto.lean ====
section
/-! DEFINITION. What moves next when the agenda is empty: one round of the steps that the package's own units have pending, and then the
clock. The spec orders the units' steps only where their rules say so; the agenda may name any other order. -/

namespace Sys2Proof.Machine

/-- The keys of a table. -/
def keysOf {α : Type} (t : Tbl α) : List Nat := t.map Prod.fst

/-- The page of a part that waits for a walk. -/
def MPart.page? (q : MPart) : Option Nat := match q.place, q.st with
  | .global va, .wait => some (va / 65536)
  | _, _ => none

/-- The steps of a request of the load-store unit (R181, R183, R186, R329). -/
def State.reqSteps (s : State) (op : Nat) (r : MReq) : List Instr :=
  let asid := s.slotAsid r.slot
  let walks (k : AccKind) : List Instr := ((r.parts.filterMap MPart.page?).eraseDups).map fun p => .walkComplete asid p k
  let lanes : List Instr := ((r.parts.map MPart.lane).eraseDups).map fun l => .loadDataArrival op l
  let locs : List Instr := ((r.parts.map MPart.ga).eraseDups).map fun a => .atomicAtHome op a
  match r.kind with
  | .st => [.storeCompletion op]
  | .red => locs ++ [.storeCompletion op]
  | .atom => walks .write ++ locs ++ lanes
  | .ld => walks .read ++ lanes
  | .refill => walks .read ++ lanes
  | _ => lanes

/-- The steps of the load-store unit, of subscription, of acquires and of the buffers (R162 to R171, R206, R209). -/
def State.memSteps (s : State) : List Instr :=
  s.reqs.flatMap (fun e => s.reqSteps e.1 e.2) ++
  (s.l1.filter fun e => e.2.probe).map (fun e => .permissionProbeReply (e.1 / 2 ^ 55) (e.1 % 2 ^ 55)) ++
  s.segs.flatMap (fun e => e.2.msgs.map fun m => match m with
    | .update _ _ _ _ _ _ => .replicaUpdate e.1
    | .marker _ => .syncMarkerReturn e.1) ++
  s.segs.filterMap (fun e => match e.2.st with
    | .t _ => some (.segmentTransitEnd e.1)
    | _ => none) ++
  s.acqs.flatMap (fun e => match e.2.promo with
    | some cs => cs.map (fun c => .promotionRequest e.1 c) ++ [.promotionComplete e.1]
    | none => []) ++
  (keysOf s.wcb).map fun c => .wcAgeingDrain c

/-- The instruction lines that the resident plies lack (R86). -/
def State.lineSteps (s : State) : List Instr :=
  s.plies.flatMap fun e => match s.fetch e.1 e.2 with
    | .miss =>
      let pc := (s.plyPc e.2).toNat
      let k (a : Nat) : Instr := .instructionLineArrival (plyCore e.1) (s.slotAsid e.2.ctx * 2 ^ 42 + a / 64 % 2 ^ 42)
      [k pc, k (pc + 11)]
    | _ => []

/-- The steps of copies, barriers and probes (R243 to R251). -/
def State.copySteps (s : State) : List Instr :=
  ((s.tbq.filterMap fun u => tbKey (s.slotAsid u.slot) (s.tbFind u.slot u.ref)).eraseDups).map (fun k => .barrierUpdate k s.tbq.length) ++
  (keysOf s.probes).map (fun p => .copyProbeDone p) ++
  s.copies.flatMap fun e => [.copyDataLands e.1 e.2.total, .copyComplete e.1]

/-- The steps of the matrix engines (R260 to R276). -/
def State.matSteps (s : State) : List Instr :=
  ((s.accWait.map fun e => e.2.part).eraseDups).flatMap (fun p => [.tileGrant p, .accDeadlockTimeout p]) ++
  s.mats.flatMap (fun e => [.lentRegisterRead e.1, .matrixOpComplete e.1]) ++
  s.trigs.map fun t => .tileTrigger t.op

/-- The steps of the work engine (R98, R292, R301, R311, R315). -/
def State.workSteps (s : State) : List Instr :=
  (keysOf s.decks).flatMap (fun k => [.gateRetest (k / 64) (k % 64), .deckRequest (k / 64) (k % 64)]) ++
  (keysOf s.deckOps).map (fun op => .deckPayloadArrival op) ++
  (s.parts.filter fun e => !e.2.bobbins.isEmpty).map (fun e => .bobbinDraw e.1) ++
  s.ctxs.flatMap (fun e => match e.2.st with
    | .running => (pktCores e.2).map fun c => .skeinPlacement c
    | .saving => e.2.left.map fun c => .coreSaveEnd e.1 c
    | _ => []) ++
  s.saved.filterMap fun e => if (s.ctx e.2.skein.ctx).st = .restoring then some (.skeinRestore e.2.skein.ctx (e.1 % 2 ^ 18)) else none

/-- The steps of the collective and the receive engine (R369 to R378, R395 to R401). -/
def State.engSteps (s : State) : List Instr :=
  s.calls.flatMap (fun e => (List.range e.2.ops.length).flatMap (fun i => [.chunkOpStart e.1 i, .chunkOpComplete e.1 i])
    ++ (if s.colExpired e.1 then [.enginePacketTimeout e.1] else [])) ++
  (s.sends.filter fun e => e.2.ph == .wait || (e.2.ph == .lost && e.2.clock.isNone)).map (fun e => .messageHold e.1) ++
  (s.recvs.filter fun e => e.2.ph != .pull).map fun e => .payloadPull e.1 .failed

/-- The steps of the fabric and of the translation system (R341, R353, R360, R424). -/
def State.fabSteps (s : State) : List Instr :=
  (s.fabOut ++ s.flowHeld).map (fun p => .packetForward p) ++
  ((s.remote.filter fun e => !e.2.host && expired e.2.clock s.tout s.clock).map fun e => .fabricTimeout e.1) ++
  ((keysOf s.sends).map fun n => .fabricTimeout n) ++
  (if s.shoot.isEmpty then [] else [.shootdownExecute]) ++
  (if s.ck.run.isSome then [.checkpointEnd] else [])

/-- The port of a number. -/
def dpOf (k : Nat) : DiePort := match k % 3 with
  | 0 => .a (k / 3)
  | 1 => .b0 (k / 3)
  | _ => .b1 (k / 3)

/-- The row of a message by its OP (R430). -/
def dlRow (port : DiePort) (m : DlMsg) : Option Instr := match dlOp m with
  | 0x01 => some (.rd port m)
  | 0x02 => some (.wr port m)
  | 0x03 => some (.dlAtom port m)
  | 0x04 => some (.probew port m)
  | 0x05 => some (if dlArg m % 2 = 0 then .sprd port m else .spwr port m)
  | 0x06 => some (.tbupd port m)
  | 0x10 => some (.promo port m)
  | 0x11 => some (.shoot port m)
  | 0x80 => some (.ack port m)
  | 0x81 => some (.nack port m)
  | 0x82 => some (.pack port m)
  | 0x83 => some (.sack port m)
  | 0xC0 => some (.rdata port m)
  | 0xE0 => some (.mfail port m)
  | _ => none

/-- The messages between the package's two Reust dies that arrive, and those that ports have received (R426, R430). -/
def State.linkSteps (s : State) : List Instr :=
  s.dlOut.filterMap (fun x => dlRow (dpOf (dpFar x.1)) x.2) ++
  s.dl.flatMap (fun e => e.2.inbox.filterMap fun m => dlRow (dpOf e.1) m) ++
  ((s.dlReqs.filter fun e => e.2.waits).map fun e => .dieLinkReqTimeout e.1)

/-- The ports towards other than the package's Reust dies that have a flit to send (R428). -/
def State.flitPorts (s : State) : List Nat :=
  (s.dl.filter fun e => (e.1 % 3 == 0 || 2 ≤ e.2.role) && (s.dlOut.any (fun x => x.1 == e.1) || e.2.nak || e.2.back.any (· != 0))).map Prod.fst

/-- One round: every unit's pending steps in turn, then the clock. -/
def State.auto (s : State) : List Choice :=
  (if s.mgmt.image.isNone then [] else [Choice.boot]) ++ (if s.posted.isEmpty then [] else [Choice.post]) ++ (s.lineSteps ++ s.memSteps ++ s.copySteps ++ s.matSteps ++ s.workSteps ++ s.engSteps ++ s.fabSteps ++ s.linkSteps).map Choice.event
    ++ s.flitPorts.map Choice.flit ++ [.clock]

end Sys2Proof.Machine
end

