-- ==== Sys2Proof/Machine/Bus.lean ====
section
/-! DEFINITION. Registers by BAR and offset (R439, R443, R451): where each lies, what a read at an offset returns, and what a write there does. The
places that the spec gives only as a window's base are the model's (DESIGN CHOICE, log entry 160). -/

namespace Sys2Proof.Machine

/-! ## Where registers lie (R288, R303, R415, R421, R439, R443, R451) -/

/-- A register at an offset: which, its first offset and its bytes. -/
structure RegAt where
  reg  : ReadReg
  base : Nat
  n    : Nat
  deriving DecidableEq, Repr

/-- One register of a row of registers of equal size from a base. -/
def regRow (off base n count : Nat) (reg : Nat → ReadReg) : Option RegAt :=
  let i := (off - base) / n
  if base ≤ off && i < count then some ⟨reg i, base + n * i, n⟩ else none

/-- A register of a slot's launch window or management block (R287, R288, R415, R421). -/
def slotReg (off : Nat) : Option RegAt :=
  if off < 0x4000 then some ⟨.launch (off / 64), off / 64 * 64, 64⟩
  else
    let b := off / 64 * 64
    let k := (b - 0x4000) / 64
    match off - b with
    | 0x00 | 0x01 | 0x02 | 0x03 => some ⟨.ctxstat k, b, 4⟩
    | 0x04 | 0x05 | 0x06 | 0x07 => some ⟨.ctxcmd k, b + 4, 4⟩
    | i =>
      if i < 0x10 then some ⟨.ctxsave k, b + 8, 8⟩
      else if i < 0x18 then some ⟨.ctxsz k, b + 0x10, 8⟩
      else if i < 0x1C then some ⟨.intcfg k, b + 0x18, 4⟩
      else if 0x20 ≤ i && i < 0x28 then some ⟨.telbase k, b + 0x20, 8⟩
      else none

/-- The rows of registers of the management window: first offset, bytes of each, how many, which (R443, R451). -/
def windowRows : List (Nat × Nat × Nat × (Nat → ReadReg)) :=
  [(0, 4, 1, fun _ => .fwctl),
   (0x1000, 4, 1, fun _ => .devidx),
   (0x2000, 8, 1, fun _ => .apbase),
   (0x2008, 4, 1, fun _ => .apasid),
   (0x2010, 4, 1, fun _ => .aperr),
   (0x10000, 8, 1, fun _ => .asidTable),
   (0x10008, 8, 1, fun _ => .podMap),
   (0x10010, 8, 1, fun _ => .frameOwners),
   (0x20000, 8, 49152, fun i => .quota (i / 192) (i % 192)),
   (0x80000, 16, 2, fun d => .faultQueue d),
   (0x81000, 8, 128, fun k => .resolve k),
   (0xA0000, 32, 1, fun _ => .shootdown),
   (0xB0000, 4, 1, fun _ => .fabcfg),
   (0xB0100, 8, 24, fun p => .portStatus p),
   (0xB0400, 8, 128, fun c => .route c),
   (0xB0800, 8, 256, fun i => .detour (i / 16) (i % 16)),
   (0xB1000, 8, 256, fun i => .mcastGroup i),
   (0xB1800, 8, 16, fun i => .port23 i),
   (0xB1880, 8, 1, fun _ => .port23Ctx),
   (0xC0000, 8, 1, fun _ => .ckctl),
   (0xC0100, 8, 32, fun i => .ckTarget (i / 2) (i % 2 == 1)),
   (0xD0000, 8, 6, fun k => .topo k),
   (0xE0000, 8, 1, fun _ => .pwrctl),
   (0xE0008, 8, 1, fun _ => .coreFreq)]

/-- A register of the management window by its offset there. -/
def windowReg (off : Nat) : Option RegAt := windowRows.findSome? fun r => regRow off r.1 r.2.1 r.2.2.1 r.2.2.2

/-- The register at an offset of a BAR (R439); none where none is listed. BAR4 holds no registers. -/
def regAt (at' : BusAt) (off : Nat) : Option RegAt := match at' with
  | .bar0 =>
    if off < 0x8000 then slotReg off
    else if off < 0x1000000 then (regRow off 0x8000 16 264 fun i => .msix i).or (regRow off 0x9800 8 5 fun i => .pba i)
    else if off < 0x2000000 then (windowReg (off - 0x1000000)).map fun r => { r with base := r.base + 0x1000000 }
    else none
  | .bar2 =>
    let page := off / 4096
    if 2 ^ 26 ≤ off then none
    else match off % 4096 with
      | i =>
        if i < 0x40 then some ⟨.deck (page / 64) (page % 64) 0, page * 4096, 64⟩
        else if i < 0x44 then some ⟨.deck (page / 64) (page % 64) 0x40, page * 4096 + 0x40, 4⟩
        else if 0x48 ≤ i && i < 0x4C then some ⟨.deck (page / 64) (page % 64) 0x48, page * 4096 + 0x48, 4⟩
        else none
  | .bar4 => none
  | .window => windowReg off

/-! ## Reads -/

/-- A register as the host, or the management processor, reads it; none where nothing answers. -/
def State.busReads (s : State) (at' : BusAt) (r : ReadReg) : Option Nat := match at' with
  | .window => some (s.regRead r)
  | _ => s.hostReads r

/-- What a read of a register also does: APERR and DROPS and the replay count clear, and the oldest fault record is taken with it (R303, R331, R348,
R451). -/
def State.readTakes (s : State) : ReadReg → State
  | .aperr => { s with mgmt := { s.mgmt with aperr := 0 } }
  | .deck k d 0x48 => { s with decks := s.decks.upd (deckKey k d) fun x => if x.hostw then { x with drops := 0 } else x }
  | .portStatus k => if k < 24 then s.updPort k fun p => { p with replay := 0 } else s
  | .faultQueue d => match s.faultQ.find? fun x => x.1 == d with
    | some x => { s with faultQ := s.faultQ.erase x }
    | none => s
  | _ => s

/-- The registers that a read touches, each once. -/
def busRegs (at' : BusAt) (off n : Nat) : List RegAt := ((List.range n).filterMap fun i => regAt at' (off + i)).eraseDups

/-- A READ AT AN OFFSET (R439, R443): byte by byte; what is not listed reads 0. None where nothing answers (R447). -/
def State.busRead (s : State) (at' : BusAt) (off n : Nat) : Option (List Byte × State) :=
  let rs := busRegs at' off n
  if (s.mgmt.stage = 7 && at' != .window && rs.isEmpty) || rs.any fun r => (s.busReads at' r.reg).isNone then none
  else
    let byte (a : Nat) : Byte := match regAt at' a with
      | some r => BitVec.ofNat 8 (((s.busReads at' r.reg).getD 0) >>> (8 * (a - r.base)))
      | none => 0
    let open' (r : RegAt) : Bool := at' == .window || !r.reg.inWindow || s.mgmt.hostmw
    some ((List.range n).map fun i => byte (off + i), (rs.filter open').foldl (fun s r => s.readTakes r.reg) s)

/-! ## Writes -/

/-- A WRITE OF A WHOLE REGISTER, as its row performs it (R288, R303, R333, R340, R439, R443); a register that takes no write is as it was. -/
def State.busStore (s : State) (r : ReadReg) (bytes : List Byte) : Out :=
  let v : DWord := BitVec.ofNat 64 (leNat bytes)
  match r with
  | .launch k => execLaunchPacketWrite k bytes s
  | .ctxstat k => execRegisterWrite (.ctxstat k) v s
  | .ctxcmd k => match fld v.toNat 2 0 with
    | 1 => execPreempt k s
    | 2 => execRestore k s
    | 3 => execStop k s
    | 4 => execRelease k s
    | _ => .next s
  | .ctxsave k => execRegisterWrite (.ctxsave k) v s
  | .ctxsz _ => .next s
  | .intcfg k => execIntcfgWrite k (BitVec.ofNat 32 v.toNat) s
  | .telbase k => execRegisterWrite (.telbase k) v s
  | .deck k d off => if off = 0 then execHostDeal k d bytes s else .next s
  | .quota k n => execQuotaWrite k n v s
  | .fwctl => execRegisterWrite .fwctl v s
  | .devidx => execRegisterWrite .devidx v s
  | .apbase => execRegisterWrite .apbase v s
  | .apasid => execRegisterWrite .apasid v s
  | .aperr => .next s
  | .asidTable => execRegisterWrite .asidTable v s
  | .podMap => execRegisterWrite .podMap v s
  | .frameOwners => execRegisterWrite .frameOwners v s
  | .fabcfg => execFabcfgWrite (BitVec.ofNat 32 v.toNat) s
  | .portStatus k => execRegisterWrite (.portStatus k) v s
  | .mcastGroup i => execRegisterWrite (.mcastGroup i) v s
  | .route c => execRegisterWrite (.route c) v s
  | .detour a b => execRegisterWrite (.detour a b) v s
  | .port23 i => execRegisterWrite (.port23 i) v s
  | .port23Ctx => execRegisterWrite .port23Ctx v s
  | .ckctl => execCheckpointGo v s
  | .ckTarget i hi => execRegisterWrite (.ckTarget i hi) v s
  | .topo _ => .next s
  | .pwrctl => execPwrctlWrite v s
  | .coreFreq => execRegisterWrite .coreFreq v s
  | .faultQueue _ => .next s
  | .resolve k =>
    if v.toNat / 2 ^ 18 ≠ 0 then .next s
    else match fld v.toNat 17 16 with
      | 1 => execResolveRetry k (fld v.toNat 15 0) s
      | 2 => execResolveFail k (fld v.toNat 15 0) s
      | _ => .next s
  | .shootdown => execShootdownRequest bytes s
  | .msix i => execRegisterWrite (.msixMask i) (BitVec.ofNat 64 (leNat (bytes.drop 12))) s
  | .pba _ => .next s

/-- A register takes a write that is not whole as such (R288, R303, R340): a launch packet and a host deal are then dropped and noted. -/
def ReadReg.takesPart : ReadReg → Bool
  | .launch _ => true
  | .deck _ _ 0 => true
  | _ => false

/-- The address and data of an MSI-X entry are kept as they are written (R439). -/
def State.msixKeep (s : State) (r : ReadReg) (bytes : List Byte) : State := match r with
  | .msix i => { s with mgmt := { s.mgmt with msixTab := s.mgmt.msixTab.set i (BitVec.ofNat 96 (leNat (bytes.take 12))) } }
  | _ => s

/-- A WRITE AT AN OFFSET (R439, R443): of a whole register; BAR4's at the aperture. What is not listed ignores it, and so does the management window
while firmware keeps it closed to the host. -/
def State.busWrite (s : State) (at' : BusAt) (off : Nat) (bytes : List Byte) : Out :=
  if at' = .bar4 then execApertureWrite off bytes s
  else match regAt at' off with
    | none => .next s
    | some r =>
      if at' ≠ .window && r.reg.inWindow && !s.mgmt.hostmw then .next s
      else if off = r.base && bytes.length = r.n then (s.msixKeep r.reg bytes).busStore r.reg bytes
      else if r.reg.takesPart then s.busStore r.reg (bytes.take 63)
      else .next s

/-- An access by offset: a read is answered, with a completion to the host; a write is performed. -/
def State.busTry (s : State) : BusAcc → Out
  | .read at' off n =>
    if at' = .bar4 then execApertureRead off n s
    else match s.busRead at' off n with
    | none => .next s
    | some (bs, t) => .next (if at' = .window then { t with mgmt := { t.mgmt with got := bs } } else t.pcie (.completion bs))
  | .write at' off bytes => s.busWrite at' off bytes
  | .mailbox => s.served (.next (s.msix 256))
  | .sense power temp => .next (s.updMgmt fun m => { m with pnow := min 65535 power, tj := min 255 temp })

end Sys2Proof.Machine
end

