-- ==== Sys2Proof/Machine/LaneOps.lean ====
section
/-! DEFINITION. Lane exchange (R151 to R155). -/

namespace Sys2Proof.Machine

/-- A of every executing lane: (lane, value), ascending; a pair for the 64-bit types where `wide`. -/
def laneVals (s : State) (e : Env) (wide : Bool) (f : Full) : List (Nat × Nat) :=
  e.lanes.map fun l => (l, opVal s e.pid e.p l wide .s32 0 f.a)

/-- The value a lane holds. -/
def valOf (vs : List (Nat × Nat)) (l : Nat) : Nat := ((vs.find? fun x => x.1 == l).map Prod.snd).getD 0

/-- Write one value per executing lane. -/
def putLanes (s : State) (e : Env) (n : Nat) (f : Full) (g : Nat → Nat) : State :=
  writeD s e f.d [] fun l => toWords n (g l)

/-- Write the same value to an s destination or to every executing lane (R154, R155). -/
def putSame (s : State) (e : Env) (n : Nat) (f : Full) (x : Nat) : State :=
  writeD s e f.d (toWords n x) fun _ => toWords n x

/-- The source lane of SHFL, where it is defined (R152). -/
def shflSource (mode w l d : Nat) : Option Nat :=
  let sb := l - l % w
  match mode with
  | 0 => some (sb + d % w)
  | 1 => if sb + d ≤ l then some (l - d) else none
  | 2 => if l + d < sb + w then some (l + d) else none
  | _ => if (l - sb) ^^^ d < w then some (sb + ((l - sb) ^^^ d)) else none

/-- SHFL's effect (R152): a source lane outside Exec gives the lane's own A. -/
def shflDo (f : Full) (e : Env) (s : State) : State :=
  let wide := ty64' f
  let vs := laneVals s e wide f
  let w := if mf f 6 0 = 0 then e.p.width else mf f 6 0
  putLanes s e (if wide then 2 else 1) f fun l =>
    let d := opVal s e.pid e.p l false (mTyD f) 0 f.b % 2 ^ 32
    match shflSource (mf f 26 24) w l d with
    | some j => if e.exec.getLsbD j then valOf vs j else valOf vs l
    | none => valOf vs l

/-- A segment width above the ply width is refused before the register checks (R101, R152). -/
def shflEarly (f : Full) : Env → State → Pre := refuseIf fun e _ => e.p.width < mf f 6 0

/-- SHFL (R152). -/
def execShfl (f : Full) (s : State) : Out :=
  issue (fullSpec s (formShfl f) none true f) (shflEarly f) (always (shflDo f)) s

/-- The lane whose A BCST reads (R153); B is uniform. -/
def bcstLane (s : State) (pid : Nat) (p : Ply) (f : Full) : Nat :=
  opVal s pid p 0 false (mTyD f) (immVal false false (mTyD f) f) f.b % 2 ^ 32 % p.width

/-- The registers of A in that lane, where it is live and B is FULL: checked before B (R32, R153). Where one stops the instruction every
executing lane traps (DESIGN CHOICE, log entry 145). -/
def bcstOwn (s : State) (pid : Nat) (p : Ply) (f : Full) : List (Reg × Bool) :=
  if regsFull s p p.active [⟨f.b, 1, false⟩] then
    (rangeRegs s p (1#64 <<< bcstLane s pid p f) ⟨f.a, if ty64' f then 2 else 1, f.wa⟩).map fun x => (x.2, f.wa)
  else []

/-- BCST's data for the pipeline. -/
def bcstSpec (s : State) (f : Full) : Spec :=
  { fullSpec s (formBcst f) none true f with own := match s.sel with
      | some pid => match s.ply? pid with
        | some p => bcstOwn s pid p f
        | none => []
      | none => [] }

/-- BCST's effect (R153): A of lane j in every executing lane, 0 where j is not live. -/
def bcstDo (f : Full) (e : Env) (s : State) : State :=
  let wide := ty64' f
  let j := bcstLane s e.pid e.p f
  putLanes s e (if wide then 2 else 1) f fun _ => if (e.p.tidAt j).isSome then opVal s e.pid e.p j wide .s32 0 f.a else 0

/-- BCST (R153). -/
def execBcst (f : Full) (s : State) : Out := issue (bcstSpec s f) noEarly (always (bcstDo f)) s

/-- BALLOT (R154). -/
def ballotDo (f : Full) (e : Env) (s : State) : State :=
  putSame s e 2 f (maskOf ((laneVals s e false f).filterMap fun x => if bit x.2 0 then some x.1 else none)).toNat
/-- BALLOT (R154). -/
def execBallot (f : Full) (s : State) : Out := issueFull (formBallot f) none (always (ballotDo f)) f s

/-- VOTE's result (R154). -/
def voteVal (mode : Nat) (vs : List Nat) : Bool :=
  match mode with
  | 0 => vs.all fun x => bit x 0
  | 1 => vs.any fun x => bit x 0
  | _ => match vs with
    | [] => true
    | x :: xs => xs.all fun y => y == x
/-- VOTE (R154). -/
def voteDo (f : Full) (e : Env) (s : State) : State :=
  putSame s e 1 f (b2n (voteVal (mf f 26 24) ((laneVals s e (ty64' f) f).map Prod.snd)))
/-- VOTE (R154). -/
def execVote (f : Full) (s : State) : Out := issueFull (formVote f) none (always (voteDo f)) f s

/-- MATCH's effect (R154). -/
def matchDo (f : Full) (e : Env) (s : State) : State :=
  let vs := laneVals s e (ty64' f) f
  putLanes s e 2 f fun l =>
    (maskOf (vs.filterMap fun x => if x.2 == valOf vs l then some x.1 else none)).toNat
/-- MATCH (R154). -/
def execMatchLanes (f : Full) (s : State) : Out := issueFull (formMatch f) none (always (matchDo f)) f s

/-- ACTMASK (R154). -/
def execActmask (f : Full) (s : State) : Out :=
  issueFull (formActmask f) none (always fun e s => putSame s e 2 f e.exec.toNat) f s

/-! ## REDUX and SCAN (R155) -/

/-- One combination of REDUX and SCAN. -/
def redStep (ty : Ty) (mode a b : Nat) : Nat × Flags :=
  match mode with
  | 0 => if ty = .f32 then faddVal .f32 rmSatDefault 0 a b else (wrapNat (tyBits ty) (extInt ty a + extInt ty b), 0)
  | 1 => (if ty = .f32 then fmnmx .f32 false a b else if extInt ty b < extInt ty a then b else a, 0)
  | 2 => (if ty = .f32 then fmnmx .f32 true a b else if extInt ty a < extInt ty b then b else a, 0)
  | 3 => (a &&& b, 0)
  | 4 => (a ||| b, 0)
  | _ => (a ^^^ b, 0)

/-- The identity of an operation (R155). -/
def redIdentity (ty : Ty) (mode : Nat) : Nat :=
  let w := tyBits ty
  match mode with
  | 1 => if ty = .f32 then 0x7F800000 else if tySigned ty then 2 ^ (w - 1) - 1 else 2 ^ w - 1
  | 2 => if ty = .f32 then 0xFF800000 else if tySigned ty then 2 ^ (w - 1) else 0
  | 3 => 2 ^ w - 1
  | _ => 0

/-- A partial of the tree: none where no lane of Exec lies in it. -/
abbrev Partial := Option (Nat × Flags)

/-- One level of the binary tree over lane positions (R155). -/
def treeLevel (ty : Ty) (mode : Nat) : List Partial → List Partial
  | [] => []
  | [x] => [x]
  | x :: y :: xs =>
    (match x, y with
     | none, z => z
     | z, none => z
     | some a, some b => let r := redStep ty mode a.1 b.1
       some (r.1, r.2 ||| a.2 ||| b.2)) :: treeLevel ty mode xs

/-- The whole tree: one level for each power of two up to the ply width. -/
def treeFold (ty : Ty) (mode : Nat) : Nat → List Partial → List Partial
  | 0, xs => xs
  | k + 1, xs => treeFold ty mode k (treeLevel ty mode xs)

/-- REDUX's effect: a binary tree over lane positions (R155). -/
def reduxDo (f : Full) (e : Env) (s : State) : State :=
  let ty := mTyD f
  let vs := laneVals s e (ty64' f) f
  let leaves : List Partial := (List.range e.p.width).map fun l => (vs.find? fun x => x.1 == l).map fun x => (x.2, 0)
  match treeFold ty (mf f 26 24) 6 leaves with
  | some r :: _ => (putSame s e (if ty64' f then 2 else 1) f r.1).raise e.pid r.2
  | _ => s
/-- REDUX (R155). -/
def execRedux (f : Full) (s : State) : Out := issueFull (formRedux f) none (always (reduxDo f)) f s

/-- Inclusive prefixes in ascending lane order: (lane, inclusive, exclusive, flags) (R155). The first executing lane has no earlier result, and its A
is its inclusive result as it stands (DESIGN CHOICE, log entry 146). -/
def scanList (ty : Ty) (mode : Nat) : Option Nat → List (Nat × Nat) → List (Nat × Nat × Nat × Flags)
  | _, [] => []
  | none, (l, x) :: xs => (l, x, redIdentity ty mode, 0) :: scanList ty mode (some x) xs
  | some acc, (l, x) :: xs =>
    let r := redStep ty mode acc x
    (l, r.1, acc, r.2) :: scanList ty mode (some r.1) xs

/-- SCAN's effect (R155). -/
def scanDo (f : Full) (e : Env) (s : State) : State :=
  let ty := mTyD f
  let rs := scanList ty (mf f 26 24) none (laneVals s e (ty64' f) f)
  let pick (l : Nat) : Nat := match rs.find? fun x => x.1 == l with
    | some x => if mEx f then x.2.2.1 else x.2.1
    | none => 0
  (putLanes s e (if ty64' f then 2 else 1) f pick).raise e.pid (orAll (rs.map fun x => x.2.2.2))
/-- SCAN (R155). -/
def execScan (f : Full) (s : State) : Out := issueFull (formScan f) none (always (scanDo f)) f s

end Sys2Proof.Machine
end

