-- ==== Sys2Proof/Machine/PairOps.lean ====
section
/-! DEFINITION. The pair form (R37, R38, R57, R58): a scalar and a vector half executed as one instruction. -/

namespace Sys2Proof.Machine

/-- The result of a scalar half on its operands, with the defaults of R38; 64 bits for the wide rows (R57). -/
def sopVal (o : SOp) (a b : Nat) : Nat × Flags :=
  match o with
  | .nop => (0, 0)
  | .iadd => (intBin (· + ·) .s32 false a b, 0)
  | .iaddI => (intBin (· + ·) .s32 false a b, 0)
  | .isub => (intBin (· - ·) .s32 false a b, 0)
  | .isubI => (intBin (· - ·) .s32 false a b, 0)
  | .imul => (intBin (· * ·) .s32 false a b, 0)
  | .imin => (intBin min .s32 false a b, 0)
  | .imax => (intBin max .s32 false a b, 0)
  | .and => (a &&& b, 0)
  | .or => (a ||| b, 0)
  | .xor => (a ^^^ b, 0)
  | .andn => (a &&& (0xFFFFFFFF - b % 2 ^ 32), 0)
  | .shlI => (shlVal 32 a b, 0)
  | .shrI => (shrVal 32 a b, 0)
  | .sarI => (sarVal a b, 0)
  | .shl => (shlVal 32 a b, 0)
  | .shr => (shrVal 32 a b, 0)
  | .mov => (a, 0)
  | .moviI => (b, 0)
  | .icmpEq => (icmpNat .eq .s32 a b, 0)
  | .icmpNe => (icmpNat .ne .s32 a b, 0)
  | .icmpLt => (icmpNat .lt .s32 a b, 0)
  | .icmpLe => (icmpNat .le .s32 a b, 0)
  | .popc => (popN 32 a, 0)
  | .clz => (clzN 32 a, 0)
  | .iaddw => (intBin (· + ·) .s64 false a b, 0)
  | .iaddwI => (intBin (· + ·) .s64 false a b, 0)
  | .shlwI => (shlVal 64 a b, 0)
  | .fadd => faddVal .f32 rmSatDefault 0 a b
  | .fmul => fmulVal .f32 rmSatDefault 0 a b
  | .fmin => (fmnmx .f32 false a b, 0)
  | .fmax => (fmnmx .f32 true a b, 0)

/-- The result of a vector half (R58). -/
def vopVal (o : VOp) (a b d : Nat) : Nat × Flags :=
  match o with
  | .nop => (0, 0)
  | .fadd => faddVal .f32 rmSatDefault 0 a b
  | .fmul => fmulVal .f32 rmSatDefault 0 a b
  | .ffma => ffmaVal .f32 rmSatDefault 0 a b d
  | .fmin => (fmnmx .f32 false a b, 0)
  | .fmax => (fmnmx .f32 true a b, 0)
  | .iadd => (intBin (· + ·) .s32 false a b, 0)
  | .isub => (intBin (· - ·) .s32 false a b, 0)
  | .imul => (intBin (· * ·) .s32 false a b, 0)
  | .imad => (imadVal .s32 false a b d, 0)
  | .imin => (intBin min .s32 false a b, 0)
  | .imax => (intBin max .s32 false a b, 0)
  | .and => (a &&& b, 0)
  | .or => (a ||| b, 0)
  | .xor => (a ^^^ b, 0)
  | .andn => (a &&& (0xFFFFFFFF - b % 2 ^ 32), 0)
  | .shl => (shlVal 32 a b, 0)
  | .shr => (shrVal 32 a b, 0)
  | .sar => (sarVal a b, 0)
  | .mov => (a, 0)
  | .fcmpLt => (fcmpNat .lt a b, 0)
  | .fcmpLe => (fcmpNat .le a b, 0)
  | .fcmpEq => (fcmpNat .eq a b, 0)
  | .icmpLt => (icmpNat .lt .s32 a b, 0)
  | .icmpEq => (icmpNat .eq .s32 a b, 0)
  | .cvtF32S32 => cvtVal .f32 .s32 rmSatDefault 0 a
  | .cvtS32F32 => cvtVal .s32 .f32 rmSatDefault 0 a
  | .frcp => frootVal frcpVal rmSatDefault a
  | .frsq => frootVal frsqVal rmSatDefault a
  | .fex2 => fex2 false a
  | .popc => (popN 32 a, 0)
  | .iabs => (iabsVal .s32 false a, 0)

/-- The guard of the G field (R37): 0 always; otherwise v1 to v15, inverted by bit 4. -/
def pairGuard (p : Pair) : Guard :=
  if p.g = 0 then ⟨false, false, 0⟩ else ⟨true, p.g.getLsbD 4, p.g.toNat % 16⟩

/-- A scalar half's operand: an s register (R37), or a pair of them. -/
def pairS (s : State) (p : Ply) (wide : Bool) (c : BitVec 6) : Nat :=
  let n := c.toNat + 32
  (s.sReg p n).val.toNat + if wide then (s.sReg p (n + 1)).val.toNat * 2 ^ 32 else 0

/-- The scalar half's result. -/
def pairScalar (q : Pair) (e : Env) (s : State) : Nat × Flags :=
  let w := sopWide q.sop
  let imm := (sopUse q.sop).2.2
  sopVal q.sop (pairS s e.p w q.sa) (if imm then q.sb.toNat else pairS s e.p (w && !imm) q.sb)

/-- The vector half's result in a lane. -/
def pairVector (q : Pair) (e : Env) (s : State) (l : Nat) : Nat × Flags :=
  vopVal q.vop (vWord s e.p l q.va.toNat) (vWord s e.p l q.vb.toNat) (vWord s e.p l q.vd.toNat)

/-- The effect of a pair: both halves read before either writes (R38). -/
def pairDo (q : Pair) (e : Env) (s : State) : State :=
  let x := pairScalar q e s
  let ys := e.lanes.map fun l => (l, pairVector q e s l)
  let w (l : Nat) : List Word := match ys.find? fun y => y.1 == l with
    | some y => [BitVec.ofNat 32 y.2.1]
    | none => []
  let s1 := if q.sop = .nop then s else s.writeS e.pid (q.sd.toNat + 32) (toWords (if sopWide q.sop then 2 else 1) x.1)
  let s2 := if q.vop = .nop then s1 else writeD s1 e (.v q.vd.toNat) [] w
  s2.raise e.pid (x.2 ||| orAll (if q.vop = .nop then [] else ys.map fun y => y.2.2))

/-- The pipeline data of a pair. -/
def pairSpec (s : State) (q : Pair) : Spec :=
  { causes := pairCauses (selAlloc s).1 q, guard := pairGuard q, reads := pairReads q, writes := pairWrites q, cls := none,
    size := 8, seq := true, yld := q.yld, jw := 0 }

/-- PAIR (R38). -/
def execPair (q : Pair) (s : State) : Out := issue (pairSpec s q) noEarly (always (pairDo q)) s

end Sys2Proof.Machine
end

