-- ==== Sys2Proof/Machine/Dispatch.lean ====
section
/-! DEFINITION. One arm for every instruction and step: a direct call of its meaning. -/

namespace Sys2Proof.Machine

/-- What an instruction or a step of an engine does. -/
def exec (i : Instr) (s : State) : Host.Outcome State Fault Refusal :=
  match i with
  | .nop f => Sys2Proof.Machine.execNop f s
  | .bra f => Sys2Proof.Machine.execBra f s
  | .jmp f => Sys2Proof.Machine.execJmp f s
  | .jmpr f => Sys2Proof.Machine.execJmpr f s
  | .call f => Sys2Proof.Machine.execCall f s
  | .calli f => Sys2Proof.Machine.execCalli f s
  | .ret f => Sys2Proof.Machine.execRet f s
  | .reform f => Sys2Proof.Machine.execReform f s
  | .exit f => Sys2Proof.Machine.execExit f s
  | .bar f => Sys2Proof.Machine.execBar f s
  | .bararr f => Sys2Proof.Machine.execBararr f s
  | .barwt f => Sys2Proof.Machine.execBarwt f s
  | .waitc f => Sys2Proof.Machine.execWaitc f s
  | .yield f => Sys2Proof.Machine.execYield f s
  | .sleep f => Sys2Proof.Machine.execSleep f s
  | .sleepExpiry ply => Sys2Proof.Machine.execSleepExpiry ply s
  | .joinWindowExpiry ply => Sys2Proof.Machine.execJoinWindowExpiry ply s
  | .starvationLimit ply => Sys2Proof.Machine.execStarvationLimit ply s
  | .trap f => Sys2Proof.Machine.execTrap f s
  | .bkpt f => Sys2Proof.Machine.execBkpt f s
  | .eret f => Sys2Proof.Machine.execEret f s
  | .csrr f => Sys2Proof.Machine.execCsrr f s
  | .csrw f => Sys2Proof.Machine.execCsrw f s
  | .pair p => Sys2Proof.Machine.execPair p s
  | .iadd f => Sys2Proof.Machine.execIadd f s
  | .isub f => Sys2Proof.Machine.execIsub f s
  | .iaddw f => Sys2Proof.Machine.execIaddw f s
  | .isubw f => Sys2Proof.Machine.execIsubw f s
  | .imul f => Sys2Proof.Machine.execImul f s
  | .imulh f => Sys2Proof.Machine.execImulh f s
  | .imad f => Sys2Proof.Machine.execImad f s
  | .imadw f => Sys2Proof.Machine.execImadw f s
  | .imin f => Sys2Proof.Machine.execImin f s
  | .imax f => Sys2Proof.Machine.execImax f s
  | .iabs f => Sys2Proof.Machine.execIabs f s
  | .icmp f => Sys2Proof.Machine.execIcmp f s
  | .icmpw f => Sys2Proof.Machine.execIcmpw f s
  | .sel f => Sys2Proof.Machine.execSel f s
  | .and f => Sys2Proof.Machine.execAnd f s
  | .or f => Sys2Proof.Machine.execOr f s
  | .xor f => Sys2Proof.Machine.execXor f s
  | .andn f => Sys2Proof.Machine.execAndn f s
  | .shl f => Sys2Proof.Machine.execShl f s
  | .shr f => Sys2Proof.Machine.execShr f s
  | .sar f => Sys2Proof.Machine.execSar f s
  | .shlw f => Sys2Proof.Machine.execShlw f s
  | .shrw f => Sys2Proof.Machine.execShrw f s
  | .rotl f => Sys2Proof.Machine.execRotl f s
  | .popc f => Sys2Proof.Machine.execPopc f s
  | .clz f => Sys2Proof.Machine.execClz f s
  | .brev f => Sys2Proof.Machine.execBrev f s
  | .bfx f => Sys2Proof.Machine.execBfx f s
  | .bfi f => Sys2Proof.Machine.execBfi f s
  | .bpick f => Sys2Proof.Machine.execBpick f s
  | .mov f => Sys2Proof.Machine.execMov f s
  | .movi f => Sys2Proof.Machine.execMovi f s
  | .lea f => Sys2Proof.Machine.execLea f s
  | .fadd f => Sys2Proof.Machine.execFadd f s
  | .fmul f => Sys2Proof.Machine.execFmul f s
  | .ffma f => Sys2Proof.Machine.execFfma f s
  | .fscale f => Sys2Proof.Machine.execFscale f s
  | .fmin f => Sys2Proof.Machine.execFmin f s
  | .fmax f => Sys2Proof.Machine.execFmax f s
  | .fcmp f => Sys2Proof.Machine.execFcmp f s
  | .fclass f => Sys2Proof.Machine.execFclass f s
  | .frnd f => Sys2Proof.Machine.execFrnd f s
  | .frcp f => Sys2Proof.Machine.execFrcp f s
  | .frsq f => Sys2Proof.Machine.execFrsq f s
  | .fsqrt f => Sys2Proof.Machine.execFsqrt f s
  | .fex2 f => Sys2Proof.Machine.execFex2 f s
  | .flg2 f => Sys2Proof.Machine.execFlg2 f s
  | .fsin f => Sys2Proof.Machine.execFsin f s
  | .fcos f => Sys2Proof.Machine.execFcos f s
  | .ftanh f => Sys2Proof.Machine.execFtanh f s
  | .hadd2 f => Sys2Proof.Machine.execHadd2 f s
  | .hmul2 f => Sys2Proof.Machine.execHmul2 f s
  | .hfma2 f => Sys2Proof.Machine.execHfma2 f s
  | .hmnmx2 f => Sys2Proof.Machine.execHmnmx2 f s
  | .cvt f => Sys2Proof.Machine.execCvt f s
  | .cvts f => Sys2Proof.Machine.execCvts f s
  | .pack4 f => Sys2Proof.Machine.execPack4 f s
  | .unpk4 f => Sys2Proof.Machine.execUnpk4 f s
  | .pack8 f => Sys2Proof.Machine.execPack8 f s
  | .unpk8 f => Sys2Proof.Machine.execUnpk8 f s
  | .rng f => Sys2Proof.Machine.execRng f s
  | .shfl f => Sys2Proof.Machine.execShfl f s
  | .bcst f => Sys2Proof.Machine.execBcst f s
  | .ballot f => Sys2Proof.Machine.execBallot f s
  | .vote f => Sys2Proof.Machine.execVote f s
  | .matchLanes f => Sys2Proof.Machine.execMatchLanes f s
  | .actmask f => Sys2Proof.Machine.execActmask f s
  | .redux f => Sys2Proof.Machine.execRedux f s
  | .scan f => Sys2Proof.Machine.execScan f s
  | .ld f => Sys2Proof.Machine.execLd f s
  | .loadDataArrival op lane => Sys2Proof.Machine.execLoadDataArrival op lane s
  | .st f => Sys2Proof.Machine.execSt f s
  | .storeCompletion op => Sys2Proof.Machine.execStoreCompletion op s
  | .atom f => Sys2Proof.Machine.execAtom f s
  | .atomcas f => Sys2Proof.Machine.execAtomcas f s
  | .red f => Sys2Proof.Machine.execRed f s
  | .atomicAtHome op loc => Sys2Proof.Machine.execAtomicAtHome op loc s
  | .pref f => Sys2Proof.Machine.execPref f s
  | .spill f => Sys2Proof.Machine.execSpill f s
  | .fill f => Sys2Proof.Machine.execFill f s
  | .fence f => Sys2Proof.Machine.execFence f s
  | .subs f => Sys2Proof.Machine.execSubs f s
  | .unsubs f => Sys2Proof.Machine.execUnsubs f s
  | .segstat f => Sys2Proof.Machine.execSegstat f s
  | .replicaUpdate replica => Sys2Proof.Machine.execReplicaUpdate replica s
  | .syncMarkerReturn replica => Sys2Proof.Machine.execSyncMarkerReturn replica s
  | .permissionProbeReply core line => Sys2Proof.Machine.execPermissionProbeReply core line s
  | .promotionRequest op core => Sys2Proof.Machine.execPromotionRequest op core s
  | .promotionComplete op => Sys2Proof.Machine.execPromotionComplete op s
  | .wcAgeingDrain core => Sys2Proof.Machine.execWcAgeingDrain core s
  | .remoteAck req r => Sys2Proof.Machine.execRemoteAck req r s
  | .fabricTimeout req => Sys2Proof.Machine.execFabricTimeout req s
  | .cpy f => Sys2Proof.Machine.execCpy f s
  | .tcpy f => Sys2Proof.Machine.execTcpy f s
  | .tgath f => Sys2Proof.Machine.execTgath f s
  | .tscat f => Sys2Proof.Machine.execTscat f s
  | .cpyf f => Sys2Proof.Machine.execCpyf f s
  | .copyProbeDone op => Sys2Proof.Machine.execCopyProbeDone op s
  | .copyDataLands op sectors => Sys2Proof.Machine.execCopyDataLands op sectors s
  | .copyComplete op => Sys2Proof.Machine.execCopyComplete op s
  | .tidld f => Sys2Proof.Machine.execTidld f s
  | .tidinv f => Sys2Proof.Machine.execTidinv f s
  | .tbinit f => Sys2Proof.Machine.execTbinit f s
  | .tbexp f => Sys2Proof.Machine.execTbexp f s
  | .tbarr f => Sys2Proof.Machine.execTbarr f s
  | .tbwait f => Sys2Proof.Machine.execTbwait f s
  | .tbtest f => Sys2Proof.Machine.execTbtest f s
  | .barrierUpdate place count => Sys2Proof.Machine.execBarrierUpdate place count s
  | .mmaAreg f => Sys2Proof.Machine.execMmaAreg f s
  | .mmaAls f => Sys2Proof.Machine.execMmaAls f s
  | .mmaAacc f => Sys2Proof.Machine.execMmaAacc f s
  | .mmazAreg f => Sys2Proof.Machine.execMmazAreg f s
  | .mmazAls f => Sys2Proof.Machine.execMmazAls f s
  | .mmazAacc f => Sys2Proof.Machine.execMmazAacc f s
  | .accalloc f => Sys2Proof.Machine.execAccalloc f s
  | .accallocTry f => Sys2Proof.Machine.execAccallocTry f s
  | .tileGrant part => Sys2Proof.Machine.execTileGrant part s
  | .accDeadlockTimeout part => Sys2Proof.Machine.execAccDeadlockTimeout part s
  | .accfree f => Sys2Proof.Machine.execAccfree f s
  | .acczero f => Sys2Proof.Machine.execAcczero f s
  | .accld f => Sys2Proof.Machine.execAccld f s
  | .accst f => Sys2Proof.Machine.execAccst f s
  | .accmov f => Sys2Proof.Machine.execAccmov f s
  | .accfill f => Sys2Proof.Machine.execAccfill f s
  | .accrmax f => Sys2Proof.Machine.execAccrmax f s
  | .accrsum f => Sys2Proof.Machine.execAccrsum f s
  | .accrscl f => Sys2Proof.Machine.execAccrscl f s
  | .accmapAdd f => Sys2Proof.Machine.execAccmapAdd f s
  | .accmapMul f => Sys2Proof.Machine.execAccmapMul f s
  | .accmapEx2 f => Sys2Proof.Machine.execAccmapEx2 f s
  | .accmapRelu f => Sys2Proof.Machine.execAccmapRelu f s
  | .accmapRnd f => Sys2Proof.Machine.execAccmapRnd f s
  | .matrixOpComplete op => Sys2Proof.Machine.execMatrixOpComplete op s
  | .lentRegisterRead op => Sys2Proof.Machine.execLentRegisterRead op s
  | .draw f => Sys2Proof.Machine.execDraw f s
  | .drawt f => Sys2Proof.Machine.execDrawt f s
  | .deal f => Sys2Proof.Machine.execDeal f s
  | .dealTry f => Sys2Proof.Machine.execDealTry f s
  | .deckst f => Sys2Proof.Machine.execDeckst f s
  | .deckRequest slot deck => Sys2Proof.Machine.execDeckRequest slot deck s
  | .deckPayloadArrival op => Sys2Proof.Machine.execDeckPayloadArrival op s
  | .gateRetest slot deck => Sys2Proof.Machine.execGateRetest slot deck s
  | .hostDeal slot deck bytes => Sys2Proof.Machine.execHostDeal slot deck bytes s
  | .dropsRead slot deck => Sys2Proof.Machine.execDropsRead slot deck s
  | .mcst f => Sys2Proof.Machine.execMcst f s
  | .mcstDelivery p => Sys2Proof.Machine.execMcstDelivery p s
  | .rfence f => Sys2Proof.Machine.execRfence f s
  | .rfenceOne f => Sys2Proof.Machine.execRfenceOne f s
  | .cgloadGraph f => Sys2Proof.Machine.execCgloadGraph f s
  | .cgloadGroup f => Sys2Proof.Machine.execCgloadGroup f s
  | .cgrun f => Sys2Proof.Machine.execCgrun f s
  | .cgstat f => Sys2Proof.Machine.execCgstat f s
  | .cgabort f => Sys2Proof.Machine.execCgabort f s
  | .cgtrig f => Sys2Proof.Machine.execCgtrig f s
  | .tileTrigger op => Sys2Proof.Machine.execTileTrigger op s
  | .startPacketArrival p => Sys2Proof.Machine.execStartPacketArrival p s
  | .chunkOpStart call idx => Sys2Proof.Machine.execChunkOpStart call idx s
  | .chunkOpComplete call idx => Sys2Proof.Machine.execChunkOpComplete call idx s
  | .engineDataArrival p => Sys2Proof.Machine.execEngineDataArrival p s
  | .abortPacketArrival p => Sys2Proof.Machine.execAbortPacketArrival p s
  | .enginePacketTimeout call => Sys2Proof.Machine.execEnginePacketTimeout call s
  | .send f => Sys2Proof.Machine.execSend f s
  | .rpost f => Sys2Proof.Machine.execRpost f s
  | .rcancel f => Sys2Proof.Machine.execRcancel f s
  | .rprobe f => Sys2Proof.Machine.execRprobe f s
  | .rclaim f => Sys2Proof.Machine.execRclaim f s
  | .rstat f => Sys2Proof.Machine.execRstat f s
  | .rstatOpen f => Sys2Proof.Machine.execRstatOpen f s
  | .messageArrival m => Sys2Proof.Machine.execMessageArrival m s
  | .payloadPull recv r => Sys2Proof.Machine.execPayloadPull recv r s
  | .messageHold send => Sys2Proof.Machine.execMessageHold send s
  | .sendComplete send r => Sys2Proof.Machine.execSendComplete send r s
  | .bobbinDraw part => Sys2Proof.Machine.execBobbinDraw part s
  | .launchPacketWrite slot bytes => Sys2Proof.Machine.execLaunchPacketWrite slot bytes s
  | .skeinPlacement core => Sys2Proof.Machine.execSkeinPlacement core s
  | .preempt slot => Sys2Proof.Machine.execPreempt slot s
  | .stop slot => Sys2Proof.Machine.execStop slot s
  | .restore slot => Sys2Proof.Machine.execRestore slot s
  | .release slot => Sys2Proof.Machine.execRelease slot s
  | .coreSaveEnd slot core => Sys2Proof.Machine.execCoreSaveEnd slot core s
  | .skeinRestore slot skein => Sys2Proof.Machine.execSkeinRestore slot skein s
  | .quotaWrite slot core v => Sys2Proof.Machine.execQuotaWrite slot core v s
  | .intcfgWrite slot v => Sys2Proof.Machine.execIntcfgWrite slot v s
  | .registerWrite r v => Sys2Proof.Machine.execRegisterWrite r v s
  | .resolveRetry slice rid => Sys2Proof.Machine.execResolveRetry slice rid s
  | .resolveFail slice rid => Sys2Proof.Machine.execResolveFail slice rid s
  | .walkComplete asid page kind => Sys2Proof.Machine.execWalkComplete asid page kind s
  | .inboundPodAccess p => Sys2Proof.Machine.execInboundPodAccess p s
  | .shootdownRequest bytes => Sys2Proof.Machine.execShootdownRequest bytes s
  | .shootdownExecute => Sys2Proof.Machine.execShootdownExecute s
  | .flitReplay port => Sys2Proof.Machine.execFlitReplay port s
  | .portFail port => Sys2Proof.Machine.execPortFail port s
  | .laneFail port lane => Sys2Proof.Machine.execLaneFail port lane s
  | .laneTurn port lane => Sys2Proof.Machine.execLaneTurn port lane s
  | .retrainDone port => Sys2Proof.Machine.execRetrainDone port s
  | .portUp port pdev pport => Sys2Proof.Machine.execPortUp port pdev pport s
  | .packetForward p => Sys2Proof.Machine.execPacketForward p s
  | .fabcfgWrite v => Sys2Proof.Machine.execFabcfgWrite v s
  | .portStatusRead port => Sys2Proof.Machine.execPortStatusRead port s
  | .checkpointGo v => Sys2Proof.Machine.execCheckpointGo v s
  | .checkpointEnd => Sys2Proof.Machine.execCheckpointEnd s
  | .flitReceive port module slots => Sys2Proof.Machine.execFlitReceive port module slots s
  | .rd port m => Sys2Proof.Machine.execRd port m s
  | .wr port m => Sys2Proof.Machine.execWr port m s
  | .dlAtom port m => Sys2Proof.Machine.execDlAtom port m s
  | .probew port m => Sys2Proof.Machine.execProbew port m s
  | .sprd port m => Sys2Proof.Machine.execSprd port m s
  | .spwr port m => Sys2Proof.Machine.execSpwr port m s
  | .tbupd port m => Sys2Proof.Machine.execTbupd port m s
  | .promo port m => Sys2Proof.Machine.execPromo port m s
  | .shoot port m => Sys2Proof.Machine.execShoot port m s
  | .ack port m => Sys2Proof.Machine.execAck port m s
  | .nack port m => Sys2Proof.Machine.execNack port m s
  | .pack port m => Sys2Proof.Machine.execPack port m s
  | .sack port m => Sys2Proof.Machine.execSack port m s
  | .rdata port m => Sys2Proof.Machine.execRdata port m s
  | .mfail port m => Sys2Proof.Machine.execMfail port m s
  | .ident port m => Sys2Proof.Machine.execIdent port m s
  | .cap port m => Sys2Proof.Machine.execCap port m s
  | .discoveryTimeout port => Sys2Proof.Machine.execDiscoveryTimeout port s
  | .dieLinkReqTimeout tag => Sys2Proof.Machine.execDieLinkReqTimeout tag s
  | .moduleFail port module => Sys2Proof.Machine.execModuleFail port module s
  | .moduleTrained port module => Sys2Proof.Machine.execModuleTrained port module s
  | .apertureRead off len => Sys2Proof.Machine.execApertureRead off len s
  | .apertureWrite off bytes => Sys2Proof.Machine.execApertureWrite off bytes s
  | .apertureAtomic off op => Sys2Proof.Machine.execApertureAtomic off op s
  | .aperrRead => Sys2Proof.Machine.execAperrRead s
  | .hostCompletion req r => Sys2Proof.Machine.execHostCompletion req r s
  | .throttle core => Sys2Proof.Machine.execThrottle core s
  | .thermalStop => Sys2Proof.Machine.execThermalStop s
  | .thermalResume => Sys2Proof.Machine.execThermalResume s
  | .pwrctlWrite v => Sys2Proof.Machine.execPwrctlWrite v s
  | .reset img => Sys2Proof.Machine.execReset img s
  | .reducedServiceExit => Sys2Proof.Machine.execReducedServiceExit s
  | .attestationReport nonce => Sys2Proof.Machine.execAttestationReport nonce s
  | .instructionLineArrival core line => Sys2Proof.Machine.execInstructionLineArrival core line s
  | .segmentTransitEnd seg => Sys2Proof.Machine.execSegmentTransitEnd seg s
  | .hostCompletionTimeout req => Sys2Proof.Machine.execHostCompletionTimeout req s
  | .moduleDegrade port module trainsX32 => Sys2Proof.Machine.execModuleDegrade port module trainsX32 s
  | .throttleEnd core => Sys2Proof.Machine.execThrottleEnd core s

end Sys2Proof.Machine
end

