-- ==== Sys2Proof/Machine/Step.lean ====
section
/-! DEFINITION. One step: what the agenda names moves, and telemetry that it noted is written. With an empty agenda the machine takes
the round of Machine/Auto.lean. -/

namespace Sys2Proof.Machine

/-- An outcome with its next state changed. -/
def afterNext (f : State → State) : Out → Out
  | .next s => .next (f s)
  | o => o

/-- What an agenda entry does. A clock ticks when every partition has used its slot: until then the partitions issue, and the entry
stays (R87, R88). The oldest access of the host that waits is tried again, ahead of the others (R440). -/
def perform (c : Choice) (s : State) : Out :=
  match c with
  | .issue part => issueSlot exec part s
  | .event i => exec i s
  | .post => s.postTry
  | .upset u => .next (s.upset u)
  | .flit k => .next (s.flitSend k)
  | .boot => .next s.bootStep
  | .bus x => s.busTry x
  | .clock => match s.duePart with
    | some part => issueSlot exec part { s with agenda := .clock :: s.agenda }
    | none => .next s.tick

/-- ONE STEP. -/
def step (s : State) : Out :=
  match s.agenda with
  | [] => .next { s with agenda := s.auto }
  | c :: cs => afterNext State.telFlush (perform c { s with agenda := cs })

/-! ## An instruction where the next step fetches it -/

/-- The launch packet of a context of one skein of one ply of 8 lanes, with 32 registers a thread, on core 0. -/
def placedCtx : Ctx := { Ctx.reset with st := .running, pkt := 1 <<< 320, placed := [0] }

/-- Its skein, with the threads of its ply. -/
def placedSkein : Skein :=
  { ctx := 0, idx := 0, core := 0, threads := (List.range 8).map fun i => (i, { pc := 0, regs := [], ra := [], rsn := 0 }), sregs := [],
    bar := PlyBar.launch, segs := [], tiles := [], order := 0 }

/-- Its ply, in slot 0 of partition 0. -/
def placedPly : Ply :=
  { uid := 0, ctx := 0, skein := 0, idx := 0, width := 8, lanes := (List.range 8).map some, sregs := [], root := 0xFF, ents := [],
    hnd := none, csr := Csrs.launch, prod := true, yld := false, ops := [], conds := [], unres := 0, age := 0, starve := 0, hold := none,
    ripe := false, wait := none, podStore := false, stopped := false, drawnAt := none }

/-- A port of die 0 whose partner has every unit. -/
def placedPort : DlPort := { DlPort.reset with role := 2, st := 2, caps := 0x7F }

/-- The state with an instruction stored where the next step fetches its next: in the instruction-cache line at PC 0 of a ply of context
slot 0, resident on core 0. A program comes to run this way after a launch (R290, R292): firmware serves (R447), the management partner is
up (R434), the slot is RUNNING, and partition 0 of core 0 issues next. -/
def State.withFetchWord (s : State) (nbits w : Nat) : State :=
  { s with
    agenda := .issue 0 :: s.agenda
    sel := none
    issued := s.issued.del 0
    throttled := s.throttled.filter (· != 0)
    nextOp := s.nextOp + 1
    plies := Tbl.set (s.plies.filter fun e => 32 ≤ e.1) 0 placedPly
    skeins := s.skeins.set 0 placedSkein
    ctxs := s.ctxs.set 0 placedCtx
    ic := s.ic.set (icKey 0 (State.slotAsid { s with ctxs := s.ctxs.set 0 placedCtx } 0) 0) (.data (BitVec.ofNat 512 (w % 2 ^ nbits)))
    dl := s.dl.set 0 placedPort
    mgmt := { s.mgmt with stage := 6, stopt := false, reduced := false } }

end Sys2Proof.Machine
end

