-- ==== Sys2Proof/Safety.lean ====
section
/-! DEFINITION. What the statements speak of: runs that never stop, when an instruction issues and executes, what a step leaves
unchanged, and the canonical form of a state's memories. -/

namespace Sys2Proof.Machine

/-! ## Runs -/

/-- A run of n steps from a state, none of which stops, ends in another. -/
def runsTo : Nat → State → State → Prop
  | 0, s, t => t = s
  | n + 1, s, t => ∃ u, step s = .next u ∧ runsTo n u t

/-- A run of n steps is safe: no step of it ends in a fault or a refusal. -/
def safeFor : Nat → State → Prop
  | 0, _ => True
  | n + 1, s => ∃ t, step s = .next t ∧ safeFor n t

/-! ## Issue -/

/-- A ply issues in a state: it is selected, `e` describes it, its PC and its active lanes, and `e.exec` are the lanes whose guard is
true (R36, R82, R91). -/
abbrev Issuing (g : Guard) (s : State) (e : Env) : Prop :=
  s.sel = some e.pid ∧ s.ply? e.pid = some e.p ∧ e.pc = s.plyPc e.p ∧ e.act = e.p.active ∧ e.exec = guardMask s e.p g e.act

/-- The encoding is legal, the next instruction lies in the code window where the instruction goes on to it (R31, R61, R62), the checks
that no register decides pass and leave u, which is s but where they have fetched a tensor entry (R101, R235), and every register that is
read, the guard's in the active lanes and the operands in the executing ones, is FULL (R32). -/
abbrev Legal (sp : Spec) (early : Env → State → Pre) (s u : State) (e : Env) : Prop :=
  issueCauses sp (s.ctx e.p.ctx) e.pc = [] ∧ early { e with exec := 0 } s = .go u ∧ issueRegs u e.p e.act e.exec sp = .ok

/-- Some lane executes, none of the registers that it writes is lent (R86), and the counter has room (R18). -/
abbrev Ready (sp : Spec) (s : State) (e : Env) : Prop :=
  e.exec ≠ 0 ∧ writesLent s e.p e.exec sp.writes = false ∧ classFull e.p sp.cls = false

/-- The instruction with this pipeline data issues in s and executes in u, as `e`. -/
abbrev ExecutesFrom (sp : Spec) (early : Env → State → Pre) (s u : State) (e : Env) : Prop :=
  Issuing sp.guard s e ∧ e.exec = guardMask u e.p sp.guard e.act ∧ Legal sp early s u e ∧ Ready sp u e

/-- The instruction with this pipeline data issues and executes in `e`. -/
abbrev Executes (sp : Spec) (early : Env → State → Pre) (s : State) (e : Env) : Prop := ExecutesFrom sp early s s e

/-- The pipeline data of every instruction that a ply issues: its legality, guard, registers, counter class and length, with the refusals
that depend on the ply or its units (R31, R32, R36, R61, R86, R101). A step of an engine has none. -/
def pipe (s : State) : Instr → Option (Spec × (Env → State → Pre))
  | .nop f => some (fullSpec s (formBare f) none true f, noEarly)
  | .bra f => some (fullSpec s (formBra f) none false f, noEarly)
  | .jmp f => some (fullSpec s (formJump f) none false f, noEarly)
  | .jmpr f => some (fullSpec s (formJmpr f) none false f, noEarly)
  | .call f => some (fullSpec s (formJump f) none false f, noEarly)
  | .calli f => some (fullSpec s (formCalli f) none false f, noEarly)
  | .ret f => some (fullSpec s (formRet f) none false f, noEarly)
  | .reform f => some (fullSpec s (formCalli f) none false f, reformEarly f)
  | .exit f => some (fullSpec s (formBare f) none false f, noEarly)
  | .bar f => some (fullSpec s (formBar f) none true f, noEarly)
  | .bararr f => some (fullSpec s (formBararr f) none true f, noEarly)
  | .barwt f => some (fullSpec s (formBarwt f) none true f, noEarly)
  | .waitc f => some (fullSpec s (formWaitc f) none true f, noEarly)
  | .yield f => some (fullSpec s (formBare f) none true f, noEarly)
  | .sleep f => some (fullSpec s (formSleep f) none true f, noEarly)
  | .trap f => some (fullSpec s (formTrap f) none true f, noEarly)
  | .bkpt f => some (fullSpec s (formBare f) none true f, noEarly)
  | .eret f => some (fullSpec s (formRet f) none false f, eretEarly)
  | .csrr f => some (fullSpec s (formCsrr f) none true f, noEarly)
  | .csrw f => some (fullSpec s (formCsrw f) none true f, noEarly)
  | .pair q => some (pairSpec s q, noEarly)
  | .iadd f => some (fullSpec s (formIntArith f) none true f, noEarly)
  | .isub f => some (fullSpec s (formIntArith f) none true f, noEarly)
  | .iaddw f => some (fullSpec s (formIntWide f) none true f, noEarly)
  | .isubw f => some (fullSpec s (formIntWide f) none true f, noEarly)
  | .imul f => some (fullSpec s (formIntArith f) none true f, noEarly)
  | .imulh f => some (fullSpec s (formImulh f) none true f, noEarly)
  | .imad f => some (fullSpec s (formImad f) none true f, noEarly)
  | .imadw f => some (fullSpec s (formImadw f) none true f, noEarly)
  | .imin f => some (fullSpec s (formIminmax f) none true f, noEarly)
  | .imax f => some (fullSpec s (formIminmax f) none true f, noEarly)
  | .iabs f => some (fullSpec s (formIabs f) none true f, noEarly)
  | .icmp f => some (fullSpec s (formIcmp f) none true f, noEarly)
  | .icmpw f => some (fullSpec s (formIcmpw f) none true f, noEarly)
  | .sel f => some (fullSpec s (formSel f) none true f, noEarly)
  | .and f => some (fullSpec s (formLogic f) none true f, noEarly)
  | .or f => some (fullSpec s (formLogic f) none true f, noEarly)
  | .xor f => some (fullSpec s (formLogic f) none true f, noEarly)
  | .andn f => some (fullSpec s (formLogic f) none true f, noEarly)
  | .shl f => some (fullSpec s (formShift f) none true f, noEarly)
  | .shr f => some (fullSpec s (formShift f) none true f, noEarly)
  | .sar f => some (fullSpec s (formShift f) none true f, noEarly)
  | .shlw f => some (fullSpec s (formShiftWide f) none true f, noEarly)
  | .shrw f => some (fullSpec s (formShiftWide f) none true f, noEarly)
  | .rotl f => some (fullSpec s (formShift f) none true f, noEarly)
  | .popc f => some (fullSpec s (formCount f) none true f, noEarly)
  | .clz f => some (fullSpec s (formCount f) none true f, noEarly)
  | .brev f => some (fullSpec s (formCount f) none true f, noEarly)
  | .bfx f => some (fullSpec s (formBfx f) none true f, noEarly)
  | .bfi f => some (fullSpec s (formBfi f) none true f, noEarly)
  | .bpick f => some (fullSpec s (formBpick f) none true f, noEarly)
  | .mov f => some (fullSpec s (formMov f) none true f, noEarly)
  | .movi f => some (fullSpec s (formMovi f) none true f, noEarly)
  | .lea f => some (fullSpec s (formLea f) none true f, noEarly)
  | .fadd f => some (fullSpec s (formFarith f) none true f, noEarly)
  | .fmul f => some (fullSpec s (formFarith f) none true f, noEarly)
  | .ffma f => some (fullSpec s (formFfma f) none true f, noEarly)
  | .fscale f => some (fullSpec s (formFscale f) none true f, noEarly)
  | .fmin f => some (fullSpec s (formFminmax f) none true f, noEarly)
  | .fmax f => some (fullSpec s (formFminmax f) none true f, noEarly)
  | .fcmp f => some (fullSpec s (formFcmp f) none true f, noEarly)
  | .fclass f => some (fullSpec s (formFclass f) none true f, noEarly)
  | .frnd f => some (fullSpec s (formFrnd f) none true f, noEarly)
  | .frcp f => some (fullSpec s (formFroot f) none true f, noEarly)
  | .frsq f => some (fullSpec s (formFroot f) none true f, noEarly)
  | .fsqrt f => some (fullSpec s (formFroot f) none true f, noEarly)
  | .fex2 f => some (fullSpec s (formFex2 f) none true f, noEarly)
  | .flg2 f => some (fullSpec s (formFtrans f) none true f, noEarly)
  | .fsin f => some (fullSpec s (formFtrans f) none true f, noEarly)
  | .fcos f => some (fullSpec s (formFtrans f) none true f, noEarly)
  | .ftanh f => some (fullSpec s (formFtrans f) none true f, noEarly)
  | .hadd2 f => some (fullSpec s (formHarith f) none true f, noEarly)
  | .hmul2 f => some (fullSpec s (formHarith f) none true f, noEarly)
  | .hfma2 f => some (fullSpec s (formHfma2 f) none true f, noEarly)
  | .hmnmx2 f => some (fullSpec s (formHmnmx2 f) none true f, noEarly)
  | .cvt f => some (fullSpec s (formCvt f) none true f, noEarly)
  | .cvts f => some (fullSpec s (formCvts f) none true f, noEarly)
  | .pack4 f => some (fullSpec s (formPack tysPack4 4 f) none true f, noEarly)
  | .unpk4 f => some (fullSpec s (formUnpk tysPack4 4 f) none true f, noEarly)
  | .pack8 f => some (fullSpec s (formPack tysPack8 8 f) none true f, noEarly)
  | .unpk8 f => some (fullSpec s (formUnpk tysPack8 8 f) none true f, noEarly)
  | .rng f => some (fullSpec s (formRng f) none true f, noEarly)
  | .shfl f => some (fullSpec s (formShfl f) none true f, shflEarly f)
  | .bcst f => some (bcstSpec s f, noEarly)
  | .ballot f => some (fullSpec s (formBallot f) none true f, noEarly)
  | .vote f => some (fullSpec s (formVote f) none true f, noEarly)
  | .matchLanes f => some (fullSpec s (formMatch f) none true f, noEarly)
  | .actmask f => some (fullSpec s (formActmask f) none true f, noEarly)
  | .redux f => some (fullSpec s (formRedux f) none true f, noEarly)
  | .scan f => some (fullSpec s (formScan f) none true f, noEarly)
  | .ld f => some (fullSpec s (formLd f) (some .ld) true f, noEarly)
  | .st f => some (fullSpec s (formSt f) (some .st) true f, noEarly)
  | .atom f => some (fullSpec s (formAtom f) (some .ld) true f, noEarly)
  | .atomcas f => some (fullSpec s (formAtomcas f) (some .ld) true f, noEarly)
  | .red f => some (fullSpec s (formRed f) (some .st) true f, noEarly)
  | .pref f => some (fullSpec s (formPref f) none true f, noEarly)
  | .spill f => some (fullSpec s (formSpill f) (some .st) true f, noEarly)
  | .fill f => some (fullSpec s (formFill f) (some .ld) true f, noEarly)
  | .fence f => some (fullSpec s (formFence f) none true f, noEarly)
  | .subs f => some (fullSpec s (formSubs f) (some .ld) true f, noEarly)
  | .unsubs f => some (fullSpec s (formUnsubs f) (some .ld) true f, noEarly)
  | .segstat f => some (fullSpec s (formSegstat f) (some .ld) true f, noEarly)
  | .cpy f => some (fullSpec s (formCpy f) (some .cpy) true f, noEarly)
  | .tcpy f => some (fullSpec s (formTcpy f) (some .cpy) true f, preFirst (preThen (tidPairEarly false f) (tcpyVals f)))
  | .tgath f => some (fullSpec s (formTgath f) (some .gth) true f, preFirst (preThen (tidPairEarly true f) (rowsVals f)))
  | .tscat f => some (fullSpec s (formTgath f) (some .gth) true f, preFirst (preThen (tidPairEarly true f) (rowsVals f)))
  | .cpyf f => some (fullSpec s (formCpyf f) (some .cpy) true f, noEarly)
  | .tidld f => some (fullSpec s (formTidld f) (some .cpy) true f, noEarly)
  | .tidinv f => some (fullSpec s (formTidinv f) (some .cpy) true f, noEarly)
  | .tbinit f => some (fullSpec s (formTbinit f) (some .st) true f, preFirst (tbinitVals f))
  | .tbexp f => some (fullSpec s (formTbinit f) (some .st) true f, noEarly)
  | .tbarr f => some (fullSpec s (formTbarr f) (some (tbarrCls f)) true f, noEarly)
  | .tbwait f => some (fullSpec s (formTbarr f) none true f, noEarly)
  | .tbtest f => some (fullSpec s (formTbtest f) (some .ld) true f, noEarly)
  | .mmaAreg f => some (fullSpec s (formMmaAreg f) (some .mma) true f, noEarly)
  | .mmaAls f => some (fullSpec s (formMmaAls f) (some .mma) true f, noEarly)
  | .mmaAacc f => some (fullSpec s (formMmaAacc f) (some .mma) true f, noEarly)
  | .mmazAreg f => some (fullSpec s (formMmaAreg f) (some .mma) true f, noEarly)
  | .mmazAls f => some (fullSpec s (formMmaAls f) (some .mma) true f, noEarly)
  | .mmazAacc f => some (fullSpec s (formMmaAacc f) (some .mma) true f, noEarly)
  | .accalloc f => some (fullSpec s (formAccalloc f) none true f, noEarly)
  | .accallocTry f => some (fullSpec s (formAccalloc f) none true f, noEarly)
  | .accfree f => some (fullSpec s (formAcczero f) none true f, noEarly)
  | .acczero f => some (fullSpec s (formAcczero f) (some .mma) true f, noEarly)
  | .accld f => some (fullSpec s (formAccld f) (some .mma) true f, noEarly)
  | .accst f => some (fullSpec s (formAccst f) (some .mma) true f, noEarly)
  | .accmov f => some (fullSpec s (formAccmov f) (some .mma) true f, noEarly)
  | .accfill f => some (fullSpec s (formAccfill f) (some .mma) true f, noEarly)
  | .accrmax f => some (fullSpec s (formAccrow f) (some .mma) true f, noEarly)
  | .accrsum f => some (fullSpec s (formAccrow f) (some .mma) true f, noEarly)
  | .accrscl f => some (fullSpec s (formAccrscl f) (some .mma) true f, noEarly)
  | .accmapAdd f => some (fullSpec s (formAccmapRow f) (some .mma) true f, noEarly)
  | .accmapMul f => some (fullSpec s (formAccmapRow f) (some .mma) true f, noEarly)
  | .accmapEx2 f => some (fullSpec s (formAccmapEx2 f) (some .mma) true f, noEarly)
  | .accmapRelu f => some (fullSpec s (formAccmapRelu f) (some .mma) true f, noEarly)
  | .accmapRnd f => some (fullSpec s (formAccmapRnd f) (some .mma) true f, noEarly)
  | .draw f => some (fullSpec s (formDraw f) none true f, unitEarly 1)
  | .drawt f => some (fullSpec s (formDrawt f) none true f, unitEarly 1)
  | .deal f => some (fullSpec s (formDeal f) none true f, unitEarly 1)
  | .dealTry f => some (fullSpec s (formDeal f) none true f, unitEarly 1)
  | .deckst f => some (fullSpec s (formDeckst f) (some .ld) true f, unitEarly 1)
  | .mcst f => some (fullSpec s (formMcst f) (some .st) true f, preThen (unitEarly 2) (preFirst (mcstEarly f)))
  | .rfence f => some (fullSpec s (formRfence f) none true f, unitEarly 2)
  | .rfenceOne f => some (fullSpec s (formRfence f) none true f, unitEarly 2)
  | .cgloadGraph f => some (fullSpec s (formCgload f) (some .net) true f, unitEarly 3)
  | .cgloadGroup f => some (fullSpec s (formCgload f) (some .net) true f, unitEarly 3)
  | .cgrun f => some (fullSpec s (formCgrun f) (some .net) true f, preThen (unitEarly 3) (preFirst (cgrunEarly f)))
  | .cgstat f => some (fullSpec s (formCgstat f) (some .ld) true f, unitEarly 3)
  | .cgabort f => some (fullSpec s (formCgabort f) none true f, preThen (unitEarly 3) (preFirst (cgabortEarly f)))
  | .cgtrig f => some (fullSpec s (formCgtrig f) (some .st) true f, unitEarly 3)
  | .send f => some (fullSpec s (formSend f) (some .net) true f,
      preThen (unitEarly 4) (preFirst (preThen (epTidEarly f) (preThen (rangeVals f 3) (destVals f)))))
  | .rpost f => some (fullSpec s (formRpost f) (some .net) true f, preThen (unitEarly 4) (preFirst (preThen (epTidEarly f) (rangeVals f 5))))
  | .rcancel f => some (fullSpec s (formRcancel f) (some .ld) true f, preThen (unitEarly 4) (preFirst (epEarly f)))
  | .rprobe f => some (fullSpec s (formRprobe f) (some .ld) true f, preThen (unitEarly 4) (preFirst (epEarly f)))
  | .rclaim f => some (fullSpec s (formRclaim f) (some .ld) true f, preThen (unitEarly 4) (preFirst (epEarly f)))
  | .rstat f => some (fullSpec s (formRstat f) (some .ld) true f, unitEarly 4)
  | .rstatOpen f => some (fullSpec s (formRstatOpen f) (some .ld) true f, unitEarly 4)
  | _ => none

/-- An instruction issues in s and executes in u, as `e`. -/
def ExecutingFrom (i : Instr) (s u : State) (e : Env) : Prop := match pipe s i with
  | some (sp, early) => ExecutesFrom sp early s u e
  | none => False

/-- An instruction issues and executes in `e`. -/
def Executing (i : Instr) (s : State) (e : Env) : Prop := ExecutingFrom i s s e

/-- Lane l stands for a thread in a mask: it is the highest lane of the mask that holds the thread. (In a run no thread stands in two
lanes; a write of several lanes to one thread leaves the highest lane's value.) -/
def LaneOf (p : Ply) (m : Mask) (l tid : Nat) : Prop := (l, tid) ∈ p.threadsOf m ∧ ∀ k, (k, tid) ∈ p.threadsOf m → k ≤ l

/-! ## What is left unchanged -/

/-- Every byte of the package's HBM and local store reads as before, and so does every line of the caches and of the write-combining
buffers over them. -/
def SameMemory (s t : State) : Prop :=
  (∀ a, Mem.get t.hbm a = Mem.get s.hbm a) ∧ (∀ a, Mem.get t.ls a = Mem.get s.ls a) ∧ t.chk = s.chk ∧ t.lsPoison = s.lsPoison ∧
  t.mc = s.mc ∧ t.l1 = s.l1 ∧ t.wcb = s.wcb ∧ t.slices = s.slices

/-- Nothing outside the plies and the skeins is changed: no memory, accumulator tile, table, queue, or register of another unit. -/
def OnlyPlies (s t : State) : Prop := { t with plies := s.plies, skeins := s.skeins } = s ∧ SameMemory s t

/-- Every ply but one is as before. -/
def OtherPlies (pid : Nat) (s t : State) : Prop := ∀ q, q ≠ pid → t.ply? q = s.ply? q

/-- An s register as a ply sees it (R22). -/
def State.sRegOf (s : State) (pid n : Nat) : Reg := match s.ply? pid with
  | some p => s.sReg p n
  | none => Reg.launch

/-- Every v register of every thread is as before. -/
def SameV (s t : State) : Prop := ∀ sk tid n, t.vReg sk tid n = s.vReg sk tid n

/-- Every s register of every ply is as before. -/
def SameS (s t : State) : Prop := ∀ q n, t.sRegOf q n = s.sRegOf q n

/-- What a ply keeps over an instruction that neither counts an operation nor ends lanes: its place, threads, width, CSRs, counters,
conditions and UNRES. -/
def KeepsPly (p q : Ply) : Prop :=
  q.uid = p.uid ∧ q.ctx = p.ctx ∧ q.skein = p.skein ∧ q.idx = p.idx ∧ q.width = p.width ∧ q.lanes = p.lanes ∧ q.csr = p.csr ∧
  q.ops = p.ops ∧ q.conds = p.conds ∧ q.unres = p.unres ∧ q.prod = p.prod ∧ q.podStore = p.podStore ∧ q.stopped = p.stopped

/-- Every return-address stack of every thread is as before. -/
def SameStacks (s t : State) : Prop :=
  ∀ sk tid, (t.thread sk tid).map (fun x => (x.ra, x.rsn)) = (s.thread sk tid).map fun x => (x.ra, x.rsn)

/-- A ply but for where it stands: its divergence entries, its handler's, and what the sequencer keeps of its issue (R39, R87). -/
def Ply.still (p : Ply) : Ply :=
  { p with ents := [], hnd := none, starve := 0, yld := false, wait := none, ripe := false, hold := none }

/-- A thread but for its program counter. -/
def Thread.still (x : Thread) : Thread := { x with pc := 0 }

/-- What retiring an instruction may change from the state that its effect left: where plies stand and how they are sequenced; every
register, counter, memory and unit is as the effect left it. -/
def Retires (pid : Nat) (s t : State) : Prop :=
  { t with plies := s.plies, skeins := s.skeins } = s ∧ OtherPlies pid s t ∧
  (t.ply? pid).map Ply.still = (s.ply? pid).map Ply.still ∧
  (∀ k, (t.skeins.get k).map (fun x => { x with threads := [] }) = (s.skeins.get k).map fun x => { x with threads := [] }) ∧
  ∀ sk tid, (t.thread sk tid).map Thread.still = (s.thread sk tid).map Thread.still

/-- The lanes of a mask stand at a PC. -/
def StandAt (p : Ply) (m : Mask) (pc : Addr) (t : State) : Prop :=
  ∀ x, x ∈ p.threadsOf m → ∀ th, t.thread p.skein x.2 = some th → th.pc = pc

/-- The instruction has gone on to the next: outside a handler, its active lanes stand n bytes on. -/
def Advances (e : Env) (n : Nat) (t : State) : Prop := e.p.hnd = none → StandAt e.p e.act (e.pc + BitVec.ofNat 56 n) t

/-! ## Results in registers -/

/-- In the thread of each executing lane l, k v registers from n up hold the words of `val l`, FULL with no arrival pending (R33, R112);
every other v register is as before. -/
def WritesV (e : Env) (n k : Nat) (val : Nat → Nat) (s t : State) : Prop :=
  (∀ l tid i, LaneOf e.p e.exec l tid → (s.thread e.p.skein tid).isSome = true → i < k →
    t.vReg e.p.skein tid (n + i) = Reg.write (BitVec.ofNat 32 (val l >>> (32 * i)))) ∧
  (∀ sk tid i, sk ≠ e.p.skein ∨ (∀ l, (l, tid) ∉ e.p.threadsOf e.exec) ∨ i < n ∨ n + k ≤ i → t.vReg sk tid i = s.vReg sk tid i)

/-- k s registers from n up, as the ply sees them, hold the words of x, FULL with no arrival pending; every other s register is as before,
and so is every one of a ply that does not share them (R22, R33). -/
def WritesS (e : Env) (n k x : Nat) (s t : State) : Prop :=
  (∀ i, (s.skeins.get e.p.skein).isSome = true → i < k → t.sRegOf e.pid (n + i) = Reg.write (BitVec.ofNat 32 (x >>> (32 * i)))) ∧
  (∀ q i, i < n ∨ n + k ≤ i → t.sRegOf q i = s.sRegOf q i) ∧
  (∀ q p i, s.ply? q = some p → q ≠ e.pid → 32 ≤ i ∨ p.skein ≠ e.p.skein → t.sRegOf q i = s.sRegOf q i)

/-- D takes a result of k registers, `val l` in each executing lane l, or `val` of the lowest executing lane in an s register (R112);
D = `zero` takes nothing (R25). -/
def WritesD (e : Env) (d : Operand) (k : Nat) (val : Nat → Nat) (s t : State) : Prop :=
  match d with
  | .v n => SameS s t ∧ WritesV e n k val s t
  | .s n => SameV s t ∧ WritesS e n k (val (e.lanes.headD 0)) s t
  | _ => SameV s t ∧ SameS s t

/-- FPX has taken flags (R80), RNGCTR has advanced where the instruction is random (R74), and every other CSR is as before. -/
def csrAfter (c : Csrs) (fl : Flags) (rnd : Bool) : Csrs :=
  { c with fpx := orFlags c.fpx fl, rngctr := if rnd then c.rngctr + 1 else c.rngctr }

/-- An instruction that computes and nothing more: D takes the result, FPX the flags, and nothing else changes but that the ply goes on
to the next instruction. -/
def Computes (e : Env) (size : Nat) (d : Operand) (k : Nat) (val : Nat → Nat) (fl : Flags) (rnd : Bool) (s t : State) : Prop :=
  Advances e size t ∧ OnlyPlies s t ∧ OtherPlies e.pid s t ∧ SameStacks s t ∧ WritesD e d k val s t ∧
  ∃ q, t.ply? e.pid = some q ∧ KeepsPly { e.p with csr := csrAfter e.p.csr fl rnd } q

/-- The lanes for which an arithmetic instruction computes: a vector one for each executing lane, a scalar one once unless its operands
differ by lane (R112). -/
def aluLanes (f : Full) (e : Env) : List Nat := match f.d with
  | .v _ => e.lanes
  | _ => if perLane f.a || perLane f.b then e.lanes else e.lanes.take 1

/-- A row of an arithmetic table: how operands are read, and the result and flags of a lane. -/
structure AluRow where
  x   : Alu
  val : State → Env → LaneIn → Nat × Flags

/-- A row without flags. -/
def AluRow.plain (x : Alu) (g : LaneIn → Nat) : AluRow := ⟨x, fun _ _ i => (g i, 0)⟩

/-- What a row leaves when its instruction executes. -/
def AluRow.Effect (r : AluRow) (f : Full) (e : Env) (s t : State) : Prop :=
  Computes e 12 f.d r.x.n (fun l => (r.val s e (laneIn s e r.x f l)).1)
    (orAll ((aluLanes f e).map fun l => (r.val s e (laneIn s e r.x f l)).2)) r.x.sr s t

/-- The integer and bit instructions on exact integers and on 32-bit patterns (R136 to R141). -/
def intRow : Instr → Option (Full × AluRow)
  | .iadd f => some (f, .plain (alu f) fun i => intWrite (mTyD f) (mSat f) (extInt (mTyD f) i.a + extInt (mTyD f) i.b))
  | .isub f => some (f, .plain (alu f) fun i => intWrite (mTyD f) (mSat f) (extInt (mTyD f) i.a - extInt (mTyD f) i.b))
  | .imul f => some (f, .plain (alu f) fun i => intWrite (mTyD f) (mSat f) (extInt (mTyD f) i.a * extInt (mTyD f) i.b))
  | .imad f => some (f, .plain (alu f) fun i =>
      intWrite (mTyD f) (mSat f) (extInt (mTyD f) i.a * extInt (mTyD f) i.b + extInt (mTyD f) i.d))
  | .iaddw f => some (f, .plain (aluWide f) fun i =>
      intWrite (mTyD f) (mSat f) (extInt (mTyD f) i.a + extInt (mTyD f) i.b))
  | .isubw f => some (f, .plain (aluWide f) fun i =>
      intWrite (mTyD f) (mSat f) (extInt (mTyD f) i.a - extInt (mTyD f) i.b))
  | .imulh f => some (f, .plain (alu f) fun i => wrapNat 64 (extInt (mTyD f) i.a * extInt (mTyD f) i.b) / 2 ^ 32)
  | .imadw f => some (f, .plain { alu f with wd := true, n := 2 } fun i => imadwVal (mTyD f) (mSat f) i.a i.b i.d)
  | .imin f => some (f, .plain (alu f) fun i => intWrite (mTyD f) false (min (extInt (mTyD f) i.a) (extInt (mTyD f) i.b)))
  | .imax f => some (f, .plain (alu f) fun i => intWrite (mTyD f) false (max (extInt (mTyD f) i.a) (extInt (mTyD f) i.b)))
  | .iabs f => some (f, .plain (alu f) fun i => intWrite (mTyD f) (mSat f) (extInt (mTyD f) i.a).natAbs)
  | .icmp f => some (f, .plain (alu f) fun i => b2n (icmpVal (mCmp f) (extInt (mTyD f) i.a) (extInt (mTyD f) i.b)))
  | .icmpw f => some (f, .plain { alu f with wa := true, wb := true } fun i =>
      b2n (icmpVal (mCmp f) (extInt (mTyD f) i.a) (extInt (mTyD f) i.b)))
  | .sel f => some (f, { x := { alu f with wa := ty64' f, wb := ty64' f, n := if ty64' f then 2 else 1 }, val := fun s e i =>
      (if bit (opVal s e.pid e.p i.l false .s32 0 (selC f)) 0 then i.a else i.b, 0) })
  | .and f => some (f, .plain (aluLogic f) fun i => i.a &&& i.b)
  | .or f => some (f, .plain (aluLogic f) fun i => i.a ||| i.b)
  | .xor f => some (f, .plain (aluLogic f) fun i => i.a ^^^ i.b)
  | .andn f => some (f, .plain (aluLogic f) fun i => i.a &&& (2 ^ 32 - 1 - i.b % 2 ^ 32))
  | .shl f => some (f, .plain (alu f) fun i => if 32 ≤ i.b then 0 else i.a <<< i.b % 2 ^ 32)
  | .shr f => some (f, .plain (alu f) fun i => if 32 ≤ i.b then 0 else (i.a % 2 ^ 32) >>> i.b)
  | .sar f => some (f, .plain (alu f) fun i => sarVal i.a i.b)
  | .rotl f => some (f, .plain (alu f) fun i => rotlVal i.a i.b)
  | .shlw f => some (f, .plain { alu f with wa := true, n := 2 } fun i => if 64 ≤ i.b then 0 else i.a <<< i.b % 2 ^ 64)
  | .shrw f => some (f, .plain { alu f with wa := true, n := 2 } fun i => if 64 ≤ i.b then 0 else (i.a % 2 ^ 64) >>> i.b)
  | .popc f => some (f, .plain (alu f) fun i => popN 32 i.a)
  | .clz f => some (f, .plain (alu f) fun i => clzN 32 i.a)
  | .brev f => some (f, .plain (alu f) fun i => brevN 32 i.a)
  | .bfx f => some (f, .plain (alu f) fun i => bfxVal (mTyD f) (mf f 4 0) (mf f 10 5) i.a)
  | .bfi f => some (f, .plain (alu f) fun i => bfiVal (mf f 4 0) (mf f 10 5) i.a i.d)
  | .bpick f => some (f, .plain (alu f) fun i => bpickVal (mEx f) (mAux f) i.a i.b)
  | .mov f => some (f, .plain { aluLogic f with wa := !wholeImm f && ty64' f, n := if !wholeImm f && ty64' f then 2 else 1 }
      LaneIn.a)
  | .movi f => some (f, .plain (aluLogic f) LaneIn.a)
  | .lea f => some (f, { x := { alu f with wa := true, n := 2 }, val := fun _ e i =>
      (wrapNat 64 (if mEx f then (e.pc.toNat : Int) + 4 * sextInt 16 (mAux f)
        else (i.a : Int) + extInt (mTyD f) i.b * ((2 ^ mf f 2 0 : Nat) : Int)), 0) })
  | _ => none

/-- The floating-point, conversion, packing and random instructions (R142 to R147, R149, R150). -/
def floatRow : Instr → Option (Full × AluRow)
  | .fadd f => some (f, ⟨aluSr f, fun _ _ i => rndF .f32 (rmSat f) (i.sr 0) ((f32 i.a).add (mRm f == .rd) (f32 i.b))⟩)
  | .fmul f => some (f, ⟨aluSr f, fun _ _ i => rndF .f32 (rmSat f) (i.sr 0) ((f32 i.a).mul (f32 i.b))⟩)
  | .ffma f => some (f, ⟨aluSr f, fun _ _ i => ffmaVal .f32 (rmSat f) (i.sr 0) i.a i.b i.d⟩)
  | .fscale f => some (f, ⟨alu f, fun _ _ i => fscaleVal (rmSat f) i.a i.b⟩)
  | .fmin f => some (f, .plain (alu f) fun i => fmnmx .f32 false i.a i.b)
  | .fmax f => some (f, .plain (alu f) fun i => fmnmx .f32 true i.a i.b)
  | .fcmp f => some (f, .plain (alu f) fun i => b2n (fcmpVal (mCmp f) (f32 i.a) (f32 i.b)))
  | .fclass f => some (f, .plain (alu f) fun i => fclass i.a)
  | .frnd f => some (f, ⟨alu f, fun _ _ i => frndVal (mRm f) i.a⟩)
  | .frcp f => some (f, ⟨alu f, fun _ _ i => rndF .f32 (rmSat f) 0 (frcpVal (f32 i.a))⟩)
  | .frsq f => some (f, ⟨alu f, fun _ _ i => rndF .f32 (rmSat f) 0 (frsqVal (f32 i.a))⟩)
  | .fsqrt f => some (f, ⟨alu f, fun _ _ i => rndF .f32 (rmSat f) 0 (fsqrtVal (f32 i.a))⟩)
  | .fex2 f => some (f, ⟨alu f, fun _ _ i => fex2 (mSat f) i.a⟩)
  | .flg2 f => some (f, ⟨alu f, fun _ _ i => flg2 i.a⟩)
  | .fsin f => some (f, ⟨alu f, fun _ _ i => fsin i.a⟩)
  | .fcos f => some (f, ⟨alu f, fun _ _ i => fcos i.a⟩)
  | .ftanh f => some (f, ⟨alu f, fun _ _ i => ftanh i.a⟩)
  | .hadd2 f => some (f, ⟨aluSr f, fun _ _ i =>
      pack2 fun k => faddVal (mTyD f) (rmSat f) (i.sr k) (half i.a k) (half i.b k)⟩)
  | .hmul2 f => some (f, ⟨aluSr f, fun _ _ i =>
      pack2 fun k => fmulVal (mTyD f) (rmSat f) (i.sr k) (half i.a k) (half i.b k)⟩)
  | .hfma2 f => some (f, ⟨aluSr f, fun _ _ i =>
      pack2 fun k => ffmaVal (mTyD f) (rmSat f) (i.sr k) (half i.a k) (half i.b k) (half i.d k)⟩)
  | .hmnmx2 f => some (f, ⟨alu f, fun _ _ i => pack2 fun k => (fmnmx (mTyD f) (mEx f) (half i.a k) (half i.b k), 0)⟩)
  | .cvt f => some (f, ⟨aluCvt f, fun _ _ i => cvtVal (mTyD f) ((mTy2 f).getD .f32) (rmSat f) (i.sr 0) i.a⟩)
  | .pack4 f => some (f, { x := alu f, val := fun s e i =>
      ((List.range 4).foldl (fun r k => r + (opWord s e i.l f.a k % 2 ^ 8) <<< (8 * k)) 0, 0) })
  | .pack8 f => some (f, { x := alu f, val := fun s e i =>
      ((List.range 8).foldl (fun r k => r + (opWord s e i.l f.a k % 2 ^ 4) <<< (4 * k)) 0, 0) })
  | .unpk4 f => some (f, .plain { alu f with n := 4 } fun i =>
      (List.range 4).foldl (fun r k => r + unpk4Word (mTyD f) i.a k <<< (32 * k)) 0)
  | .unpk8 f => some (f, .plain { alu f with n := 8 } fun i =>
      (List.range 8).foldl (fun r k => r + unpk8Word (mTyD f) i.a k <<< (32 * k)) 0)
  | .rng f => some (f, .plain { alu f with sr := true } fun i => if mTyD f = .f32 then rngF32 i.sr else i.sr 1 * 2 ^ 16 + i.sr 0)
  | _ => none

/-- The lane-exchange instructions (R152 to R155): the result registers, the result in each lane, and the flags; none where a reduction has no
lane. -/
def laneRow (s : State) (e : Env) : Instr → Option (Full × Nat × (Nat → Nat) × Flags)
  | .shfl f =>
    let vs := laneVals s e (ty64' f) f
    some (f, if ty64' f then 2 else 1, fun l =>
      match shflSource (mf f 26 24) (if mf f 6 0 = 0 then e.p.width else mf f 6 0) l (opVal s e.pid e.p l false (mTyD f) 0 f.b % 2 ^ 32) with
      | some j => if e.exec.getLsbD j then valOf vs j else valOf vs l
      | none => valOf vs l, 0)
  | .bcst f =>
    let j := opVal s e.pid e.p 0 false (mTyD f) (immVal false false (mTyD f) f) f.b % 2 ^ 32 % e.p.width
    some (f, if ty64' f then 2 else 1, fun _ => if (e.p.tidAt j).isSome then opVal s e.pid e.p j (ty64' f) .s32 0 f.a else 0, 0)
  | .ballot f => some (f, 2, fun _ =>
      (maskOf ((laneVals s e false f).filterMap fun x => if bit x.2 0 then some x.1 else none)).toNat, 0)
  | .vote f => some (f, 1, fun _ => b2n (voteVal (mf f 26 24) ((laneVals s e (ty64' f) f).map Prod.snd)), 0)
  | .matchLanes f =>
    let vs := laneVals s e (ty64' f) f
    some (f, 2, fun l => (maskOf (vs.filterMap fun x => if x.2 == valOf vs l then some x.1 else none)).toNat, 0)
  | .actmask f => some (f, 2, fun _ => e.exec.toNat, 0)
  | .redux f =>
    let vs := laneVals s e (ty64' f) f
    match treeFold (mTyD f) (mf f 26 24) 6
      ((List.range e.p.width).map fun l => (vs.find? fun x => x.1 == l).map fun x => (x.2, 0)) with
    | some r :: _ => some (f, if ty64' f then 2 else 1, fun _ => r.1, r.2)
    | _ => none
  | .scan f =>
    let rs := scanList (mTyD f) (mf f 26 24) none (laneVals s e (ty64' f) f)
    some (f, if ty64' f then 2 else 1, fun l => match rs.find? fun x => x.1 == l with
      | some x => if mEx f then x.2.2.1 else x.2.1
      | none => 0, orAll (rs.map fun x => x.2.2.2))
  | _ => none

/-! ## Completion -/

/-- An instruction completes with an effect: the next state is what the effect left, retired, with the active lanes 12 bytes ahead where
no handler runs. -/
def Completes (i : Instr) (e : Env) (s u : State) : Prop :=
  ∃ t, exec i s = .next t ∧ Retires e.pid u t ∧
    ∀ p, u.ply? e.pid = some p → p.hnd = none → StandAt e.p e.act (e.pc + 12) t

/-- A transfer of control completes: the next state is what the effect left, retired, with every thread where the effect put it where no
handler runs. -/
def Moves (i : Instr) (e : Env) (s u : State) : Prop :=
  ∃ t, exec i s = .next t ∧ Retires e.pid u t ∧ ∀ p, u.ply? e.pid = some p → p.hnd = none → t.skeins = u.skeins

/-- An instruction begins, and its ply waits in it with what it has done so far (R86, R87). -/
def Begins (i : Instr) (e : Env) (s u : State) : Prop :=
  exec i s = .next (u.updPly e.pid fun p => { p with starve := 0, yld := false })

/-- An instruction traps with the effect so far (R105). -/
def Traps (i : Instr) (e : Env) (s u : State) (tr : Trap) : Prop := exec i s = .next (u.takeTrap e.pid tr)

/-- A ply has no deferred condition that an instruction takes (R109, R226). -/
def TakesNone (s : State) (pid : Nat) (ending : Bool) (ok : Cond → Bool) : Prop :=
  ∀ p, s.ply? pid = some p → (p.hnd.isSome = true ∧ ending = false) ∨ takeFirst ok p.conds = none

/-- A fresh acquire of the ply has begun at a level (R202, R123). -/
def leaving (e : Env) (level : Scope) (s : State) : State := s.freshOp.2.acqBegin s.nextOp e.pid level false

/-- The ply waits in the instruction for w. -/
def waits (e : Env) (w : Wait) (s : State) : State := s.updPly e.pid fun p => { p with wait := some w }

/-- The entry that a divergent BRA opens (R90): the fall-through part, which runs first, and the taken part. -/
def braEntry (e : Env) (r t : Addr) : DEntry :=
  { calli := false, lanes := e.act, rpc := some r, cpc := 0, cur := 0, parts := [⟨e.act &&& ~~~e.exec, nextPc e⟩, ⟨e.exec, t⟩],
    spilled := false }

/-- A thread whose newest return address has been popped: one on chip, or the newest spilled one (R217). -/
def popped (th : Thread) : Thread := { th with ra := th.ra.tail, rsn := if th.ra = [] then th.rsn - 1 else th.rsn }

/-- Every active lane has returned (R217). -/
def allPopped (e : Env) (s : State) : State := s.updThreads e.p.skein ((e.p.threadsOf e.act).map Prod.snd) fun _ th => popped th

/-- The address lies in the code window of the ply's context. -/
abbrev InCode (s : State) (e : Env) (a : Addr) : Prop := inWindow (envCtx e s) a.toNat = true

/-- RET goes on with a return address for each active lane, from the state u in which its addresses are at hand (R116, R222): every lane is
put at its address, with its stack popped, and lanes with different addresses part under the reconvergence point around them; no room for
the frame of that entry traps as STACK, an address outside the code window as ILLOP and one that is no multiple of 4 as MISALIGN, each in the lanes
that have one. -/
def ReturnsTo (f : Full) (e : Env) (s u : State) (ads : List (Nat × Addr)) : Prop :=
  ((∀ x ∈ ads, InCode s e x.2 ∧ x.2.toNat % 4 = 0) →
    ((groupByPc ads).length ≤ 1 → Moves (.ret f) e s ((allPopped e u).setPcs e.p ads)) ∧
    (1 < (groupByPc ads).length →
      (frameFull e.p = false → seqStall e u e.p.spillPlan.length = false →
        Moves (.ret f) e s ((pushSpill e (calliEntry e e.p.innerRpc (groupByPc ads)) (allPopped e u)).setPcs e.p ads)) ∧
      (frameFull e.p = true → ∃ tr, tr.code = 0x107 ∧ tr.lanes = maskOf (lanesOf e.act) ∧ Traps (.ret f) e s u tr))) ∧
  ((∃ x ∈ ads, ¬InCode s e x.2) →
    Traps (.ret f) e s u (Trap.plain 0x100 1 (maskOf ((ads.filter fun x => !inWindow (envCtx e s) x.2.toNat).map Prod.fst)))) ∧
  ((∀ x ∈ ads, InCode s e x.2) → (∃ x ∈ ads, x.2.toNat % 4 ≠ 0) →
    ∃ tr, tr.code = 0x104 ∧ tr.lanes = maskOf ((ads.filter fun x => x.2.toNat % 4 ≠ 0).map Prod.fst) ∧ Traps (.ret f) e s u tr)

/-! ## Operations that answer later (R18, R30) -/

/-- A register as an operation whose answer is outstanding leaves it: EMPTY, pending on the operation, its value kept (R30). -/
def Reg.awaits (r : Reg) (op : Nat) : Reg := { r with st := .empty, pend := some op }

/-- k registers of D from its first await an operation, in each executing lane or in the ply's s registers; every other v and s register is
as before (R30). -/
def MarksD (e : Env) (d : Operand) (k op : Nat) (s t : State) : Prop :=
  match d with
  | .v n => SameS s t ∧
    (∀ l tid i, (l, tid) ∈ e.p.threadsOf e.exec → (s.thread e.p.skein tid).isSome = true → i < k →
      t.vReg e.p.skein tid (n + i) = (s.vReg e.p.skein tid (n + i)).awaits op) ∧
    (∀ sk tid i, sk ≠ e.p.skein ∨ (∀ l, (l, tid) ∉ e.p.threadsOf e.exec) ∨ i < n ∨ n + k ≤ i → t.vReg sk tid i = s.vReg sk tid i)
  | .s n => SameV s t ∧
    (∀ i, (s.skeins.get e.p.skein).isSome = true → i < k → t.sRegOf e.pid (n + i) = (s.sRegOf e.pid (n + i)).awaits op) ∧
    (∀ q i, i < n ∨ n + k ≤ i → t.sRegOf q i = s.sRegOf q i) ∧
    (∀ q p i, s.ply? q = some p → q ≠ e.pid → 32 ≤ i ∨ p.skein ≠ e.p.skein → t.sRegOf q i = s.sRegOf q i)
  | _ => SameV s t ∧ SameS s t

/-- An instruction goes out as an operation numbered `s.nextOp` and completes: its counter counts the operation, D awaits it, the table of
requests holds it, no byte of memory changes, and the ply goes on (R18, R30, R181). -/
def GoesOut (i : Instr) (e : Env) (s : State) (d : Operand) (k : Nat) (r : MReq) : Prop :=
  ∃ t, exec i s = .next t ∧ Advances e 12 t ∧ MarksD e d k s.nextOp s t ∧ t.reqs.get s.nextOp = some r ∧ SameMemory s t ∧
    OtherPlies e.pid s t ∧ ∃ q, t.ply? e.pid = some q ∧
      KeepsPly { e.p with ops := e.p.ops ++ [{ id := s.nextOp, cls := r.cls, done := false }] } q

/-- The lanes of a memory instruction with their addresses (R156, R27). -/
def laneGas (s : State) (e : Env) (scalar : Bool) (f : Full) : List (Nat × Nat) := (memLanes e scalar).map fun l => (l, laneGa s e f l)

/-- The parts of a load, store or atomic of n bytes a lane, with the lanes' data and second operands (R180). -/
def laneParts (s : State) (e : Env) (gas : List (Nat × Nat)) (n : Nat) (data data2 : Nat → Nat) : List MPart :=
  gas.flatMap fun x => s.mkParts e.pid e.p x.1 ((e.p.tidAt x.1).getD 0) x.2 n (data x.1) (data2 x.1)

/-- The parts of SPILL and FILL: each lane's slots (R189, R192). -/
def slotParts (s : State) (e : Env) (f : Full) (data : Nat → Nat) : List MPart :=
  e.lanes.flatMap fun l => s.mkParts e.pid e.p l ((e.p.tidAt l).getD 0) (slotGa s e f l) (4 * mCount f) (data l) 0

/-- No write-combining entry of a slot holds bytes of the lines of a test, and none of their writes is unacknowledged (R208, R209). -/
def State.WcDry (s : State) (core slot : Nat) (meets : Nat → Nat → Bool) : Prop :=
  (∀ w ∈ s.wcOf core, w.slot = slot → meets w.dev w.line = false) ∧ s.wcWaiting core slot meets = false

/-- A line of the package's own exported space is one of global lines (R156). -/
def State.ownLine (s : State) (lines : List Nat) (dev line : Nat) : Bool := dev == s.mgmt.devidx && lines.contains (podVa (line * 64) / 64)

/-- Every part is one of global memory or of local store. -/
def Plain (ps : List MPart) : Prop := ps ≠ [] ∧ ∀ q ∈ ps, (∃ va, q.place = .global va) ∨ ∃ c off, q.place = .loc c off

/-- What an atomic asks for: its operation and order, at least strong (R186, R187). -/
def atomReq (kind : ReqKind) (cas : Bool) (f : Full) (e : Env) (ps : List MPart) : MReq :=
  { newReq e kind (if kind == .red then .st else .ld) f (if ty64 (mTyD f) then 2 else 1) (isS f.d) ps with
    aop := if cas then aopCas else mf f 17 14, n := 1, ord := if mOrd f = .weak then .strong else mOrd f }

/-- What an instruction of one answer asks for (SUBS, UNSUBS, SEGSTAT): a request of one part, whose answer is `dregs` registers wide. -/
def oneReq (e : Env) (f : Full) (kind : ReqKind) (ty : Ty) (dregs : Nat) (st : PSt) : MReq :=
  { newReq e kind .ld f dregs true [onePart e (4 * dregs) st] with ty := ty, n := 1, ord := .weak }

/-- An operation whose probe begins: its class counts it, the table of probes holds what the probe asks and what it is for, and the ply
waits in the instruction (R241, R243). -/
def probing (e : Env) (cls : Option Cls) (asks : List ProbeAsk) (what : ProbeFor) (s : State) : State :=
  let t := match cls with
    | some c => s.freshOp.2.updPly e.pid fun p => p.issueOp s.nextOp c
    | none => s.freshOp.2
  let pr : Probe := { pid := e.pid, uid := e.p.uid, skein := e.p.skein, slot := e.p.ctx, asks := asks, ph := .going [], what := what }
  waits e (.op s.nextOp) { t with probes := t.probes.set s.nextOp pr }

/-- What a barrier instruction asks for: its one part, at the barrier's place (R252, R253). -/
def tbReq (e : Env) (f : Full) (s : State) (cls : Cls) : MReq :=
  let q : MPart := { onePart e 16 .wait with ga := tbAddr s e f.a, place := s.placeOf e.pid e.p (tbAddr s e f.a) }
  { newReq e .tb cls f (if cls = .ld then 1 else 0) true [q] with ty := .n32, n := 1, ord := .strong }

/-- The update that a barrier instruction sends to the barrier's home (R252, R253). -/
def tbUpd (e : Env) (f : Full) (s : State) (init : Option Nat) (arr : Nat) (sect : Int) : TbUpd :=
  { ref := s.tbRef e.pid e.p (tbAddr s e f.a), slot := e.p.ctx, pid := e.pid, uid := e.p.uid, init := init, arr := arr, sect := sect, abt := false,
    err := false, req := some s.nextOp, eng := none, held := none }

/-- A barrier instruction, after the release that left s1, sends an update and completes: D awaits its answer where it has one, and no byte
of memory changes. -/
def SendsUpdate (i : Instr) (e : Env) (f : Full) (s s1 : State) (cls : Cls) (u : TbUpd) : Prop :=
  ∃ t, exec i s = .next t ∧ Advances e 12 t ∧ MarksD e f.d (if cls = .ld then 1 else 0) s1.nextOp s1 t ∧ SameMemory s1 t ∧
    t.reqs.get s1.nextOp = some (tbReq e f s1 cls) ∧ t.tbq = s1.tbq ++ [u]

/-- A matrix operation without a probe, as its instruction issues it (R265, R277, R283, R284): the fields, the operation, and the first and the
number of the v registers of each executing lane that it borrows. -/
def matRow? (s : State) (e : Env) : Instr → Option (Full × MatOp × Nat × Nat)
  | .acczero f => some (f, matNew e f .zero (mf f 4 0) (ownedRows s e fun _ => (0, 0)) 0, 0, 0)
  | .accmov f => some (f, matNew e f (.mov (mf f 21 16) (mf f 5 0 + 1)) 1 (ownedRows s e fun _ => (0, 0)) (64 / e.p.width * (mf f 5 0 + 1)), 0, 0)
  | .accfill f => some (f, lendRow f (.fill (mf f 21 16) (mf f 5 0 + 1)) (mf f 5 0 + 1))
  | .accrmax f => some (f, matNew e f .rmax 1 (ownedRows s e fun _ => (0, 0)) (64 / e.p.width), 0, 0)
  | .accrsum f => some (f, matNew e f .rsum 1 (ownedRows s e fun _ => (0, 0)) (64 / e.p.width), 0, 0)
  | .accrscl f => some (f, lendRow f (.rscl (mb f 26)) 1)
  | .accmapAdd f => some (f, lendRow f .madd 1)
  | .accmapMul f => some (f, lendRow f .mmul 1)
  | .accmapEx2 f => some (f, lendRow f (.mex2 (opVal s e.pid e.p (e.lanes.headD 0) false .f32 0 f.b)) 1)
  | .accmapRelu f => some (f, lendRow f .mrelu 0)
  | .accmapRnd f => some (f, lendRow f (.mrnd (mf f 31 29) (mb f 26)) 0)
  | _ => none
where
  /-- One that borrows n registers for each row that it owns. -/
  lendRow (f : Full) (kind : MatKind) (n : Nat) : MatOp × Nat × Nat :=
    (matNew e f kind 1 (ownedRows s e fun j => (vNum f.a + j * n, n)) 0, vNum f.a, 64 / e.p.width * n)

/-- MMA and MMAZ in their three forms: whether the tile counts as zero, and where A comes from (R265, R270, R272). -/
def mmaForm (s : State) (e : Env) : Instr → Option (Full × Bool × MatSrc)
  | .mmaAreg f => some (f, false, .areg)
  | .mmaAls f => some (f, false, alsSrc f e s)
  | .mmaAacc f => some (f, false, aaccSrc f)
  | .mmazAreg f => some (f, true, .areg)
  | .mmazAls f => some (f, true, alsSrc f e s)
  | .mmazAacc f => some (f, true, aaccSrc f)
  | _ => none

/-- The addresses in local store that an MMA names: A's where it reads A there, and B's (R270). -/
def MatSrc.addrs (src : MatSrc) (b : Nat) : List Nat := match src with
  | .als ga => [ga, b]
  | _ => [b]

/-- The tile that an MMA reads A from. -/
def MatSrc.tiles : MatSrc → List Nat
  | .aacc t _ => [t]
  | _ => []

/-- The registers of A that each row takes. -/
def MatSrc.regs (src : MatSrc) (f : Full) : Nat := match src with
  | .areg => areaRegs f
  | _ => 0

/-- An MMA has scales: SC, where A is no tile (R271). -/
def mmaSc (f : Full) (src : MatSrc) : Bool := mb f 28 && decide (src.tiles = [])

/-- The operation that an MMA or MMAZ issues (R265, R273, R276). -/
def mmaNew (s : State) (e : Env) (f : Full) (zero : Bool) (src : MatSrc) (b : Nat) : MatOp :=
  matNew e f (.mma zero (mf f 31 29) (mmaK f) (mmaSc f src) src b) 1 (ownedRows s e fun j => (vNum f.a + j * src.regs f, src.regs f)) 0

/-- The v registers of each executing lane that a matrix operation borrows (R276). -/
def lentRegs (e : Env) (op first n : Nat) : List Lent :=
  if n = 0 then [] else (e.p.threadsOf e.exec).map fun x => { op := op, skein := e.p.skein, tid := x.2, reg := first, n := n }

/-- A matrix operation issues, after the release that left s1: it is in its partition's order, its class counts it, the registers it
borrows are lent, its destinations await it, and no tile and no byte of memory changes. -/
def EntersMatrix (i : Instr) (e : Env) (f : Full) (o : MatOp) (first n : Nat) (s s1 : State) : Prop :=
  ∃ t, exec i s = .next t ∧ Advances e 12 t ∧ t.mats.get s1.nextOp = some { o with seq := s1.nextOp } ∧
    t.lent = s1.lent ++ lentRegs e s1.nextOp first n ∧
    MarksD e f.d o.dn s1.nextOp s1 t ∧ t.tiles = s1.tiles ∧ SameMemory s1 t ∧
    ∀ p, s1.ply? e.pid = some p → ∃ q, t.ply? e.pid = some q ∧ q.ops = p.ops ++ [{ id := s1.nextOp, cls := .mma, done := false }]

/-- Word i of ACCST's block (R279). -/
def accstWord (s : State) (e : Env) (f : Full) (i : Nat) : Word := match regAfter f.a i with
  | .s n => (s.sReg e.p n).val
  | _ => 0

/-- The address in words i and i + 1 of ACCST's block (R279). -/
def accstPair (s : State) (e : Env) (f : Full) (i : Nat) : Nat :=
  ((accstWord s e f i).toNat + (accstWord s e f (i + 1)).toNat * 2 ^ 32) % 2 ^ 56

/-- What ACCST's probe asks and the operation that it is for (R279, R281): its rows, with what SCM 1 lends, and its barrier. -/
def accstNew (t s : State) (e : Env) (f : Full) (x : Nat) : List ProbeAsk × MatOp :=
  let rows := ownedRows s e fun j => if mf f 31 30 = 1 then (vNum f.b + 2 * j, 2) else (0, 0)
  let bar := if mb f 16 then some (s.tbRef e.pid e.p (accstPair t e f 4)) else none
  (rowAsks x (accstWord t e f 0).toNat (accstWord t e f 1).toNat true rows ++ barAsks bar,
    matNew e f (.store (accstWord t e f 0).toNat (accstWord t e f 1).toNat (mf f 31 30) (mf f 29 28)
      (if mb f 27 then some (accstWord t e f 2) else none) bar (accstPair t e f 6) (mb f 26) (mb f 25) (BitVec.ofNat 512 x)) 1 rows 0)

/-- An instruction, after the release that left s1, goes out as an operation numbered `s1.nextOp` and completes: its counter counts the
operation, k registers of D await it, the table of requests holds it, and no byte of memory changes. -/
def GoesOutAfter (i : Instr) (e : Env) (s s1 : State) (d : Operand) (k : Nat) (r : MReq) : Prop :=
  ∃ t, exec i s = .next t ∧ Advances e 12 t ∧ MarksD e d k s1.nextOp s1 t ∧ t.reqs.get s1.nextOp = some r ∧ SameMemory s1 t ∧
    ∀ p, s1.ply? e.pid = some p → ∃ q, t.ply? e.pid = some q ∧ q.ops = p.ops ++ [{ id := s1.nextOp, cls := r.cls, done := false }]

/-- A request whose parts that await the reply n are as it left them. -/
def MReq.answered (r : MReq) (n : Nat) (st : MPart → PSt) : MReq :=
  { r with parts := r.parts.map fun y => if y.st = .sent n then { y with st := st y } else y }

/-- A request whose parts at a location have all ended, those that had not. -/
def MReq.failedAt (r : MReq) (ga : Nat) (st : PSt) : MReq :=
  { r with parts := r.parts.map fun y => if y.ga = ga ∧ y.st ≠ .fin then { y with st := st } else y }

/-- A store or a RED that takes no acquire when it finishes. -/
def MReq.FinishesStore (r : MReq) : Prop := (r.kind = .st ∨ r.kind = .red) ∧ r.acq = false ∧ r.ord ≠ .acq ∧ r.ord ≠ .ar

/-- A step takes the request n out of the table of requests outside the package, and leaves the access op as r, or, where every part of it
has finished, no longer outstanding (R183). -/
def Answered (i : Instr) (s : State) (n op : Nat) (r : MReq) (more : State → Prop) : Prop :=
  ∃ t, exec i s = .next t ∧ t.remote.get n = none ∧ ((∃ y ∈ r.parts, y.st ≠ .fin) → t.reqs.get op = some r) ∧
    ((∀ y ∈ r.parts, y.st = .fin) → t.reqs.get op = none) ∧ more t

/-- A port gives back the last of the packets that it had sent: they stand ahead of every other packet of the switch, each with one hop
less (R354, R356). -/
def GivesBack (k : Nat) (p : Port) (s t : State) : Prop :=
  (t.port k).wire = [] ∧ ∃ n, n ≤ p.wire.length ∧ t.fabOut = (p.wire.drop n).map (fun q => { q with hop := q.hop - 1 }) ++ s.fabOut

/-! ## Collective calls -/

/-- A chunk operation completes: its successors' counters go down, once for each entry that names them, and the call signals its barrier and
leaves when no other operation is left (R369, R375). -/
def OpEnds (c : Call) (call idx : Nat) (s t : State) : Prop :=
  ((∃ j, j ≠ idx ∧ j < c.ops.length ∧ (c.chunk j).ph ≠ .complete) → t.tbq = s.tbq ∧ ∃ c', t.calls.get call = some c' ∧
    (c'.chunk idx).ph = .complete ∧ ∀ j, j ≠ idx →
      c'.chunk j = { c.chunk j with cnt := (c.chunk j).cnt - ((coSuccs (c.co idx)).filter (· == j)).length }) ∧
  ((∀ j, j ≠ idx → j < c.ops.length → (c.chunk j).ph = .complete) → t.calls.get call = none ∧
    ∃ b, t.tbq = s.tbq ++ [b] ∧ b.ref = c.bar ∧ b.arr = 1 ∧ b.sect = 0 ∧ b.abt = false)

/-- A call ends by an abort: it leaves the engine, its barrier takes a decrement with ABT, and its group says so with the cause (R384, R388). -/
def CallAborts (c : Call) (call cause : Nat) (s t : State) : Prop :=
  t.calls.get call = none ∧ (∃ us b, t.tbq = us ++ [b] ∧ b.ref = c.bar ∧ b.arr = 1 ∧ b.sect = 0 ∧ b.abt = true) ∧
  ∀ g, s.groupSt c.slot c.group = some g → t.groupSt c.slot c.group = some { g with lab := true, lcause := cause }

/-! ## Messages -/

/-- What an instruction asks for whose words an engine has given already (R402). -/
def wordsReq (e : Env) (f : Full) (acq uns : Bool) (ws : List Nat) : MReq :=
  { newReq e .answer .ld f ws.length true [onePart e (4 * ws.length) (.ready (ws.flatMap (leBytes 4)))] with
    ty := .n32, n := ws.length, ord := if acq then .acq else .weak, scope := .pkg, uns := uns }

/-- The SEND that an instruction names: the tensor entry d, and the words of its block (R395). -/
def sendNew (e : Env) (f : Full) (d : Nat) (ws : List Word) : SendOp :=
  { pid := e.pid, uid := e.p.uid, skein := e.p.skein, slot := e.p.ctx, ep := mX f, dest := wordAt ws 0, tag := BitVec.ofNat 64 (pairAt ws 1),
    ent := BitVec.ofNat 512 d, off := wordAt ws 3, count := wordAt ws 4, msn := 0, clock := none, ph := .wait }

/-- The receive that RPOST names: the tensor entry d, the words of its block, and its barrier (R396). -/
def postNew (e : Env) (f : Full) (d : Nat) (ws : List Word) (bar : TbRef) : Post :=
  { op := 0, pid := e.pid, uid := e.p.uid, skein := e.p.skein, slot := e.p.ctx, ep := mX f, psrc := wordAt ws 0 % 65536,
    smask := wordAt ws 0 / 65536, ptag := BitVec.ofNat 64 (pairAt ws 1), tmask := BitVec.ofNat 64 (pairAt ws 3), ent := BitVec.ofNat 512 d,
    off := wordAt ws 5, count := wordAt ws 6, bar := bar, cookie := BitVec.ofNat 32 (wordAt ws 9), handle := 0 }

/-- The message of a SEND, as its endpoint sends it (R395). -/
def sendMsg (s : State) (n : Nat) (o : SendOp) (ep : Endpoint) (body : MsgBody) : MsgIn :=
  { ctxid := pktCtxid (s.ctx o.slot), ep := o.ep, src := .rank ep.rank s.mgmt.devidx, tag := o.tag, len := o.len, msn := o.msn, send := n, body := body }

/-- One packet goes to another package. -/
def SendsPkt (dst : Nat) (b : FabBody) (s t : State) : Prop := ∃ pk, t.fabOut = s.fabOut ++ [pk] ∧ pk.dst = dst ∧ pk.body = b

/-! ## The boot -/

/-- So many steps of the boot. -/
def bootRun : Nat → State → State
  | 0, s => s
  | n + 1, s => bootRun n s.bootStep

/-! ## Invariants -/

/-- The memories are in canonical form: addresses rise strictly, and no entry equals what an unlisted address reads as. -/
def CanonicalMemory (s : State) : Prop := Mem.wf s.hbm = true ∧ Mem.wf s.ls = true

/-- No instruction row stands on the agenda as an event: an instruction runs only where a ply issues it. -/
def EventsOnly (s : State) : Prop := ∀ i, Choice.event i ∈ s.agenda → i.coded = false

end Sys2Proof.Machine
end

