-- ==== Sys2Proof/Certificates/Slice0/Obligations.lean ====
section
/-! DEFINITION. The statements for the provers, family by family. -/

open Sys2Proof Sys2Proof.Machine

/-! ## Encoding -/

/-- R34, R35, R37 and R50 to R58: words written out from the encoding of one instruction of each family, field by field from the
frame down, decode to that instruction. -/
def Obligations.DecodedWords : Prop :=
  let word (ps : List Nat) : List Byte := ps.flatMap (leBytes 4)
  let bare : Guard := { en := false, inv := false, reg := 0 }
  decode (word [0b11_00100000_000000_1_1_00011_000000010, 0b1_0000000001_1100000010_001_00000000, 0b10000_000_0_00000_0_0_0000000000000000]) =
    .ok (.iadd ⟨⟨true, true, 3⟩, .v 5, .v 1, .s 2, false, false, true, 0, 0x80000000⟩, []) ∧
  decode (word [0b11_00000001_000000_1_1_00010_000000000, 0, 0b0000000000001001_0000000000001001]) =
    .ok (.bra ⟨⟨true, true, 2⟩, .v 0, .v 0, .v 0, false, false, false, 0, 0x00090009⟩, []) ∧
  decode (word [0b11_01010010_000000_1_0_00011_000000101, 0b0_0000001011_0000001100_001_10000000, 0]) =
    .ok (.ffma ⟨⟨true, false, 3⟩, .v 10, .v 11, .v 12, false, false, true, 0x80, 0⟩, []) ∧
  decode (word [0b11_10000001_000000_0_0_00000_000000001, 0b1_0000000100_1100000010_010_00000000, 0b10000_000_0_00000_0_0_0000000000000000]) =
    .ok (.bcst ⟨bare, .v 3, .v 4, .s 2, false, true, false, 0, 0x80000000⟩, []) ∧
  decode (word [0b11_10010000_000000_0_0_00000_000000100, 0b0_1100000100_0000000000_000_00000000, 0b10001_001_011_0_00_0000_00_111111111000]) =
    .ok (.ld ⟨bare, .v 8, .s 4, .v 0, false, false, false, 0, 0x89600FF8⟩, []) ∧
  decode (word [0b11_10110001_000000_0_0_00000_110011001, 0b0_1101000000_0000000000_000_00000000, 0b00000000_000000000101_000000000110]) =
    .ok (.tcpy ⟨bare, .s 50, .s 64, .v 0, false, false, false, 0, 0x5006⟩, []) ∧
  decode (word [0b11_11000001_000001_0_0_00000_000000000, 0b0_1100101010_1100101100_000_00000000, 0b000_0_000000000000_0000_000000_000011]) =
    .ok (.mmazAls ⟨bare, .v 0, .s 42, .s 44, false, false, false, 0, 3⟩, []) ∧
  decode (word [0b11_11000010_000000_0_0_00000_110000010, 0b1_0000000000_0000000000_000_00000000, 0b00000001_000000000000_000000000100]) =
    .ok (.accallocTry ⟨bare, .s 5, .v 0, .v 0, false, false, false, 0, 0x01000004⟩, []) ∧
  decode (word [0b11_11010000_000000_0_0_00000_110011000, 0, 0b00000000_000000000001_000000000000]) =
    .ok (.draw ⟨bare, .s 48, .v 0, .v 0, false, false, false, 0, 0x1000⟩, []) ∧
  decode (word [0b11_11011000_000000_0_0_00000_000000000, 0b0_1100101000_1100110000_000_00000000, 0b00000010_000000000101_000000000000]) =
    .ok (.mcst ⟨bare, .v 0, .s 40, .s 48, false, false, false, 0, 0x02005000⟩, []) ∧
  decode (word [0b11_11100001_000000_0_0_00000_110011001, 0b0_1101000000_0000000000_000_00000000, 0b00000001_000000000000_000000000000]) =
    .ok (.cgrun ⟨bare, .s 50, .s 64, .v 0, false, false, false, 0, 0x01000000⟩, []) ∧
  decode (word [0b11_11101001_000000_0_0_00000_110010100, 0b0_1101000000_0000000000_000_00000000, 0b00000000_000000000000_000000000010]) =
    .ok (.rpost ⟨bare, .s 40, .s 64, .v 0, false, false, false, 0, 2⟩, []) ∧
  decode (word [0b10_00000_00010_001000_001001_000011_00, 0b011_000001010_000001011_000001100_0_0]) =
    .ok (.pair { g := 0, sop := .iaddI, sd := 8, sa := 9, sb := 3, vop := .ffma, vd := 10, va := 11, vb := 12, reuse := false, yld := false }, [])

/-- R34, R49 and R62: no reserved encoding is read as an instruction: frames 0b00 and 0b01 are refused, every major opcode without a
row by its own cause, and a function without a row of an assigned major opcode by another. -/
def Obligations.ReservedRefused : Prop :=
  (∀ bs : List Byte, 4 ≤ bs.length → parcelAt bs 0 / 2 ^ 31 % 2 = 0 → decode bs = .error .frame) ∧
  (∀ (bs : List Byte) (maj fn : Nat), 12 ≤ bs.length → parcelAt bs 0 / 2 ^ 30 % 4 = 3 → maj = parcelAt bs 0 / 2 ^ 22 % 256 →
    fn = parcelAt bs 0 / 2 ^ 16 % 64 →
    ((∀ r ∈ ops, r.maj ≠ maj) → decode bs = .error .maj) ∧
    (maj ≠ 0x58 → maj ≠ 0xC0 → maj ≠ 0xC1 → maj ≠ 0xCC → (∃ r ∈ ops, r.maj = maj) → fn ≠ 0 → decode bs = .error .fn) ∧
    (maj = 0x58 → 7 < fn → decode bs = .error .fn) ∧ (maj = 0xC0 ∨ maj = 0xC1 → 2 < fn → decode bs = .error .fn) ∧
    (maj = 0xCC → 4 < fn → decode bs = .error .fn)) ∧
  ∀ bs : List Byte, bs.length < 4 → decode bs = .error .short

/-- R22, R34 to R38 and R49 to R58: decoding what the encoder lays out gives the instruction back, with every field at every value
that its bits hold, and leaves the bytes that follow. -/
def Obligations.DecodeEncode : Prop :=
  ∀ (i : Instr) (rest : List Byte), i.wf = true → i.coded = true → decode (encode i ++ rest) = .ok (i, rest)

/-- R22, R34 to R38: the bytes that an instruction was read from are its encoding, so two byte strings never stand for one
instruction and no bit of an encoding is dropped. -/
def Obligations.EncodeDecode : Prop :=
  ∀ (i : Instr) (bs rest : List Byte), decode bs = .ok (i, rest) → i.wf = true ∧ i.coded = true ∧ encode i ++ rest = bs

/-! ## The step -/

/-- R31, R34, R86 and R87: a step runs the decoded instruction. Where the agenda names a partition with a slot to use and the
bytes at the PC of the first ply in its order decode to i, the step is what exec of i makes of the state with that ply selected,
with the slot used and the telemetry written; one that did not issue leaves the slot to the next ply in the order. The ply is not
asleep (R126), and no divergence entry of it is to be read back first (R94). An event on the agenda is run by exec, the clock ticks when
no partition has a slot left, and an empty agenda takes the model's own round (log entry 18). -/
def Obligations.StepRunsDecoded : Prop :=
  ∀ (s u : State) (cs : List Choice), u = { s with agenda := cs } →
    (∀ (part pid : Nat) (w : State) (p : Ply) (ids : List Nat) (bs rest : List Byte) (i : Instr) (t : State), s.agenda = .issue part :: cs →
      u.mayIssue part = true → w = u.wake exec part → w.order part = pid :: ids → w.ply? pid = some p → p.asleep = false → p.entNext = none →
      w.fetch pid p = .bytes bs →
      decode (padBytes bs) = .ok (i, rest) → exec i (w.select pid) = .next t →
      (t.stall = false → step s = .next (t.deselect.endSlot exec part (some pid)).telFlush) ∧
      (t.stall = true → ∀ who v, tryPlies exec ids t.deselect = (who, .next v) → step s = .next (v.endSlot exec part who).telFlush)) ∧
    (∀ (i : Instr) (t : State), s.agenda = .event i :: cs → exec i u = .next t → step s = .next t.telFlush) ∧
    (s.agenda = .clock :: cs → u.duePart = none → step s = .next u.tick.telFlush) ∧
    (s.agenda = [] → step s = .next { s with agenda := s.auto })

/-- An encoding that is no instruction, and a fetch outside the code window or of a line that failed, trap as ILLOP with their
cause in every active lane of the ply whose turn it is (R31, R61, R62); a line that the instruction cache lacks holds the ply back
(R86), and so do the slots of a SLEEP (R126); a divergence entry that the ply needs from memory is read back first (R94). -/
def Obligations.FetchTraps : Prop :=
  ∀ (s : State) (pid : Nat) (p : Ply), s.ply? pid = some p →
    (p.asleep = true → tryPly exec pid s = .next { s with stall := true }) ∧
    (∀ i, p.asleep = false → p.entNext = some i → tryPly exec pid s = .next (s.deselect.entBack pid p i)) ∧
    (p.asleep = false → p.entNext = none →
      (∀ sub line, s.nextInstr pid p = .illop sub line → ∃ t, tryPly exec pid s = .next t ∧ t.stall = false ∧
        t.ply? pid = (s.takeTrap pid (Trap.plain 0x100 sub p.active)).ply? pid) ∧
      (s.fetch pid p = .miss → tryPly exec pid s = .next { s with stall := true })) ∧
    (inWindow (s.ctx p.ctx) (s.plyPc p).toNat = false → s.nextInstr pid p = .illop 1 none) ∧
    (∀ (pc : Nat) (key : Nat → Nat), pc = (s.plyPc p).toNat → (∀ n, key n = icKey (plyCore pid) (s.slotAsid p.ctx) (pc / 64 + n)) → pc % 4 = 0 → pc + 11 < 2 ^ 48 →
      (∀ i, i < 12 → inWindow (s.ctx p.ctx) (pc + i) = true) →
      (s.ic.get (key 0) = some .bad → s.nextInstr pid p = .illop 1 (some (key 0))) ∧
      (∀ d, s.ic.get (key 0) = some (.data d) → s.ic.get (key 1) = some .bad → 64 < pc % 64 + formSize (leNat (lineSlice d (pc % 64) 4)) →
        s.nextInstr pid p = .illop 1 (some (key 1)))) ∧
    (∀ bs c, s.fetch pid p = .bytes bs → decode (padBytes bs) = .error c →
      s.nextInstr pid p = .illop (match c with
        | .maj => 2
        | .fn => 3
        | _ => 1) none)

/-- No step of the machine stops (R3, R31): every instruction row that runs while a resident ply issues it, and every other row in
every state, answers a next state. -/
def Obligations.NothingStops : Prop :=
  ∀ (i : Instr) (s : State), (pipe s i = none → ∃ t, exec i s = .next t) ∧
    ∀ pid p, s.sel = some pid → s.ply? pid = some p → ∃ t, exec i s = .next t

/-- R287, R29, R447: the state right after reset: no ply, skein, context or request is resident, every register that a thread
could read is 0 and FULL, no module of the package is launched, and the management processor is at stage 0. Memory reads as zero,
which is the model's choice (log entries 2 and 3). The reset state's memories are in canonical form, and it holds no instruction
as an event. -/
def Obligations.ResetState : Prop :=
  (State.reset.plies = [] ∧ State.reset.skeins = [] ∧ State.reset.ctxs = [] ∧ State.reset.reqs = [] ∧ State.reset.agenda = [] ∧
  State.reset.mgmt.stage = 0 ∧ (∀ k, (State.reset.ctx k).st = .idle) ∧ (∀ p n, State.reset.sReg p n = Reg.launch ∧ Reg.launch.val = 0 ∧
    Reg.launch.st = .full) ∧ (∀ part, State.reset.mayIssue part = false) ∧
  (∀ a, Mem.get State.reset.hbm a = 0) ∧ (∀ a, Mem.get State.reset.ls a = 0)) ∧
  CanonicalMemory State.reset ∧ EventsOnly State.reset

/-- The canonical form of memory is kept by every step: no byte is listed twice, out of order, or at the value an unlisted one
reads as, so equal memories are equal data. -/
def Obligations.MemoryStaysCanonical : Prop :=
  ∀ s t : State, CanonicalMemory s → step s = .next t → CanonicalMemory t

/-! ## Arithmetic -/

/-- R136 to R141: an integer or bit instruction that executes completes: D takes the table's result in every executing lane,
computed from the operands as they stood before it, FPX and every other register stay, nothing outside the ply changes, and the
ply goes on 12 bytes ahead. -/
def Obligations.IntegerResults : Prop :=
  ∀ (i : Instr) (f : Full) (r : AluRow) (s : State) (e : Env), intRow i = some (f, r) → Executing i s e →
    ∃ t, exec i s = .next t ∧ r.Effect f e s t

/-- R142 to R147, R149 and R150 with R74 and R80: a floating-point, conversion, packing or random instruction that executes
completes: D takes the table's result, FPX the OR of the flags of the lanes that compute, and RNGCTR advances once where the
instruction draws a random word. R148 with R77 and R69: CVTS whose tensor entry x is at hand narrows the scaled elements of each
lane; an entry that is not valid reads as a scale of 1.0. Within R78's bound the results of FEX2, FLG2, FSIN, FCOS and FTANH are the model's choice
(log entry 6), and so are the word of a scalar `.sr` (log entry 16), the immediates of CVT and FSCALE (log entry 17) and the flags where several
rules meet (log entries 110, 119 and 120). -/
def Obligations.FloatResults : Prop :=
  (∀ (i : Instr) (f : Full) (r : AluRow) (s : State) (e : Env), floatRow i = some (f, r) → Executing i s e →
    ∃ t, exec i s = .next t ∧ r.Effect f e s t) ∧
  ∀ (f : Full) (s : State) (e : Env) (x : Nat), Executing (.cvts f) s e →
    s.tidGet (unitCore (plyCore e.pid)) (s.plyAgent e.pid e.p.uid e.p.skein e.p.ctx 0) (mf f 11 0) = (s, some x) →
    ∃ t, exec (.cvts f) s = .next t ∧
      AluRow.Effect ⟨aluSr f, fun s e i =>
        cvtsPack (mTyD f) (rmSat f) i.sr ((List.range (cvtsN f)).map fun k =>
          cvtsIn (mEx f) (if tidValid x then tidTscale x else 0x3F800000) (if tidValid x then tidRcp x else 0x3F800000)
            (cvtsScale (mTyD f) (cvtsB f i.b)) (opWord s e i.l f.a k))⟩ f e s t

/-- R38, R57 and R58: a pair that executes completes: its scalar half writes s(sd + 32) and its vector half v(vd) in each
executing lane, both computed from the registers as they stood before it; FPX takes the flags of both; the ply goes on 8 bytes
ahead, and nothing else changes. -/
def Obligations.PairResult : Prop :=
  ∀ (q : Pair) (s : State) (e : Env), Executing (.pair q) s e →
    ∃ t, exec (.pair q) s = .next t ∧ Advances e 8 t ∧ OnlyPlies s t ∧ OtherPlies e.pid s t ∧ SameStacks s t ∧
      (if q.sop = .nop then SameS s t else WritesS e (q.sd.toNat + 32) (if sopWide q.sop then 2 else 1) (pairScalar q e s).1 s t) ∧
      (if q.vop = .nop then SameV s t else WritesV e q.vd.toNat 1 (fun l => (pairVector q e s l).1) s t) ∧
      ∃ p, t.ply? e.pid = some p ∧ KeepsPly { e.p with csr := csrAfter e.p.csr ((pairScalar q e s).2 |||
        orAll (if q.vop = .nop then [] else e.lanes.map fun l => (pairVector q e s l).2)) false } p

/-- R151 to R155: a lane-exchange instruction that executes writes the table's result, computed from all lanes' sources before any
is written, and changes nothing else. BCST checks A in its source lane with its other registers (R32): with B FULL and no guard register
FAULTED, an A that is FAULTED there traps, one that is EMPTY under its mode bit traps, and one that is EMPTY otherwise makes the ply switch
parts and try again. That a trap is raised in every executing lane, whichever lane the source is, is the model's choice (log entry 145), and
so is that the first executing lane's A is its inclusive result in SCAN as it stands (log entry 146). -/
def Obligations.LaneExchange : Prop :=
  (∀ (i : Instr) (s : State) (e : Env) (f : Full) (k : Nat) (val : Nat → Nat) (fl : Flags), Executing i s e →
    laneRow s e i = some (f, k, val, fl) → ∃ t, exec i s = .next t ∧ Computes e 12 f.d k val fl false s t) ∧
  ∀ (f : Full) (s : State) (e : Env) (j : Nat) (rs : List Reg), Issuing f.g s e → e.exec ≠ 0 →
    issueCauses (bcstSpec s f) (s.ctx e.p.ctx) e.pc = [] → j = bcstLane s e.pid e.p f → (e.p.tidAt j).isSome = true →
    regsFull s e.p e.act [⟨f.b, 1, false⟩] = true →
    (∀ l tid, f.g.en = true → (l, tid) ∈ e.p.threadsOf e.act → (s.vReg e.p.skein tid f.g.reg).st ≠ .faulted) →
    rs = (rangeRegs s e.p (1#64 <<< j) ⟨f.a, if ty64' f then 2 else 1, f.wa⟩).map Prod.snd →
    ((∃ r ∈ rs, r.st = .faulted) → ∃ tr, tr.code = 0x103 ∧ tr.lanes = e.exec ∧ Traps (.bcst f) e s s tr) ∧
    ((∀ r ∈ rs, r.st ≠ .faulted) → (∃ r ∈ rs, r.st = .empty) →
      (f.wa = true → Traps (.bcst f) e s s (Trap.plain 0x102 0 e.exec)) ∧
      (f.wa = false → exec (.bcst f) s = .next (s.trySwitch e.pid)))

/-! ## Issue -/

/-- R31, R32, R61, R62, R86, R101, R18: what keeps an instruction from its effect, for every instruction that a ply issues: the
least cause of an illegal encoding, or of a next instruction outside the code window, traps as ILLOP in all active lanes, and then a
check of a named resource with TRAPSUB 0x0A, before any register is read. Of the guard register in the active lanes and the operands
in the executing ones, one that is FAULTED traps; with none FAULTED, one that is EMPTY under a mode bit traps; and one that is EMPTY
otherwise makes the ply switch parts and try again. Then a destination lent to the matrix engine or a full counter makes it try again;
and nothing else changes. BCST's A in its source lane is among the operands (R153). A switch of parts whose entry is in memory reads it
back first (R94). -/
def Obligations.IssueRules : Prop :=
  (∀ (s : State) (pid : Nat), (∀ i, s.switchDue pid = some i → (s.ply? pid).bind Ply.wait = none → s.trySwitch pid = s.callEnt pid i) ∧
    (s.switchDue pid = none ∨ (s.ply? pid).bind Ply.wait ≠ none → s.trySwitch pid = { s.switchPart pid with stall := true })) ∧
  ∀ (i : Instr) (s : State) (sp : Spec) (early : Env → State → Pre) (e : Env) (regs : List (Reg × Bool)), pipe s i = some (sp, early) →
    Issuing sp.guard s e →
    regs = (regItems s e.p ((guardReads sp.guard).map fun r => (e.act, r))).map (fun x => (x.1.2, x.2)) ++ (if e.exec = 0 then [] else
      sp.own ++ (regItems s e.p (sp.reads.map fun r => (e.exec, r))).map fun x => (x.1.2, x.2)) →
    (∀ k, minCause (issueCauses sp (s.ctx e.p.ctx) e.pc) = some k → Traps i e s s (Trap.plain 0x100 k e.act)) ∧
    (issueCauses sp (s.ctx e.p.ctx) e.pc = [] →
      (early { e with exec := 0 } s = .refuse → Traps i e s s (Trap.plain 0x100 0x0A e.act)) ∧
      (∀ t, early { e with exec := 0 } s = .stall t → exec i s = .next { t with stall := true }) ∧
      (early { e with exec := 0 } s = .go s →
        ((∃ x ∈ regs, x.1.st = .faulted) → ∃ tr, tr.code = 0x103 ∧ Traps i e s s tr) ∧
        ((∀ x ∈ regs, x.1.st ≠ .faulted) →
          ((∃ x ∈ regs, x.1.st = .empty ∧ x.2 = true) → ∃ tr, tr.code = 0x102 ∧ tr.sub = 0 ∧ Traps i e s s tr) ∧
          ((∀ x ∈ regs, x.1.st = .empty → x.2 = false) → (∃ x ∈ regs, x.1.st = .empty) → exec i s = .next (s.trySwitch e.pid))) ∧
        ((∀ x ∈ regs, x.1.st = .full) → e.exec ≠ 0 →
          writesLent s e.p e.exec sp.writes = true ∨ classFull e.p sp.cls = true → exec i s = .next { s with stall := true })))

/-- R36: an instruction whose guard is true in no active lane has no effect: the ply goes on past it, and every register, counter
and byte of memory is as before. BRA, CALLI, REFORM and EXIT, which need not go on, do so where the next instruction is in the
code window. R50 and R115: NOP only goes on: every register, counter and byte of memory is as before. -/
def Obligations.FalseGuard : Prop :=
  (∀ (i : Instr) (s : State) (sp : Spec) (early : Env → State → Pre) (e : Env), pipe s i = some (sp, early) →
    Issuing sp.guard s e → Legal sp early s s e → e.exec = 0 →
    (sp.seq = true → ∃ t, exec i s = .next t ∧ Retires e.pid s t ∧ Advances e sp.size t) ∧
    (∀ f, i = .bra f → InCode s e (pcRel e 16 (mf f 31 16)) → InCode s e (pcRel e 16 (mf f 15 0)) → InCode s e (nextPc e) →
      ∃ t, exec i s = .next t ∧ Retires e.pid s t ∧ Advances e 12 t) ∧
    (∀ f, i = .calli f ∨ i = .reform f ∨ i = .exit f → InCode s e (nextPc e) →
      ∃ t, exec i s = .next t ∧ Retires e.pid s t ∧ Advances e 12 t)) ∧
  ∀ (f : Full) (s : State) (e : Env), Executing (.nop f) s e → ∃ t, exec (.nop f) s = .next t ∧ Retires e.pid s t ∧ Advances e 12 t

/-! ## Control flow -/

/-- R117 and R118: BRA, JMP and JMPR. A branch taken by every active lane, a jump and a computed jump to a multiple of 4 put all
active lanes at the target; a branch that only some take puts those at the target and the others at the next instruction and opens
an entry whose parts they are, the oldest of 16 entries on chip being spilled; no register changes. A branch that finds no room for its
frame traps as STACK. A jump to an address outside the code window traps as ILLOP in all active lanes, and a computed one to an address that is no
multiple of 4 as MISALIGN. A branch whose target or reconvergence point is outside the code window traps as ILLOP in its executing lanes, with which
the lanes that would go on at a next instruction outside the window trap; that both kinds of address count for every executing lane is the
model's choice (log entry 125), and so is what a push waits for and which entries it stores (log entries 24 and 25). -/
def Obligations.Jumps : Prop :=
  ∀ (f : Full) (s : State) (e : Env),
    (Executing (.jmp f) s e →
      (InCode s e (pcRel e 32 f.m.toNat) → Moves (.jmp f) e s (s.setPc e.p e.act (pcRel e 32 f.m.toNat))) ∧
      (¬InCode s e (pcRel e 32 f.m.toNat) → Traps (.jmp f) e s s (Trap.plain 0x100 1 (maskOf (lanesOf e.act))))) ∧
    (∀ a, a = BitVec.ofNat 56 (sPairVal s e.p f.a) → Executing (.jmpr f) s e →
      (InCode s e a → a.toNat % 4 = 0 → Moves (.jmpr f) e s (s.setPc e.p e.act a)) ∧
      (¬InCode s e a → Traps (.jmpr f) e s s (Trap.plain 0x100 1 (maskOf (lanesOf e.act)))) ∧
      (InCode s e a → a.toNat % 4 ≠ 0 → e.act ≠ 0 → ∃ tr, tr.code = 0x104 ∧ tr.lanes = maskOf (lanesOf e.act) ∧ Traps (.jmpr f) e s s tr)) ∧
    (∀ t r, t = pcRel e 16 (mf f 31 16) → r = pcRel e 16 (mf f 15 0) → Executing (.bra f) s e →
      (InCode s e t → InCode s e r →
        (e.act &&& ~~~e.exec = 0 → Moves (.bra f) e s (s.setPc e.p e.act t)) ∧
        (e.act &&& ~~~e.exec ≠ 0 → InCode s e (nextPc e) →
          (e.p.depth < 16 → Moves (.bra f) e s
            (((s.pushEntry e.pid e.pc (braEntry e r t)).setPc e.p (e.act &&& ~~~e.exec) (nextPc e)).setPc e.p e.exec t)) ∧
          (16 ≤ e.p.depth → frameFull e.p = false → seqStall e s e.p.spillPlan.length = false → Moves (.bra f) e s
            (((pushSpill e (braEntry e r t) s).setPc e.p (e.act &&& ~~~e.exec) (nextPc e)).setPc e.p e.exec t)) ∧
          (frameFull e.p = true → ∃ tr, tr.code = 0x107 ∧ tr.lanes = maskOf (lanesOf e.exec) ∧ Traps (.bra f) e s s tr))) ∧
      (¬InCode s e t ∨ ¬InCode s e r ∨ (e.act &&& ~~~e.exec ≠ 0 ∧ ¬InCode s e (nextPc e)) → Traps (.bra f) e s s (Trap.plain 0x100 1
        ((if InCode s e t ∧ InCode s e r then 0 else e.exec) ||| if InCode s e (nextPc e) then 0 else e.act &&& ~~~e.exec))))

/-- R119, R216 and R219: CALL and CALLI. CALL pushes the next address on every active lane's return stack and puts the lanes at
the target; CALLI pushes it for its executing lanes and puts each at its own target and the others at the next instruction,
opening an entry where they part. A return stack or a frame area without room traps as STACK; a target outside the code window traps as
ILLOP in the lanes that name one, with the lanes that would go on past the window, and a target that is no multiple of 4 as MISALIGN in the lanes
that name one. What a push of an entry waits for and stores is the model's choice (log entries 24 and 25). R216: PushRA. Each thread's new top is
the return address; with four on chip the oldest leaves the chip and RSN counts it. -/
def Obligations.Calls : Prop :=
  (∀ (f : Full) (s : State) (e : Env),
    (Executing (.call f) s e → ¬InCode s e (pcRel e 32 f.m.toNat) → Traps (.call f) e s s (Trap.plain 0x100 1 (maskOf (lanesOf e.act)))) ∧
    (Executing (.call f) s e → InCode s e (pcRel e 32 f.m.toNat) →
      (pushFull (s.threadList e.p e.act) = [] → seqStall e s (b2n (pushSpills e e.act s)) = false →
        Moves (.call f) e s ((pushRas e e.act (nextPc e) s).setPc e.p e.act (pcRel e 32 f.m.toNat))) ∧
      (pushFull (s.threadList e.p e.act) ≠ [] → ∃ tr, tr.code = 0x107 ∧
        tr.lanes = maskOf ((pushFull (s.threadList e.p e.act)).map Prod.fst) ∧ Traps (.call f) e s s tr)) ∧
    (∀ cs out, cs = e.lanes.map (fun l => (l, BitVec.ofNat 56 (opVal s e.pid e.p l true .n64 0 f.a))) → out = e.act &&& ~~~e.exec →
      Executing (.calli f) s e →
      ((∃ x ∈ cs, ¬InCode s e x.2) ∨ (out ≠ 0 ∧ ¬InCode s e (nextPc e)) → Traps (.calli f) e s s (Trap.plain 0x100 1
        (maskOf ((cs.filter fun x => !inWindow (envCtx e s) x.2.toNat).map Prod.fst) ||| if InCode s e (nextPc e) then 0 else out))) ∧
      ((∀ x ∈ cs, InCode s e x.2) → (out ≠ 0 → InCode s e (nextPc e)) →
        ((∃ x ∈ cs, x.2.toNat % 4 ≠ 0) → ∃ tr, tr.code = 0x104 ∧ tr.lanes = maskOf ((cs.filter fun x => x.2.toNat % 4 ≠ 0).map Prod.fst) ∧
          Traps (.calli f) e s s tr) ∧
        ((∀ x ∈ cs, x.2.toNat % 4 = 0) →
          ((out ≠ 0 ∨ 1 < (groupByPc cs).length) → frameFull e.p = true → ∃ tr, tr.code = 0x107 ∧ tr.lanes = maskOf (lanesOf e.exec) ∧
            Traps (.calli f) e s s tr) ∧
          ((out = 0 ∧ (groupByPc cs).length ≤ 1) ∨ frameFull e.p = false → pushFull (s.threadList e.p e.exec) ≠ [] → ∃ tr, tr.code = 0x107 ∧
            tr.lanes = maskOf ((pushFull (s.threadList e.p e.exec)).map Prod.fst) ∧ Traps (.calli f) e s s tr) ∧
          (pushFull (s.threadList e.p e.exec) = [] →
            (out = 0 → (groupByPc cs).length ≤ 1 → seqStall e s (b2n (pushSpills e e.exec s)) = false →
              Moves (.calli f) e s (((pushRas e e.exec (nextPc e) s).setPcs e.p cs).setPc e.p out (nextPc e))) ∧
            (out ≠ 0 ∨ 1 < (groupByPc cs).length → frameFull e.p = false →
              seqStall e s (e.p.spillPlan.length + b2n (pushSpills e e.exec s)) = false →
              Moves (.calli f) e s (((pushSpill e (calliEntry e (some (nextPc e)) (groupByPc cs ++ if out != 0 then [⟨out, nextPc e⟩] else []))
                (pushRas e e.exec (nextPc e) s)).setPcs e.p cs).setPc e.p out (nextPc e)))))))) ∧
  ∀ (e : Env) (m : Mask) (ra : Addr) (s : State) (l tid : Nat) (th : Thread), (l, tid) ∈ e.p.threadsOf m → s.thread e.p.skein tid = some th →
    (pushRas e m ra s).thread e.p.skein tid = some { th with
      ra := ra :: th.ra.take (if th.ra.length = 4 then 3 else th.ra.length), rsn := if th.ra.length = 4 then th.rsn + 1 else th.rsn }

/-- R222, R217 and R116: RET with every active lane's return address on chip pops it and puts each lane there, opening an entry where
they part under the reconvergence point around them; a lane without any traps as STACK, and so does an entry whose frame has no room;
an address outside the code window traps as ILLOP, and one that is no multiple of 4 as MISALIGN, each in the lanes that have one. That a RET in a
handler looks only at the handler's own entries for the point around it is the model's choice (log entry 148), and so is what the push of an entry
and the refills count and wait for (log entries 24 and 25). Where some lane's newest address was spilled, one load of every such lane's slot is requested and the ply waits in the instruction; when they have arrived RET goes on with
them in the same way, and one that failed traps as FAULTED with its subtype in the lanes whose slots failed. -/
def Obligations.Returns : Prop :=
  ∀ (f : Full) (s : State) (e : Env) (ts need : List (Nat × Nat × Thread)) (ads : List (Nat × Addr)), Executing (.ret f) s e →
    ts = s.threadList e.p e.act → need = (ts.filter fun x => x.2.2.ra.isEmpty) →
    ads = ts.filterMap (fun x => x.2.2.ra.head?.map fun a => (x.1, a)) →
    ((ts.filter fun x => x.2.2.ra.isEmpty && x.2.2.rsn = 0) ≠ [] → ∃ tr, tr.code = 0x107 ∧
      tr.lanes = maskOf ((ts.filter fun x => x.2.2.ra.isEmpty && x.2.2.rsn = 0).map Prod.fst) ∧ Traps (.ret f) e s s tr) ∧
    (need = [] → ReturnsTo f e s s ads) ∧
    ((ts.filter fun x => x.2.2.ra.isEmpty && x.2.2.rsn = 0) = [] → need ≠ [] →
      (∀ r, e.p.wait = none → s.acquiring e.p e.pid = false → e.p.full .ld = false →
        r = seqReq e .refill .ld .n64 (need.flatMap fun x => s.mkParts e.pid e.p x.1 x.2.1 (raSlot e s x.2.1 (x.2.2.rsn - 1)) 8 0 0) →
        Begins (.ret f) e s (waits e (.op (s.enter r).2) (s.enter r).1)) ∧
      (∀ op r u, e.p.wait = some (.op op) → s.reqs.get op = some r → u = State.completeOp { s with reqs := s.reqs.del op } e.pid op →
        ((∀ q ∈ r.parts, ∃ b, q.st = .ready b) → ReturnsTo f e s u (sortBy Prod.fst (ads ++ need.filterMap fun x =>
          (refillVal r x.1).map fun a => (x.1, BitVec.ofNat 56 a)))) ∧
        (∀ l n rest, (∀ q ∈ r.parts, (∃ b, q.st = .ready b) ∨ ∃ k, q.st = .bad k) →
          (l, n) :: rest = r.parts.filterMap (fun q => match q.st with
            | .bad n => some (q.lane, n)
            | _ => none) →
          ∃ tr, tr.code = 0x103 ∧ tr.sub = n ∧ tr.lanes = maskOf ((need.filter fun x => ((l, n) :: rest).any fun y => y.1 == x.1).map Prod.fst) ∧
            Traps (.ret f) e s u tr)))

/-- R97, R120, R121, R85 and R95: REFORM and EXIT. REFORM whose targets lie in the code window, as the next instruction does
where a lane goes on to it, that some live lane does not execute or that meets nothing outstanding and no condition to take, files its lanes: an
executing lane's thread is filed at its target, with this clock, in a bobbin of its skein and PC, and its lane leaves the ply; one for which no
bobbin of its skein and PC stands and none of the 16 is free stays, and goes on to the next instruction with the active lanes that do not execute; a
ply without a live lane left ends. EXIT that some live lane does not execute
retires its lanes; one of every live lane does so where nothing is outstanding and, for its context's last ply on the core, the
write-combining buffer has drained. Where something is outstanding, REFORM and EXIT of every live lane wait. Retired lanes: each of
their threads is gone from the skein, no other thread is changed but for its PC, a ply that keeps a live lane stays with its live lanes
only, and one that keeps none ends. -/
def Obligations.LanesLeave : Prop :=
  (∀ (f : Full) (s : State) (e : Env),
    (∀ cs, cs = e.lanes.map (fun l => (l, BitVec.ofNat 56 (opVal s e.pid e.p l true .n64 0 f.a))) → Executing (.reform f) s e →
      (∀ x ∈ cs, InCode s e x.2 ∧ x.2.toNat % 4 = 0) → (reformStays e cs s ≠ 0 → InCode s e (nextPc e)) →
      (e.exec &&& e.p.live ≠ e.p.live ∨ (s.plyQuiet e.pid = true ∧ TakesNone s e.pid true anyCond) →
        ∃ u bs, Moves (.reform f) e s u ∧ StandAt e.p (reformStays e cs s) (nextPc e) u ∧ bs = (u.part (plyPartKey e.pid)).bobbins ∧
          (Tbl.rising (s.part (plyPartKey e.pid)).bobbins = true →
            (∀ l a tid, (l, a) ∈ cs → e.p.tidAt l = some tid →
              ((reformStays e cs s).getLsbD l = false →
                (∃ i b, (i, b) ∈ bs ∧ b.skein = e.p.skein ∧ b.pc = a ∧ { tid := tid, clock := s.clock } ∈ b.threads) ∧
                ∀ q, u.ply? e.pid = some q → q.tidAt l = none) ∧
              ((reformStays e cs s).getLsbD l = true →
                (∀ i, i < 16 → (bs.get i).isSome = true) ∧ ∀ i b, (i, b) ∈ bs → ¬(b.skein = e.p.skein ∧ b.pc = a))) ∧
            (e.exec &&& e.p.live = e.p.live → reformStays e cs s = e.act &&& ~~~e.exec → u.ply? e.pid = none))) ∧
      (e.exec &&& e.p.live = e.p.live → s.plyQuiet e.pid = false → e.p.wait = none →
        Begins (.reform f) e s (waits e (.redo 1) s))) ∧
    (Executing (.exit f) s e →
      (e.exec &&& e.p.live ≠ e.p.live → (e.exec ≠ e.act → InCode s e (nextPc e)) → TakesNone s e.pid false anyCond →
        ∃ u, exitGo e s = .moved u ∧ Moves (.exit f) e s u) ∧
      (∀ t, e.exec &&& e.p.live = e.p.live → e.exec = e.act → s.plyQuiet e.pid = true →
        t = (if s.lastOnCore e.pid e.p then s.wcDrain (plyCore e.pid) fun x => x.slot == e.p.ctx else s) →
        (s.lastOnCore e.pid e.p = true → t.wcWaiting (plyCore e.pid) e.p.ctx (fun _ _ => true) = false) →
        TakesNone t e.pid true anyCond → ∃ u, exitGo e t = .moved u ∧ Moves (.exit f) e s u) ∧
      (e.exec &&& e.p.live = e.p.live → e.exec = e.act → s.plyQuiet e.pid = false → e.p.wait = none →
        Begins (.exit f) e s (waits e (.redo 1) s)))) ∧
  ∀ (s : State) (e : Env) (u : State) (p : Ply), exitGo e s = .moved u → s.ply? e.pid = some e.p → p = e.p.dropLanes e.exec →
    (p.live = 0 → u.ply? e.pid = none) ∧
    (p.live ≠ 0 → u.ply? e.pid = some p ∧ (∀ l, l < e.p.lanes.length → p.tidAt l = if e.exec.getLsbD l then none else e.p.tidAt l) ∧
      StandAt e.p (e.act &&& ~~~e.exec) (nextPc e) u ∧
      (∀ l tid, (l, tid) ∈ e.p.threadsOf e.exec → u.thread e.p.skein tid = none) ∧
      ∀ sk tid, (∀ l, sk = e.p.skein → (l, tid) ∉ e.p.threadsOf e.exec) → (u.thread sk tid).map Thread.still = (s.thread sk tid).map Thread.still)

/-! ## Barriers and waits -/

/-- R122 and R124: an arrival counts once; the arrival that reaches the count, taken from the phase's first arrival, or under count 0 the number of
live plies of the instance, saved ones among them, opens the next phase with none. At `.pod` it does not: the package then reports the phase to
every package of the pod context, once, and the phase ends when the last of them has reported; which packages these are is firmware's, and a
function without a value here (log entry 128). R123, R211 and R226: BAR, BARARR and BARWT. After the release at its
level, and with no remote-store error to take, an arrival gives the phase before it: BARARR writes it to D and goes on; BAR waits
until the phase differs from it, and BARWT until it differs from the register's; leaving acquires at the level, and the
instruction goes on when the acquire has ended. -/
def Obligations.Barriers : Prop :=
  (∀ (s t : State) (pid : Nat) (p : Ply) (level : Scope) (cnt c n : Nat) (b b' : PlyBar), b = s.barOf pid p level →
    c = (if b.arrivals = 0 then cnt else b.count) →
    n = (if c = 0 then ((s.plies ++ s.saved.flatMap fun v => v.2.plies).filter fun x => sameInst level (pid, p) x).length else c) →
    (level = .core → (s.skeins.get p.skein).isSome = true) → t = (s.arrive pid p level cnt).2 →
    b' = { b with arrivals := b.arrivals + 1, count := c } →
    (s.arrive pid p level cnt).1 = b.phase ∧
    (level ≠ .pod → t.barOf pid p level = if b.arrivals + 1 < n then b'
      else { phase := b.phase + 1, arrivals := 0, count := 0, pkgDone := false, reports := b.reports.filter fun r => r.2 != b.phase.toNat }) ∧
    (level = .pod →
      (b.arrivals + 1 < n ∨ b.pkgDone = true → t.barOf pid p .pod = b' ∧ t.fabOut = s.fabOut) ∧
      (n ≤ b.arrivals + 1 → b.pkgDone = false → t.barOf pid p .pod = { b' with pkgDone := true } ∧
        ∀ ctxid d, ctxid = pktCtxid (s.ctx p.ctx) → d ∈ Config.podMembers ctxid →
          ∃ k ∈ t.fabOut, k.dst = d ∧ k.body = .podBar ctxid b.phase.toNat))) ∧
  ∀ (f : Full) (s s1 : State) (e : Env) (ph : Word) (u : State),
    (s.release e.pid (barLevel f) = (s1, true) →
      TakesNone s1 e.pid false (fun c => remoteScope (barLevel f) && isRemoteCond c.kind) →
      ph = (s1.barOf e.pid e.p (barLevel f)).phase → u = (s1.arrive e.pid e.p (barLevel f) (mf f 15 0)).2 →
      (Executing (.bararr f) s e → Completes (.bararr f) e s (writeD u e f.d [ph] fun _ => [])) ∧
      (Executing (.bar f) s e → e.p.wait = none →
        ((u.barOf e.pid e.p (barLevel f)).phase = ph → Begins (.bar f) e s (waits e (.bar (barLevel f) ph) u)) ∧
        ((u.barOf e.pid e.p (barLevel f)).phase ≠ ph → (leaving e (barLevel f) u).acqDone u.nextOp = true →
          Completes (.bar f) e s (leaving e (barLevel f) u)))) ∧
    (s.release e.pid (barLevel f) = (s1, false) → e.p.wait = none →
      (Executing (.bararr f) s e → Begins (.bararr f) e s (waits e (.redo 1) s1)) ∧
      (Executing (.bar f) s e → Begins (.bar f) e s (waits e (.redo 1) s1))) ∧
    (Executing (.barwt f) s e → e.p.wait = none → ph = (sWords s e.p f.a 1).headD 0 →
      ((s.barOf e.pid e.p (barLevel f)).phase = ph → Begins (.barwt f) e s (waits e (.bar (barLevel f) ph) s)) ∧
      ((s.barOf e.pid e.p (barLevel f)).phase ≠ ph → (leaving e (barLevel f) s).acqDone s.nextOp = true →
        Completes (.barwt f) e s (leaving e (barLevel f) s))) ∧
    (∀ i lv, i = .bar f ∨ i = .barwt f → Executing i s e → e.p.wait = some (.bar lv ph) → (s.barOf e.pid e.p lv).phase ≠ ph →
      (leaving e lv s).acqDone s.nextOp = true → Completes i e s (leaving e lv s)) ∧
    (∀ i lv id, i = .bar f ∨ i = .barwt f → Executing i s e → e.p.wait = some (.barAcq lv ph id) → s.acqDone id = true → Completes i e s s)

/-- R92, R125 and R212: WAITC. While more operations of the class are outstanding than it allows the ply switches parts and tries
again; then, with UNRES 0 for the store class and no condition of the class to take, it goes on, for the four engine classes after
an acquire of the package. R126 and R39: YIELD goes on and sets the pending yield; where the switch of parts that it makes needs an entry from
memory, that is read back first (R94). SLEEP goes on; SLEEP of n other than 0 leaves the ply
not ready for n issue slots, which its expiry ends. A join window whose slots have passed, or whose ply has starved for 256 slots, no
longer holds the ply. -/
def Obligations.WaitsAndWindows : Prop :=
  (∀ (f : Full) (s : State) (e : Env) (c : Cls), Executing (.waitc f) s e → e.p.wait = none → c = (clsOf (mf f 31 29)).getD .ld →
    (mf f 5 0 < e.p.count c → exec (.waitc f) s = .next (s.trySwitch e.pid)) ∧
    (e.p.count c ≤ mf f 5 0 →
      (c = .st → e.p.unres ≠ 0 → exec (.waitc f) s = .next { s with stall := true }) ∧
      ((c = .st → e.p.unres = 0) → TakesNone s e.pid false (fun x => waitcTakes c x) →
        (c = .ld ∨ c = .st → Completes (.waitc f) e s s) ∧
        (c ≠ .ld → c ≠ .st →
          ((leaving e .pkg s).acqDone s.nextOp = true → Completes (.waitc f) e s (leaving e .pkg s)) ∧
          ((leaving e .pkg s).acqDone s.nextOp = false → Begins (.waitc f) e s (waits e (.op s.nextOp) (leaving e .pkg s))))))) ∧
  ∀ (f : Full) (s : State) (e : Env) (pid : Nat) (p : Ply),
    (∀ due, Executing (.yield f) s e → due = (yielded e (fullSpec s (formBare f) none true f) s).switchDue e.pid →
      (due = none ∨ e.p.wait ≠ none →
        ∃ t, exec (.yield f) s = .next t ∧ Retires e.pid s t ∧ Advances e 12 t ∧ ∃ q, t.ply? e.pid = some q ∧ q.yld = true) ∧
      (∀ i, due = some i → e.p.wait = none → exec (.yield f) s = .next (s.callEnt e.pid i))) ∧
    (Executing (.sleep f) s e →
      (mf f 15 0 = 0 → Completes (.sleep f) e s s) ∧
      (mf f 15 0 ≠ 0 → ∃ t, exec (.sleep f) s = .next t ∧ Retires e.pid s t ∧ Advances e 12 t ∧
        ∃ q, t.ply? e.pid = some q ∧ q.wait = some (.sleep (mf f 15 0)) ∧ q.asleep = true)) ∧
    (s.ply? pid = some p → p.wait = some (.sleep 0) → ∃ t, exec (.sleepExpiry pid) s = .next t ∧ t = s.setPly pid { p with wait := none }) ∧
    (s.ply? pid = some p → p.hold = some 0 → ∃ t, exec (.joinWindowExpiry pid) s = .next t ∧ t = s.updPly pid fun q => { q with hold := none }) ∧
    (s.ply? pid = some p → 256 ≤ p.starve → ∃ t, exec (.starvationLimit pid) s = .next t ∧ t = s.updPly pid fun q => { q with hold := none })

/-! ## Traps and control registers -/

/-- R106 and R108, with R224's state on entry: taking a trap. Outside a handler, in a context that names one, TRAPPC takes the instruction's PC or the
PC to resume at, TRAPSRC the producing instruction, that of the fault record for FAULTED, or TRAPPC, TRAPCODE, TRAPSUB and TRAPVA the trap's, TRAPMASK
the active lanes, which are held; the trapping lanes stand at the handler and are the active ones; the divergence stack, the counters and every
register are as before, a pending yield is cleared, and no other ply and no byte of memory changes. Inside a
handler, or without one, the CSRs record the trap all the same, and the context begins to stop, with STOPC 1 or 2, and its plies
with it. -/
def Obligations.TrapEntry : Prop :=
  ∀ (s t : State) (pid : Nat) (p : Ply) (tr : Trap) (c : Csrs), s.ply? pid = some p → t = s.takeTrap pid tr →
    c = { p.csr with trappc := tr.resume.getD (s.plyPc p), trapsrc := tr.src.getD (tr.resume.getD (s.plyPc p)), trapva := tr.vas,
                     trapcode := tr.code, trapsub := tr.sub, trapmask := p.active } →
    (∃ q, t.ply? pid = some q ∧ q.csr = c) ∧
    (∀ fs v x, faultedTrap (s.ctx p.ctx) fs = some x → (∀ y ∈ fs, y.2.val.toNat = v) →
      x.sub = v % 256 ∧ x.src = some (BitVec.ofNat 56 (codeBase (s.ctx p.ctx) + 4 * (v / 256)))) ∧
    (p.hnd = none → pktHandler (s.ctx p.ctx) ≠ 0 → ∃ q, t.ply? pid = some q ∧ KeepsPly { p with csr := c } q ∧
      q.hnd = some { lanes := tr.lanes, ents := [] } ∧ q.ents = p.ents ∧ q.active = tr.lanes &&& p.live ∧ q.yld = false ∧
      StandAt p tr.lanes (BitVec.ofNat 56 (pktHandler (s.ctx p.ctx))) t ∧
      (∀ sk tid, (∀ l, sk = p.skein → (l, tid) ∉ p.threadsOf tr.lanes) → t.thread sk tid = s.thread sk tid) ∧
      OnlyPlies s t ∧ OtherPlies pid s t ∧ SameV s t ∧ SameS s t ∧ SameStacks s t) ∧
    (p.hnd.isSome = true ∨ pktHandler (s.ctx p.ctx) = 0 →
      (t.ctx p.ctx).st = .saving ∧ (t.ctx p.ctx).stopc = (if p.hnd.isSome then 1 else 2) ∧ SameMemory s t ∧
      ∀ k q, t.ply? k = some q → q.ctx = p.ctx → q.stopped = true)

/-- R107 and R127: TRAP and BKPT trap in their executing lanes with their codes and TRAPSUB 0, to resume at the next instruction,
and have no other effect; where a field that it does not use is not 0, cause 0x08 is among those of its refusal (the lowest one is reported, and
which codes of an unused field meet a lower one is the model's reading, log entry 127). R128 and R227: ERET in
a handler that has no entry open closes it: the whole held part, less the lanes that have left, stands at TRAPPC, and no register
changes. A TRAPPC outside the code window is refused, and one that is no multiple of 4 traps as MISALIGN of the PC. -/
def Obligations.TrapsAndReturn : Prop :=
  (∀ (f : Full) (s : State) (e : Env),
    (∀ i code, (i = .trap f ∧ code = mf f 7 0) ∨ (i = .bkpt f ∧ code = 0x10B) → Executing i s e →
      Traps i e s s { Trap.plain code 0 e.exec with resume := some (e.pc + 12) } ∧
      ∃ t q, exec i s = .next t ∧ t.ply? e.pid = some q ∧ q.csr.trapcode = code ∧ q.csr.trapsub = 0 ∧ q.csr.trappc = e.pc + 12) ∧
    (∀ i sp early, pipe s i = some (sp, early) → (i = .trap f ∧ fld f.m.toNat 31 8 ≠ 0) ∨ (i = .bkpt f ∧ f.m ≠ 0) ∨
      ((i = .trap f ∨ i = .bkpt f) ∧ (f.d ≠ .v 0 ∨ f.a ≠ .v 0 ∨ f.b ≠ .v 0)) → 8 ∈ sp.causes)) ∧
  ∀ (f : Full) (s : State) (e : Env), Executing (.eret f) s e →
    (InCode s e e.p.csr.trappc → e.p.csr.trappc.toNat % 4 = 0 → Moves (.eret f) e s (s.returnTrap e.pid) ∧
      (s.returnTrap e.pid).ply? e.pid = some { e.p with hnd := none } ∧
      StandAt e.p (e.p.csr.trapmask &&& e.p.live) e.p.csr.trappc (s.returnTrap e.pid) ∧ Retires e.pid s (s.returnTrap e.pid)) ∧
    (¬InCode s e e.p.csr.trappc → Traps (.eret f) e s s (Trap.plain 0x100 1 e.act)) ∧
    (InCode s e e.p.csr.trappc → e.p.csr.trappc.toNat % 4 ≠ 0 → ∃ tr, tr.code = 0x104 ∧ tr.lanes = maskOf (lanesOf e.act) ∧
      Traps (.eret f) e s s tr)

/-- R129 to R134 and R339: CSRR writes D the value of the CSR that its number names, in each executing lane, and changes nothing
else. R129, R79, R74, R106 and R339: CSRW changes the CSR that its number names: FPX takes its five flag bits, RNGSEED and RNGCTR
the word, TRAPPC the 56 bits; a one written to VALID or MORE of REMERR clears it; the read-only CSRs ignore the write; nothing
else changes. -/
def Obligations.ControlRegisters : Prop :=
  (∀ (f : Full) (s : State) (e : Env), Executing (.csrr f) s e →
    ∃ t, exec (.csrr f) s = .next t ∧ Computes e 12 f.d (csrRegs (mf f 11 0)) (fun l => csrVal s e (mf f 11 0) l) 0 false s t) ∧
  ∀ (f : Full) (s : State) (e : Env) (v : Nat), Executing (.csrw f) s e →
    v = opVal s e.pid e.p (e.lanes.headD 0) (csrRegs (mf f 11 0) = 2) .n32 0 f.a →
    (mf f 11 0 = 0x000 → Completes (.csrw f) e s (s.updPly e.pid fun p => { p with csr := { p.csr with fpx := BitVec.ofNat 32 v &&& 0x1F } })) ∧
    (mf f 11 0 = 0x001 → Completes (.csrw f) e s (s.updPly e.pid fun p => { p with csr := { p.csr with rngseed := BitVec.ofNat 32 v } })) ∧
    (mf f 11 0 = 0x002 → Completes (.csrw f) e s (s.updPly e.pid fun p => { p with csr := { p.csr with rngctr := BitVec.ofNat 32 v } })) ∧
    (mf f 11 0 = 0x010 → Completes (.csrw f) e s (s.updPly e.pid fun p => { p with csr := { p.csr with trappc := BitVec.ofNat 56 v } })) ∧
    (mf f 11 0 = 0x080 → ∃ u, Completes (.csrw f) e s u ∧ { u with remerr := s.remerr } = s ∧
      (∀ k, k ≠ remKey (plyCore e.pid) e.p.ctx → u.remerr.get k = s.remerr.get k) ∧
      ∀ x, s.remerr.get (remKey (plyCore e.pid) e.p.ctx) = some x → ∃ y, u.remerr.get (remKey (plyCore e.pid) e.p.ctx) = some y ∧
        (∀ b, b < 62 → y.getLsbD b = x.getLsbD b) ∧ (∀ b, b = 62 ∨ b = 63 → y.getLsbD b = (x.getLsbD b && !v.testBit b))) ∧
    (mf f 11 0 ∉ [0x000, 0x001, 0x002, 0x010, 0x080] → Completes (.csrw f) e s s)

/-! ## Loads, stores and atomics -/

/-- R181, R186 and R192 with R18 and R30: LD, ATOM, ATOMCAS and FILL whose addresses are aligned and lead to global memory or
local store, with no acquire of the ply outstanding and nothing of their lines on the way through the write-combining buffer (R156, R208), go out
as one operation: D awaits it in every executing lane, its request has the parts that the addresses give, and no byte of memory changes. -/
def Obligations.LoadsGoOut : Prop :=
  ∀ (f : Full) (s : State) (e : Env) (ps : List MPart) (gas : List (Nat × Nat)) (z : Nat), s.acquiring e.p e.pid = false → Plain ps →
    s.WcDry (plyCore e.pid) e.p.ctx (s.ownLine (globalLines ps)) →
    gas = laneGas s e (isS f.d) f → z = tyBytes (mTyD f) →
    (Executing (.ld f) s e → misaligned e (isS f.d) (if mOrd f == .weak then z else mCount f * z) gas = [] →
      ps = laneParts s e gas (mCount f * z) (fun _ => 0) (fun _ => 0) →
      GoesOut (.ld f) e s f.d (mCount f * if ty64 (mTyD f) then 2 else 1)
        (newReq e .ld .ld f (mCount f * if ty64 (mTyD f) then 2 else 1) (isS f.d) ps)) ∧
    (misaligned e (isS f.d) z gas = [] → otherDie e gas = [] → ordRel (mOrd f) = false →
      (Executing (.atom f) s e → ps = laneParts s e gas z (fun l => opVal s e.pid e.p l (ty64 (mTyD f)) .n32 0 f.b) (fun _ => 0) →
        GoesOut (.atom f) e s f.d (if ty64 (mTyD f) then 2 else 1) (atomReq .atom false f e ps)) ∧
      (Executing (.atomcas f) s e → ps = laneParts s e gas z (fun l => opVal s e.pid e.p l (ty64 (mTyD f)) .n32 0 f.b)
          (fun l => opVal s e.pid e.p l (ty64 (mTyD f)) .n32 0 f.d) →
        GoesOut (.atomcas f) e s f.d (if ty64 (mTyD f) then 2 else 1) (atomReq .atom true f e ps))) ∧
    (∀ g, Executing (.fill f) s e → slotsPass s e f = false → ps = slotParts s e f (fun _ => 0) →
      g = { f with m := f.m ||| (BitVec.ofNat 32 (17 <<< 27)) } → GoesOut (.fill f) e s f.d (mCount f) (newReq e .ld .ld g (mCount f) false ps))

/-- R181, R182, R186, R192, R202 and R208: every form of a load, store or atomic that is aligned, meets no acquire of the ply, has
its release done and finds the write-combining entries of its pod lines drained completes, with the effect of the shared issue of
its class. A weak ST or SPILL waits for an older access of its ply or thread to some of its bytes in global memory: it is tried again, with nothing done
(R196). R184: PREF completes, and changes no register and no
request and no byte of local store. -/
def Obligations.AccessesComplete : Prop :=
  (∀ (f : Full) (s s1 : State) (e : Env) (gas : List (Nat × Nat)) (z : Nat), s.acquiring e.p e.pid = false → z = tyBytes (mTyD f) →
    (gas = laneGas s e (isS f.d) f → Executing (.ld f) s e →
      misaligned e (isS f.d) (if mOrd f == .weak then z else mCount f * z) gas = [] →
      (s.podClear e.pid e.p (laneParts s e gas (mCount f * z) (fun _ => 0) (fun _ => 0))).2 = true →
      ∃ u, ldBody f e s = .done u ∧ Completes (.ld f) e s u) ∧
    (Executing (.fill f) s e → slotsPass s e f = false → (s.podClear e.pid e.p (slotParts s e f (fun _ => 0))).2 = true →
      ∃ u, fillBody f e s = .done u ∧ Completes (.fill f) e s u) ∧
    ((if ordRel (mOrd f) then s.release e.pid (mScope f) = (s1, true) else s1 = s) →
      (gas = laneGas s e (isS f.b) f → Executing (.st f) s e →
        misaligned e (isS f.b) (if mOrd f == .weak then z else mCount f * z) gas = [] →
        (∀ ps r, ps = laneParts s1 e gas (mCount f * z) (storeData s1 e f) (fun _ => 0) →
            r = { newReq e .st .st f 0 (isS f.b) ps with ord := mOrd f, dst := .special .zero } →
          (mOrd f = .weak → ∀ q ∈ ps, ∀ va, q.place = .global va → s1.blocked s1.nextOp r q = false) ∧
          (mOrd f ≠ .weak → (s1.podClear e.pid e.p ps).2 = true)) →
        ∃ u, stBody f e s = .done u ∧ Completes (.st f) e s u) ∧
      (∀ ps r, gas = laneGas s e (isS f.b) f → Executing (.st f) s e → mOrd f = .weak → misaligned e (isS f.b) z gas = [] →
        ps = laneParts s e gas (mCount f * z) (storeData s e f) (fun _ => 0) →
        r = { newReq e .st .st f 0 (isS f.b) ps with ord := .weak, dst := .special .zero } →
        (∃ q ∈ ps, (∃ va, q.place = .global va) ∧ s.blocked s.nextOp r q = true) → exec (.st f) s = .next { s with stall := true }) ∧
      (∀ i kind cas, (i = .atom f ∧ kind = .atom ∧ cas = false ∧ gas = laneGas s e (isS f.d) f) ∨
          (i = .atomcas f ∧ kind = .atom ∧ cas = true ∧ gas = laneGas s e (isS f.d) f) ∨
          (i = .red f ∧ kind = .red ∧ cas = false ∧ gas = laneGas s e (isS f.b) f) →
        Executing i s e → misaligned e (if kind == .red then isS f.b else isS f.d) z gas = [] → otherDie e gas = [] →
        (s1.podClear e.pid e.p (laneParts s e gas z (fun l => opVal s e.pid e.p l (ty64 (mTyD f)) .n32 0 f.b)
          (fun l => if cas then opVal s e.pid e.p l (ty64 (mTyD f)) .n32 0 f.d else 0))).2 = true →
        ∃ u, atomBody kind cas f e s = .done u ∧ Completes i e s u)) ∧
    (∀ (ps : List MPart), Executing (.spill f) s e → slotsPass s e f = false →
      ps = slotParts s e f (fun l => match f.a with
        | .v n => (List.range (mCount f)).foldl (fun acc k => acc + vWord s e.p l (n + k) * 2 ^ (32 * k)) 0
        | _ => 0) →
      ∀ r, r = { newReq e .st .st f 0 false ps with ord := .weak, dst := .special .zero } →
        ((∀ q ∈ ps, ∀ va, q.place = .global va → s.blocked s.nextOp r q = false) →
          ∃ u, spillBody f e s = .done u ∧ Completes (.spill f) e s u) ∧
        ((∃ q ∈ ps, (∃ va, q.place = .global va) ∧ s.blocked s.nextOp r q = true) → exec (.spill f) s = .next { s with stall := true }))) ∧
  ∀ (f : Full) (s : State) (e : Env), Executing (.pref f) s e →
    ∃ u, u = prefDo f e s ∧ Completes (.pref f) e s u ∧ SameV s u ∧ SameS s u ∧ u.ls = s.ls ∧ u.reqs = s.reqs

/-- R180: an access with a lane whose address is no multiple of its element's size, or of the whole of a strong LD or ST, traps as MISALIGN in the
lanes concerned with their addresses in TRAPVA, with nothing done; an access that crosses a line is split there, and so at every segment and page,
into parts of their own places that cover its bytes. Beside it, of R187 and R192: an atomic on the other die's local store traps as AUNSUP with the
addresses, and a SPILL or FILL whose slots pass the thread's area as STACK, with nothing done. -/
def Obligations.AccessTraps : Prop :=
  ∀ (f : Full) (s : State) (e : Env) (gas : List (Nat × Nat)) (mis : List (Nat × Nat)) (i : Instr), Executing i s e →
    ((i = .ld f ∧ gas = laneGas s e (isS f.d) f ∧
        mis = misaligned e (isS f.d) (if mOrd f == .weak then tyBytes (mTyD f) else mCount f * tyBytes (mTyD f)) gas) ∨
      (i = .st f ∧ gas = laneGas s e (isS f.b) f ∧
        mis = misaligned e (isS f.b) (if mOrd f == .weak then tyBytes (mTyD f) else mCount f * tyBytes (mTyD f)) gas) ∨
      ((i = .atom f ∨ i = .atomcas f) ∧ gas = laneGas s e (isS f.d) f ∧ mis = misaligned e (isS f.d) (tyBytes (mTyD f)) gas) ∨
      (i = .red f ∧ gas = laneGas s e (isS f.b) f ∧ mis = misaligned e (isS f.b) (tyBytes (mTyD f)) gas) →
      mis ≠ [] → ∃ tr, tr.code = 0x104 ∧ tr.sub = 0 ∧ tr.lanes = maskOf (mis.map Prod.fst) ∧
        tr.vas = mis.map (fun x => (x.1, BitVec.ofNat 56 x.2)) ∧ Traps i e s s tr) ∧
    ((i = .atom f ∨ i = .atomcas f) ∧ isS f.d = false ∧ gas = laneGas s e false f →
      misaligned e false (tyBytes (mTyD f)) gas = [] → otherDie e gas ≠ [] →
      ∃ tr, tr.code = 0x106 ∧ tr.lanes = maskOf ((otherDie e gas).map Prod.fst) ∧
        tr.vas = (otherDie e gas).map (fun x => (x.1, BitVec.ofNat 56 x.2)) ∧ Traps i e s s tr) ∧
    (i = .spill f ∨ i = .fill f → slotsPass s e f = true → Traps i e s s (Trap.plain 0x107 0 e.exec)) ∧
    ∀ (lane tid ga n data data2 : Nat), ga < 2 ^ 56 →
      (∀ q ∈ s.mkParts e.pid e.p lane tid ga n data data2, q.ga % 64 + q.n ≤ 64 ∧ q.place = s.placeOf e.pid e.p q.ga ∧ q.ga = (ga + q.k) % 2 ^ 56) ∧
      ∀ k, k < n → ∃ q ∈ s.mkParts e.pid e.p lane tid ga n data data2, q.k ≤ k ∧ k < q.k + q.n

/-- R171 and R182: the bytes of a scalar weak ST to global memory within one line, which the L1 of the ply's core holds or has a free
way for, with nothing of that line on the way through the write-combining buffer, enter that L1: they are valid and dirty there, every other byte of that line and every other line is as it was, and no byte of HBM, local store or the
memory-side cache changes. -/
def Obligations.WeakStoreBytes : Prop :=
  ∀ (f : Full) (s : State) (e : Env) (va n k : Nat) (old : L1Line), Executing (.st f) s e → mOrd f = .weak → isS f.b = true →
    s.acquiring e.p e.pid = false → n = mCount f * tyBytes (mTyD f) → s.placeOf e.pid e.p (laneGa s e f (e.lanes.headD 0)) = .global va →
    va = laneGa s e f (e.lanes.headD 0) → va % 64 + n ≤ 64 → 0 < n → va % tyBytes (mTyD f) = 0 →
    (∀ r q, s.blocked s.nextOp r q = false) → s.WcDry (plyCore e.pid) e.p.ctx (s.ownLine [va / 64]) → k = l1Key (plyCore e.pid) (s.slotAsid e.p.ctx) (va / 64) →
    old = (s.l1.get k).getD L1Line.empty → (s.l1.get k).isSome = true ∨ (s.l1Set (plyCore e.pid) (va / 64)).length < 12 →
    ∃ t new, exec (.st f) s = .next t ∧ Advances e 12 t ∧ t.l1.get k = some new ∧ (∀ j, j ≠ k → t.l1.get j = s.l1.get j) ∧
      (∀ i, i < 64 → (va % 64 ≤ i ∧ i < va % 64 + n →
          lineByte new.data i = BitVec.ofNat 8 (storeData s e f (e.lanes.headD 0) / 2 ^ (8 * (i - va % 64))) ∧
          new.valid.getLsbD i = true ∧ new.dirty.getLsbD i = true) ∧
        (i < va % 64 ∨ va % 64 + n ≤ i → lineByte new.data i = lineByte old.data i ∧ new.valid.getLsbD i = old.valid.getLsbD i ∧
          new.dirty.getLsbD i = old.dirty.getLsbD i)) ∧
      t.hbm = s.hbm ∧ t.ls = s.ls ∧ t.mc = s.mc ∧ SameV s t ∧ SameS s t

/-- R30, R33, R31 and R181: data that arrives. When every part of a lane has been performed, each v register of the destination
that still awaits the operation takes its word and becomes FULL, or, where a part failed, the fault record of its subtype and
becomes FAULTED; a register written since the issue keeps its value. What arrives for a ply that is saved waits for it (R313), and the lanes of
an atomic at one location are answered together (R186, R188). R18 and R183: a request whose parts have all finished ends:
its entry leaves, and its ply's counters drop it once no older operation of its class is outstanding; a store whose parts are all
performed ends at its completion, and a RED likewise. -/
def Obligations.DataArrives : Prop :=
  (∀ (s : State) (op lane n : Nat) (r : MReq) (q : MPart) (ps : List MPart) (bs : List Byte) (bad : Option Nat) (th : Thread),
    s.reqs.get op = some r → (r.kind = .atom ∨ r.kind = .tb ∨ r.kind = .segstat ∨ r.kind = .answer) → r.dst = .v n →
    r.parts.filter (fun q => q.lane == lane && q.st != .fin) = q :: ps → laneResult (q :: ps) = some (bs, bad) →
    s.thread r.skein q.tid = some th → r.ord ≠ .acq → r.ord ≠ .ar → (s.uidAway r.uid = true → exec (.loadDataArrival op lane) s = .next s) ∧
    (s.uidAway r.uid = false → (r.kind = .atom → ∀ x ∈ r.parts, x.inFlight = false) → ∃ t, exec (.loadDataArrival op lane) s = .next t ∧
      (∀ i, t.vReg r.skein q.tid i = match bad with
        | none => if n ≤ i ∧ i < n + (loadWords r.ty r.n bs).length ∧ (th.regs.reg i).pend = some op
            then Reg.write (((loadWords r.ty r.n bs)[i - n]?).getD 0) else th.regs.reg i
        | some sub => if n ≤ i ∧ i < n + r.dregs ∧ (th.regs.reg i).pend = some op
            then { val := faultRecord sub (codeOff (s.ctx r.slot) r.pc.toNat), st := .faulted, pend := none } else th.regs.reg i) ∧
      (∀ sk tid i, sk ≠ r.skein ∨ tid ≠ q.tid → t.vReg sk tid i = s.vReg sk tid i) ∧ t.hbm = s.hbm ∧ t.ls = s.ls)) ∧
  ∀ (s : State) (op : Nat) (r : MReq) (p : Ply), s.reqs.get op = some r → r.acq = false → r.uns = false → r.ord = .weak ∨ r.ord = .strong ∨ r.ord = .rel →
    (∀ q ∈ r.parts, q.st = .fin) → s.ply? r.pid = some p → r.kind = .red ∨ (r.kind = .st ∧ s.dlIssueAll op = s) →
    ∃ t, exec (.storeCompletion op) s = .next t ∧ t.reqs.get op = none ∧ (∀ k, k ≠ op → t.reqs.get k = s.reqs.get k) ∧
      t.ply? r.pid = some (p.completeOp op) ∧ OtherPlies r.pid s t ∧ SameMemory s t ∧ SameV s t

/-- R186 and R187: the atomic requests of one location in the local store of its home, which no older access blocks, are performed
there in one step, lane by lane: the location takes the last value, each lane the value before its own step, and every other byte
of local store is as before. -/
def Obligations.AtomicAtHome : Prop :=
  ∀ (s : State) (op loc c off z : Nat) (r : MReq) (q : MPart) (j : Nat) (xs : List (MPart × Nat)) (bs : List Byte) (rs : List Nat) (v : Nat),
    s.reqs.get op = some r → r.kind = .atom → r.atLoc loc = (q, j) :: xs → s.blocked op r q = false → q.place = .loc c off →
    (s.seg (segKey c off)).st = .o → (s.seg (segKey c off)).subs = [] → z = tyBytes r.ty → 0 < z → off % 64 + z ≤ 64 →
    s.lsRead (segBase (segKey c off) + off % 4096) z = some bs →
    atomRun (r.aop == aopCas) r.aop r.ty (leNat bs) (((q, j) :: xs).map fun x => (x.1.data, x.1.data2)) = (rs, v) →
    ∃ t, exec (.atomicAtHome op loc) s = .next t ∧ Mem.read t.ls (segBase (segKey c off) + off % 4096) z = leBytes z v ∧
      (∀ a, a < segBase (segKey c off) + off % 4096 ∨ segBase (segKey c off) + off % 4096 + z ≤ a → Mem.get t.ls a = Mem.get s.ls a) ∧
      t.hbm = s.hbm ∧ SameV s t ∧ SameS s t ∧
      ∃ r', t.reqs.get op = some r' ∧ ∀ (m : Nat) (x : MPart × Nat), (((q, j) :: xs)[m]?) = some x → ∃ y : MPart, r'.parts[x.2]? = some y ∧
        y.st = .ready (leBytes z ((rs[m]?).getD 0))

/-! ## Ordering and subscription -/

/-- R204, R202, R109 and R211: FENCE. With the release at its scope done and UNRES 0, or with no access of the ply open where it
only acquires, and with its own acquire ended, it goes on, or traps with the earliest condition it takes: every held store fault,
and, where it covers the package or the pod, every held remote-store error. Until then the ply waits in it. That TRAPVA takes the condition's address
in every executing lane (log entry 23), and that the earliest of both kinds is taken (log entry 123), is the model's reading. -/
def Obligations.Fences : Prop :=
  ∀ (f : Full) (s s1 u : State) (e : Env) (takes : Cond → Bool), Executing (.fence f) s e → e.p.wait = none →
    takes = (fun c => isStoreCond c.kind || (ordRel (mOrd f) && remoteScope (mScope f) && isRemoteCond c.kind)) →
    u = (if mOrd f = .rel then s1 else s1.freshOp.2.acqBegin s1.nextOp e.pid (mScope f) (mRp f)) →
    (if ordRel (mOrd f) then s.release e.pid (mScope f) = (s1, true) ∧ s1.unres e.pid = 0
      else s1 = s ∧ s.loadsOpen e.p = false ∧ s.acquiring e.p e.pid = false ∧ s.unres e.pid = 0) →
    (mOrd f = .rel ∨ u.acqDone s1.nextOp = true →
      (TakesNone u e.pid false takes → Completes (.fence f) e s u) ∧
      (∀ p c cs, u.ply? e.pid = some p → p.hnd = none → takeFirst takes p.conds = some (c, cs) →
        Traps (.fence f) e s (u.setPly e.pid { p with conds := cs })
          { Trap.plain c.code c.sub e.exec with vas := e.lanes.map fun l => (l, BitVec.ofNat 56 c.va) })) ∧
    (mOrd f ≠ .rel → u.acqDone s1.nextOp = false → Begins (.fence f) e s (waits e (.op s1.nextOp) u))

/-- R166 to R169: SUBS, UNSUBS and SEGSTAT go out as an operation whose answer D awaits. One that its conditions refuse answers
with its status and changes no segment; one that they allow puts the segment in transit, and SUBS makes the replica a subscriber
of the home, in the step in which it issues, which is the model's reading (log entry 34). SEGSTAT answers with the segment's word; that of a segment
of the other die is the model's choice (log entry 154). -/
def Obligations.SubscriptionIssue : Prop :=
  ∀ (f : Full) (s : State) (e : Env) (a b g h : Nat), s.acquiring e.p e.pid = false → a = sPairVal s e.p f.a % 2 ^ 56 → b = sPairVal s e.p f.b % 2 ^ 56 →
    (Executing (.subs f) s e →
      (s.subsStatus e.pid e.p.ctx a b ≠ 0 → GoesOut (.subs f) e s f.d 1
        (oneReq e f (.subs 0 0) .n32 1 (.ready (leBytes 4 (s.subsStatus e.pid e.p.ctx a b))))) ∧
      (s.subsStatus e.pid e.p.ctx a b = 0 → scratchSeg a = some g → scratchSeg b = some h →
        GoesOut (.subs f) e s f.d 1 (oneReq e f (.subs g h) .n32 1 .wait) ∧
        ∃ t, exec (.subs f) s = .next t ∧ (t.seg g).st = .t s.nextOp ∧ (t.seg h).subs = (s.seg h).subs ++ [g] ∧
          ∀ k, k ≠ g → k ≠ h → t.seg k = s.seg k)) ∧
    (Executing (.unsubs f) s e →
      (s.unsubsStatus e.pid e.p.ctx a ≠ 0 → GoesOut (.unsubs f) e s f.d 1
        (oneReq e f (.unsubs 0) .n32 1 (.ready (leBytes 4 (s.unsubsStatus e.pid e.p.ctx a))))) ∧
      (s.unsubsStatus e.pid e.p.ctx a = 0 → scratchSeg a = some g →
        GoesOut (.unsubs f) e s f.d 1 (oneReq e f (.unsubs g) .n32 1 .wait) ∧
        ∃ t, exec (.unsubs f) s = .next t ∧ (t.seg g).st = .t s.nextOp ∧ ∀ k, k ≠ g → t.seg k = s.seg k)) ∧
    (Executing (.segstat f) s e → GoesOut (.segstat f) e s f.d 2
      (oneReq e f .segstat .n64 2 (.ready (leBytes 8 (s.segstatVal e.pid e.p a)))))

/-- R162, R165 to R167: what the segments do. A replica applies its next update: the masked bytes of that line and no other byte
of local store change, and the sequence number is noted; a sync marker that comes back leaves its acquire's list; the transit of
SUBS ends with the home's bytes in the replica, which is then S, and that of UNSUBS, once nothing is pending, with the segment O
and off its home's list; D's answer is then ready. That the snapshot is taken whole in the step that ends the transit, with the home's sequence
numbers as those applied, is the model's reading (log entry 34), and that updates of different lines come in the home's order its choice (log entry
147). -/
def Obligations.Segments : Prop :=
  ∀ (s : State) (k op : Nat),
    (∀ line q m x c seen rest, (s.seg k).msgs = .update line q m x c seen :: rest → line < 64 →
      ∃ t, exec (.replicaUpdate k) s = .next t ∧ (t.seg k).msgs = rest ∧ (t.seg k).applied.get line = some q ∧
        (∀ i, i < 64 → m.getLsbD i = true → Mem.get t.ls (segBase k + line * 64 + i) = lineByte x i) ∧
        (∀ a, (∀ i, i < 64 → m.getLsbD i = true → a ≠ segBase k + line * 64 + i) → Mem.get t.ls a = Mem.get s.ls a) ∧
        (∀ j, j ≠ k → t.seg j = s.seg j) ∧ t.hbm = s.hbm ∧ t.plies = s.plies ∧ t.skeins = s.skeins) ∧
    (∀ id a rest, (s.seg k).msgs = .marker id :: rest → s.acqs.get id = some a → a.markers.filter (· != k) ≠ [] →
      ∃ t, exec (.syncMarkerReturn k) s = .next t ∧ (t.seg k).msgs = rest ∧
        t.acqs.get id = some { a with markers := a.markers.filter (· != k) } ∧ t.plies = s.plies ∧ t.hbm = s.hbm ∧ t.ls = s.ls) ∧
    (∀ id a rest, (s.seg k).msgs = .marker id :: rest → s.acqs.get id = some a → a.markers.filter (· != k) = [] →
      s.reqs.get id = none → ∃ t, exec (.syncMarkerReturn k) s = .next t ∧ (t.seg k).msgs = rest ∧ t.acqDone id = true) ∧
    (∀ r h, (s.seg k).st = .t op → s.reqs.get op = some r → r.kind = .subs k h → h ≠ k → s.lsBad (segBase h) 4096 = false →
      ∃ t, exec (.segmentTransitEnd k) s = .next t ∧ (t.seg k).st = .s ∧ (t.seg k).home = h ∧ (t.seg k).applied = (s.seg h).seqs ∧
        (∀ i, i < 4096 → Mem.get t.ls (segBase k + i) = Mem.get s.ls (segBase h + i)) ∧
        (∀ a, a < segBase k ∨ segBase k + 4096 ≤ a → Mem.get t.ls a = Mem.get s.ls a) ∧
        t.reqs.get op = some { r with parts := r.parts.modify 0 fun q => { q with st := .ready (leBytes 4 0) } }) ∧
    (∀ r, (s.seg k).st = .t op → s.reqs.get op = some r → r.kind = .unsubs k → (s.seg k).msgs = [] → (s.seg k).home ≠ k →
      s.unsubsWaits op (plyCore r.pid) (s.seg k).home = false →
      ∃ t, exec (.segmentTransitEnd k) s = .next t ∧ (t.seg k).st = .o ∧
        (t.seg (s.seg k).home).subs = (s.seg (s.seg k).home).subs.filter (· != k) ∧
        t.reqs.get op = some { r with parts := r.parts.modify 0 fun q => { q with st := .ready (leBytes 4 0) } } ∧ t.ls = s.ls)

/-- R171, R206, R209 and R432: the buffers between a core and its home. A permission probe that finds its line at home gives the L1 line
write permission and ends; one of a line of the other die crosses the die link (R430), and dirty bytes of such a line stay until the write-back that
crosses is acknowledged; a promotion asks a core to write back what it wrote before its release, after which that core is off
the acquire's list, and with no core left the acquire of a core without replicas ends; entries that have reached the ageing time
drain. -/
def Obligations.CoreBuffers : Prop :=
  ∀ (s t : State) (core op line : Nat) (a : Acq) (l : L1Line),
    (∀ key, key = core * 2 ^ 55 + line → s.l1.get key = some l → l.probe = true → s.logged (line / 2 ^ 42) (line % 2 ^ 42) = false →
      s.shutOut (line / 2 ^ 42) (line % 2 ^ 42) = false →
      (s.probeCross key = none → (∃ pl, s.home (s.probeWho key) (line % 2 ^ 42) .write = (t, .ok pl)) →
        ∃ u, exec (.permissionProbeReply core line) s = .next u ∧ u.l1.get key = some { l with probe := false, w := true }) ∧
      (∀ pa u tag, s.probeCross key = some pa → (∀ q ∈ s.dlReqs, q.2.use ≠ .probe key) →
        s.dlAsk (3 * coreDie core + 1) (fun tag => dlMake 0 0x04 (line / 2 ^ 42) pa tag 0 false []) (.probe key) = some (u, tag) →
        exec (.permissionProbeReply core line) s = .next u)) ∧
    (∀ cs, s.acqs.get op = some a → a.promo = some cs → core ∈ cs → (coreDie core = coreDie a.core ∨ s.dlLinked = false) →
      s.stamped core ((s.relOp.get (remKey core a.slot)).getD 0) = true → s.l1BackAll core (s.slotAsid a.slot) true = (t, true) →
      ∃ u, exec (.promotionRequest op core) s = .next u ∧ u.acqs.get op = some { a with promo := some (cs.filter (· != core)) } ∧ u.hbm = t.hbm) ∧
    (s.acqs.get op = some a → a.promo = some [] → s.replicas a.core = [] → s.reqs.get op = none →
      ∃ u, exec (.promotionComplete op) s = .next u ∧ u.acqDone op = true) ∧
    (s.acqs.get op = some a → a.promo = some [] → a.scope = .pkg → s.replicas a.core ≠ [] →
      ∃ u, exec (.promotionComplete op) s = .next u ∧ u.acqs.get op = some { a with promo := none, markers := s.replicas a.core }) ∧
    (∀ key o m u, key = core * 2 ^ 55 + line → s.l1.get key = some l → l.owners = [o] → m = o.2 &&& l.dirty → m ≠ 0 →
      s.l1Cross core (line / 2 ^ 42) (line % 2 ^ 42) o.1 l.data m = some u → s.l1Purge core (line / 2 ^ 42) (line % 2 ^ 42) = (u, false)) ∧
    exec (.wcAgeingDrain core) s = .next (s.wcDrain core fun x => x.clock + s.wage ≤ s.clock)

/-- R211, R338, R359, R360 and R441: answers from outside the package. A reply of another package, its timeout, and a completion of the
host or its lack leave the request's entry and reach every part that waits for it: a load's parts take their bytes, or a fault of
subtype 2 (refused), 3 (no answer in time), 4 (not supported), 5 (poisoned) or 1 (the host's error), which an atomic takes in every lane of its
location (R188); a store's or a RED's parts finish,
and with the last of them the request leaves; a refusal or timeout of one is recorded in REMERR of its core and context, and an error of
the host is held as a store fault of its ply. A multicast's acknowledgement completes it in its class. A reply, a timeout or a completion
that no request awaits changes nothing. -/
def Obligations.Replies : Prop :=
  ∀ (s : State) (n op : Nat) (q : RReq),
    (s.remote.get n = none →
      (∀ x, s.takeLoop (.reply n x) = none → exec (.remoteAck n x) s = .next s) ∧
      (s.sends.get n = none → exec (.fabricTimeout n) s = .next s) ∧
      (∀ x, exec (.hostCompletion n x) s = .next s) ∧ exec (.hostCompletionTimeout n) s = .next s) ∧
    (s.remote.get n = some q →
      (∀ (idx : Nat) (r : MReq), q.use = .part op idx → s.reqs.get op = some r → (∃ y ∈ r.parts, y.st = .sent n) →
        (q.host = false → q.dev ≠ s.mgmt.devidx → s.merges.get n = none → (∀ x, s.takeLoop (.reply n x) = none) →
          (r.kind = .ld →
            (∀ bs, Answered (.remoteAck n (.data bs)) s n op (r.answered n fun y => .ready (bs.take y.n)) fun t => t.remerr = s.remerr) ∧
            (∀ x sub, (∃ c, x = .nack c ∧ sub = 2) ∨ (x = .poisoned ∧ sub = 5) ∨ (x = .aunsup ∧ sub = 4) →
              Answered (.remoteAck n x) s n op (r.answered n fun _ => .bad sub) fun t => t.remerr = s.remerr)) ∧
          (r.FinishesStore →
            (Answered (.remoteAck n .ack) s n op (r.answered n fun _ => .fin) fun t => t.remerr = s.remerr) ∧
            ∀ c, Answered (.remoteAck n (.nack c)) s n op (r.answered n fun _ => .fin) fun t =>
              t.remerr = (s.remoteErr q.core q.slot q.dev q.off (some c)).remerr)) ∧
        (q.host = false → expired q.clock s.tout s.clock = true →
          (r.kind = .ld → Answered (.fabricTimeout n) s n op (r.answered n fun _ => .bad 3) fun t => t.remerr = s.remerr) ∧
          (r.FinishesStore → Answered (.fabricTimeout n) s n op (r.answered n fun _ => .fin) fun t =>
            t.remerr = (s.remoteErr q.core q.slot q.dev q.off none).remerr)) ∧
        (q.host = true →
          (r.kind = .ld →
            (∀ bs, Answered (.hostCompletion n (.data bs)) s n op (r.answered n fun y => .ready (bs.take y.n)) fun _ => True) ∧
            (Answered (.hostCompletion n .poisoned) s n op (r.answered n fun _ => .bad 5) fun _ => True) ∧
            ∀ i, i = .hostCompletion n .error ∨ i = .hostCompletionTimeout n →
              Answered i s n op (r.answered n fun _ => .bad 1) fun _ => True) ∧
          (∀ i ga, i = .hostCompletion n .error ∨ i = .hostCompletionTimeout n → (∀ y ∈ r.parts, y.st = .sent n → y.ga = ga) →
            (r.kind = .atom → Answered i s n op (r.failedAt ga (.bad 1)) fun _ => True) ∧
            (r.FinishesStore → Answered i s n op (if r.kind = .red then r.failedAt ga .fin else r.answered n fun _ => .fin) fun t =>
              ∀ pid p, s.plyUid r.uid = some (pid, p) → ∃ u va, t.ply? pid = some u ∧ storeCond 1 va ∈ u.conds)))) ∧
      (∀ (sk : Nat) (ts : List Nat) (uid : Nat) (p : Ply), q.use = .mcst op sk ts uid → s.ply? q.pid = some p → q.host = false →
        (q.dev ≠ s.mgmt.devidx → s.merges.get n = none → s.takeLoop (.reply n .ack) = none →
          ∃ t, exec (.remoteAck n .ack) s = .next t ∧ t.remote.get n = none ∧ t.ply? q.pid = some (p.completeOp op) ∧ t.remerr = s.remerr) ∧
        (expired q.clock s.tout s.clock = true → ∃ t, exec (.fabricTimeout n) s = .next t ∧ t.remote.get n = none ∧
          t.remerr = (s.remoteErr q.core q.slot q.dev q.off none).remerr)))

/-! ## Translation -/

/-- R329, R331, R333 and R336: walks and what firmware answers. A walk that finds a leaf for a page that no TLB entry holds puts it into
the TLBs and changes nothing else; an entry that is held stays. Of a slice whose side log is empty, a record that firmware retries closes
and the accesses, barrier updates and probes held on it wait again; one that it fails closes and the accesses held on it take an ADDR
failure, a probe held on it fails, and the instruction lines that it held read as failed. R86, R193, R332 and R334: a line that a resident ply's core lacks arrives
from its home in the instruction cache, as it stood when its context started; a logged write that no longer faults is performed at its home
when its page is replayed, and leaves the log. -/
def Obligations.WalksRecordsLines : Prop :=
  (∀ (s : State) (asid page slice rid : Nat) (k : AccKind) (r : FRec),
    (∀ l, s.walk asid (page * 65536) = .ok l →
      (s.tlbFind asid (page * 65536) = none → ∃ t, exec (.walkComplete asid page k) s = .next t ∧
        t.tlbFind asid (page * 65536) = some l ∧ { t with tlb := s.tlb, free := s.free } = s) ∧
      ((s.tlbFind asid (page * 65536)).isSome = true → exec (.walkComplete asid page k) s = .next s)) ∧
    ((s.slice slice).recs.find? (fun r => r.rid == rid) = some r → (s.slice slice).log = [] →
      (∃ t, exec (.resolveRetry slice rid) s = .next t ∧ (t.slice slice).recs = (s.slice slice).recs.filter (fun r => r.rid != rid) ∧
        (∀ op q, s.reqs.get op = some q → t.reqs.get op =
          some { q with parts := q.parts.map fun (y : MPart) => if y.st = .held slice rid then { y with st := .wait } else y }) ∧
        t.tbq = s.tbq.map (fun u => if u.held = some (slice, rid) then { u with held := none } else u) ∧
        (∀ op p h, s.probes.get op = some p → p.ph = .going h → (slice, rid) ∈ h → t.probes.get op = some { p with ph := .going [] }) ∧
        t.hbm = s.hbm ∧ t.ls = s.ls ∧ t.plies = s.plies) ∧
      (∀ op p h, s.probes = [(op, p)] → p.ph = .going h → (slice, rid) ∈ h →
        ∃ t va, exec (.resolveFail slice rid) s = .next t ∧ t.probes.get op = some { p with ph := .failed va }) ∧
      ((∀ u ∈ s.tbq, u.held ≠ some (slice, rid)) → (∀ p ∈ s.probes, p.2.ph.on slice rid = false) →
        ∃ t, exec (.resolveFail slice rid) s = .next t ∧ (t.slice slice).recs = (s.slice slice).recs.filter (fun r => r.rid != rid) ∧
          (∀ op q, s.reqs.get op = some q → t.reqs.get op =
            some { q with parts := q.parts.map fun (y : MPart) => if y.st = .held slice rid then { y with st := .bad 1 } else y }) ∧
          (∀ x ∈ r.fetches, t.ic.get x = some .bad) ∧ t.hbm = s.hbm ∧ t.ls = s.ls ∧ t.plies = s.plies))) ∧
  ∀ (s t : State),
    (∀ core line pid x, s.ic.get (core * 2 ^ 55 + line) = none → s.fetcher core (line / 2 ^ 42) (line % 2 ^ 42) = some pid →
      s.atBay (line / 2 ^ 42) (line % 2 ^ 42) = false → s.home (s.whoPly pid) (line % 2 ^ 42) .fetch = (t, .ok x) →
      ∃ u, exec (.instructionLineArrival core line) s = .next u ∧ { u with ic := t.ic, free := t.free } = t ∧
        u.ic.get (core * 2 ^ 55 + line) = some (.data ((t.oldCode.get (mcKey (line / 2 ^ 42) (line % 2 ^ 42))).getD x)) ∧
        ((t.ic.range (core * 2 ^ 55) ((core + 1) * 2 ^ 55)).length < 2048 → ∀ k, k ≠ core * 2 ^ 55 + line → u.ic.get k = t.ic.get k)) ∧
    (∀ ent x m y, ent.act = .write x m → s.home ent.who ent.line .write = (t, .ok y) → (s.replay ent).2 = none ∧
      (s.replay ent).1.mc = (t.mcPut ent.asid ent.line x m).mc)

/-- R340 and R341: shootdowns. A whole 32-byte write joins the queue while it has room. Where the dies are not linked, the oldest
request, once every step can end, leaves the queue, no L1 and no memory-side line of its range is left, and TAG has been written
to its completion word; a malformed one writes all ones and changes nothing else. -/
def Obligations.Shootdowns : Prop :=
  ∀ (s t : State) (bs : List Byte) (r : BitVec 256) (rest : List (BitVec 256)) (x : Nat),
    (s.serves = true → bs.length = 32 → s.shoot.length < 16 →
      exec (.shootdownRequest bs) s = .next { s with shoot := s.shoot ++ [BitVec.ofNat 256 (leNat bs)] }) ∧
    (s.shoot = r :: rest → x = r.toNat →
      (shootBad x = true → ∃ u, exec .shootdownExecute s = .next u ∧ u.shoot = rest ∧ u.tlb = s.tlb ∧ u.l1 = s.l1 ∧
        u.hbm = (s.physPut (fld x 183 128 / 8 * 8) (leBytes 8 (2 ^ 64 - 1))).hbm) ∧
      (shootBad x = false → s.dlLinked = false → s.shootAll x = (t, true) → ∃ u, exec .shootdownExecute s = .next u ∧ u.shoot = rest ∧
        (∀ k, shootKey x k = true → k / 2 ^ 55 / 96 < 2 → u.l1.get k = none) ∧ (∀ k, shootKey x k = true → k % 2 ^ 42 / 2 ^ 41 < 2 → u.mc.get k = none) ∧
        u.hbm = (t.physPut (fld x 183 128 / 8 * 8) (leBytes 8 (fld x 255 192))).hbm))

/-- R337, R338 and R358: an access of another package at this one, which is no standard-mode endpoint's and does not wait behind the side log's
entries of its line (R334). A read answers with the
bytes that its home holds, a strong write puts its bytes there and is acknowledged, and a refused one answers with its cause; an
atomic answers with the old value and leaves the new. -/
def Obligations.InboundAccesses : Prop :=
  ∀ (s t : State) (p : PodAccess) (w : Who) (va : Nat), p.dev ≠ s.mgmt.devidx → s.boundStd p.dev = false → w = s.whoPod p.dev p.ctxid →
    va = podVa p.off → s.podWaits p = false →
    (∀ n x, p.op = .read n → s.home w (va / 64) .read = (t, .ok x) →
      exec (.inboundPodAccess p) s = .next (t.fabSend .rsp 4095 p.dev (.reply p.req (.data (lineSlice x (va % 64) n))))) ∧
    (∀ n c, p.op = .read n → s.home w (va / 64) .read = (t, .fail c) → ∃ u, exec (.inboundPodAccess p) s = .next u ∧
      u.faultQ = ((t.record w va c 4 false).1).faultQ ∧ ∃ pk, u.fabOut = t.fabOut ++ [pk] ∧ pk.dst = p.dev ∧ pk.body = .reply p.req (.nack c)) ∧
    (∀ bs y, p.op = .strongWrite bs → s.home w (va / 64) .write = (t, .ok y) → ∃ u, exec (.inboundPodAccess p) s = .next u ∧
      u.mc = (t.mcPut w.asid (va / 64) (lineAt (va % 64) bs.length (leNat bs)) (byteSpan (va % 64) bs.length)).mc ∧
      ∃ pk, u.fabOut = t.fabOut ++ [pk] ∧ pk.dst = p.dev ∧ pk.body = .reply p.req .ack) ∧
    (∀ o xs y old, p.op = .atomic false o .n32 xs → s.home w (va / 64) .write = (t, .ok y) → old = leNat (lineSlice y (va % 64) 4) →
      ∃ u, exec (.inboundPodAccess p) s = .next u ∧
        u.mc = (t.mcPut w.asid (va / 64) (lineAt (va % 64) 4 (atomRun (o == aopCas) o .n32 old (xs.map fun x => (x.toNat, 0))).2)
          (byteSpan (va % 64) 4)).mc ∧
        ∃ pk, u.fabOut = t.fabOut ++ [pk] ∧ pk.dst = p.dev ∧ pk.body = .reply p.req (.data (leBytes 4 old)))

/-! ## Copies and transaction barriers -/

/-- R240, R241, R243 and R244: copies at issue. CPY and CPYF of a producer with aligned addresses, TIDLD of an aligned table and
TIDINV begin, after the release of R214, their probe of every page that they read or write, and count in their class; TCPY, TGATH
and TSCAT likewise where their tensor entries, which the state t holds, are accepted and the sizes of R245 and R246 are. When the probe has passed,
the operation is under way and the instruction goes on; when it failed, the instruction traps with the lowest failing address and counts
nothing. -/
def Obligations.CopyIssue : Prop :=
  ∀ (f : Full) (s s1 : State) (e : Env) (i : Instr) (o : CopyOp),
    (∀ d a, e.p.wait = none → s.acquiring e.p e.pid = false → s.release e.pid .pkg = (s1, true) → d = sPairVal s e.p f.a % 2 ^ 56 →
      a = sPairVal s e.p f.b % 2 ^ 56 → (∀ x ∈ barAlign s e f, x.1 % 16 = 0) → Executing i s e →
      (i = .cpy f → e.p.prod = true → d % 32 = 0 → a % 32 = 0 →
        o = { copyNew f e .cpy .cpy with srcA := a, dstA := d, bar := copyBar s e f, total := mf f 23 0 } →
        Begins i e s (probing e (some .cpy) o.asks (.copy o) s1)) ∧
      (i = .cpyf f → e.p.prod = true → d % 32 = 0 →
        o = { copyNew f e (.cpyf (BitVec.ofNat 32 (opVal s e.pid e.p (e.lanes.headD 0) false .f32 0 f.b))) .cpy with dstA := d, bar := copyBar s e f, total := mf f 23 0 } → Begins i e s (probing e (some .cpy) o.asks (.copy o) s1)) ∧
      (i = .tidld f → d % 64 = 0 →
        o = { copyNew f e .tidld .cpy with srcA := d, dstA := tidVa (s.ctx e.p.ctx) (mX f), block := [mX f], total := mY f + 1 } →
        Begins i e s (probing e (some .cpy) o.asks (.copy o) s1)) ∧
      (i = .tidinv f → o = { copyNew f e .tidinv .cpy with dstA := tidVa (s.ctx e.p.ctx) (mX f), block := [mX f], total := mY f + 1 } →
        Begins i e s (probing e (some .cpy) o.asks (.copy o) s1)) ∧
      (i = .cpy f ∨ i = .cpyf f → e.p.prod = false → Traps i e s s (Trap.plain 0x101 0 e.exec)) ∧
      (i = .cpy f ∨ i = .cpyf f → e.p.prod = true → d % 32 ≠ 0 → ∃ tr, tr.code = 0x104 ∧ tr.lanes = maskOf (lanesOf e.exec) ∧ Traps i e s s tr)) ∧
    (∀ t x y ws w, e.p.wait = none → ExecutingFrom i s t e → t.tidPair e f = (t, some (x, y)) → e.p.prod = true →
      t.acquiring e.p e.pid = false → t.release e.pid .pkg = (s1, true) → (∀ z ∈ barAlign t e f, z.1 % 16 = 0) →
      w = (fun n => (ws[n]?).getD 0) →
      (i = .tcpy f → ws = (sWords t e.p f.a 16).map BitVec.toNat →
        sizeBad x (w 0) (w 5) (w 10) ((List.range (max (tidRank x) (tidRank y))).foldl (fun acc k => acc * w (10 + k)) 1) = false →
        o = { copyNew f e .tcpy .cpy with
          srcE := BitVec.ofNat 512 x, dstE := BitVec.ofNat 512 y, block := ws, bar := copyBar t e f,
          total := sectorsOf (tidBits x) ((List.range (max (tidRank x) (tidRank y))).foldl (fun acc k => acc * w (10 + k)) 1) } →
        Begins i e s (probing e (some .cpy) o.asks (.copy o) s1)) ∧
      (i = .tgath f ∨ i = .tscat f → ws = (sWords t e.p f.b 4).map BitVec.toNat →
        sizeBad x (w 0) (w 1) (w 2) (w 2 * e.lanes.length) = false →
        o = { copyNew f e (.rows (i = .tscat f) (e.lanes.map fun l => (l, opVal t e.pid e.p l false .n32 0 f.a))) .gth with
          srcE := BitVec.ofNat 512 x, dstE := BitVec.ofNat 512 y, block := ws, bar := copyBar t e f,
          total := sectorsOf (tidBits x) (w 2 * e.lanes.length) } →
        Begins i e s (probing e (some .gth) o.asks (.copy o) s1))) ∧
    (∀ op pr, i ∈ [.cpy f, .tcpy f, .tgath f, .tscat f, .cpyf f, .tidld f, .tidinv f] → Executing i s e → e.p.wait = some (.op op) →
      s.probes.get op = some pr →
      (pr.ph = .passed → pr.what = .copy o → (o.kind = .tidld ↔ i = .tidld f) →
        ∃ t, exec i s = .next t ∧ Advances e 12 t ∧ t.copies.get op = some o ∧ t.probes.get op = none ∧ SameMemory s t ∧
          (i = .tidld f → MarksD e f.d 1 op s t) ∧ (i ≠ .tidld f → SameV s t ∧ SameS s t)) ∧
      (∀ va, pr.ph = .failed va → ∃ tr u, tr.code = 0x105 ∧ tr.sub = 1 ∧ tr.vas = e.lanes.map (fun l => (l, BitVec.ofNat 56 va)) ∧
        Traps i e s u tr ∧ u.ply? e.pid = some { e.p with ops := e.p.ops.filter fun x => x.id != op } ∧ u.copies = s.copies))

/-- R228, R241, R243 and R247: what a copy engine does. A probe passes where no page fails and fails, with the lowest address,
where none that fails can be serviced. Where no shootdown of its ASID is pending, a sector of a CPY that is not to a launch window is read at its
source and written at its destination, and the barrier is to be decremented by one: that data lands in ascending order is the model's choice (log entry 40). An operation that has moved everything, and whose decrements have all been applied, completes in its
ply's counter. -/
def Obligations.CopyEngines : Prop :=
  ∀ (s t u : State) (op : Nat) (o : CopyOp) (pr : Probe) (bad : List (Nat × Nat)),
    (s.probes.get op = some pr → pr.ph = .going [] →
      s.probeAll (s.plyAgent pr.pid pr.uid pr.skein pr.slot 3) (pr.asks.filter fun a => !s.winAsk pr a) = (t, bad) →
      (bad = [] → exec (.copyProbeDone op) s = .next { t with probes := t.probes.set op { pr with ph := .passed } }) ∧
      (bad ≠ [] → (∀ x ∈ bad, serviceable x.2 = false) → ∃ v, exec (.copyProbeDone op) s = .next v ∧
        v.probes.get op = some { pr with ph := .failed (lowest bad) })) ∧
    (∀ bs r, s.copies.get op = some o → o.kind = .cpy → o.lost = false → (s.skeins.get o.skein).isSome = true → o.done < o.total →
      (s.ctx o.slot).st = .running → o.bar = some r → s.winCopy o = none → s.shooting (s.slotAsid o.slot) = false →
      s.engRead (s.copyAgent o) o.host ((o.srcA + 32 * o.done) % 2 ^ 56) 32 = (t, .ok bs) →
      t.engWrite (s.copyAgent o) ((o.dstA + 32 * o.done) % 2 ^ 56) bs = (u, .ok) →
      ∃ v, exec (.copyDataLands op 1) s = .next v ∧ v.copies.get op = some { o with done := o.done + 1 } ∧ v.hbm = u.hbm ∧ v.mc = u.mc ∧
        v.ls = u.ls ∧ ∃ x, v.tbq = u.tbq ++ [x] ∧ x.ref = r ∧ x.sect = -1 ∧ x.arr = 0) ∧
    (s.copies.get op = some o → o.units ≤ o.done → s.tbOwes op = false → (s.skeins.get o.skein).isSome = true →
      ∃ v, exec (.copyComplete op) s = .next v ∧ v.copies.get op = none ∧ v.hbm = s.hbm ∧ v.ls = s.ls ∧
        (o.kind ≠ .tidld → ∀ pid p, s.plyUid o.uid = some (pid, p) → s.ply? pid = some p → v.ply? pid = some (p.completeOp op)))

/-- R250 and R251: an update of a barrier's 16 bytes. ARRIVE goes down by the arrivals, to 0 with ERR where they exceed it; SECT
takes the sectors modulo 2^40, with ERR where it leaves its range; where both are then 0 the phase advances and ARRIVE is
reloaded; ABT and ERR stay set, and every other bit is as R250 gives it. -/
def Obligations.BarrierWord : Prop :=
  ∀ (b arr : Nat) (sect : Int) (abt err : Bool) (t left : Nat) (x : Int) (ends past wrap : Bool), t = (tbUpdate b arr sect abt err).1 →
    x = tbSect b + sect → past = decide (fld b 63 32 < arr) → wrap = decide (x < -(2 ^ 39) ∨ 2 ^ 39 ≤ x) →
    left = (if past then 0 else fld b 63 32 - arr) → ends = decide (left = 0 ∧ x % 2 ^ 40 = 0) →
    fld t 3 0 = (if ends then (fld b 3 0 + 1) % 16 else fld b 3 0) ∧ bit t 4 = (bit b 4 || abt) ∧
    bit t 5 = (bit b 5 || err || past || wrap) ∧ fld t 7 6 = 0 ∧ fld t 31 8 = fld b 31 8 ∧
    fld t 63 32 = (if ends then fld b 31 8 else left) ∧ tbSect t = (x + 2 ^ 39) % 2 ^ 40 - 2 ^ 39 ∧ t < 2 ^ 104 ∧
    (tbUpdate b arr sect abt err).2 = ends

/-- R252 to R254 with R213: the barrier instructions. TBINIT, TBEXP and, after the release at the barrier's scope, TBARR send
their update to the barrier's home and count as stores, or, where TBARR writes D, as a load whose answer D awaits; TBTEST sends
its read; TBWAIT goes on when its test finds another phase than its token's, with the barrier's low word in D, after an acquire at
the barrier's scope, and waits while it finds the same. TBTEST and TBWAIT first give up the L1's line of the barrier (R172), and a TBWAIT that
passes gives up the clean bytes of the L1 whatever the barrier's scope, which is the model's reading (log entry 150). A misaligned barrier address
traps as MISALIGN, and a TBINIT of more than 2^24 - 1 arrivals is refused before the guard and the other registers are looked at (R101, log entry
21). -/
def Obligations.BarrierInstructions : Prop :=
  ∀ (f : Full) (s s1 : State) (e : Env) (ga b : Nat), ga = tbAddr s e f.a → b = tbB s e f →
    (ga % 16 = 0 → s.acquiring e.p e.pid = false → (∃ va, s.placeOf e.pid e.p ga = .global va) ∨ (∃ c o, s.placeOf e.pid e.p ga = .loc c o) →
      (Executing (.tbinit f) s e → fld b 31 24 = 0 → SendsUpdate (.tbinit f) e f s s .st (tbUpd e f s (some b) 0 0)) ∧
      (Executing (.tbexp f) s e → SendsUpdate (.tbexp f) e f s s .st (tbUpd e f s none 0 b)) ∧
      (Executing (.tbarr f) s e → s.release e.pid (tbScope ga) = (s1, true) →
        (∀ q, s1.placeOf e.pid e.p ga = q → s.placeOf e.pid e.p ga = q) → tbAddr s1 e f.a = ga → tbB s1 e f = b →
        SendsUpdate (.tbarr f) e f s s1 (if isS f.d then .ld else .st) (tbUpd e f s1 none b 0)) ∧
      (Executing (.tbtest f) s e → GoesOut (.tbtest f) e s f.d 1
        { newReq e .tbtest .ld f 1 true [{ onePart e 16 .wait with ga := ga, place := s.placeOf e.pid e.p ga, data := b % 16 }] with
          ty := .n32, n := 1, ord := .acq, scope := tbScope ga }) ∧
      (∀ t0 t v u, Executing (.tbwait f) s e → (∀ id, e.p.wait ≠ some (.op id)) → s.tbHeld e.p = none → (∀ r q, s.blocked s.nextOp r q = false) →
        s.tbPurge (s.whoPly e.pid) (s.tbFind e.p.ctx (s.tbRef e.pid e.p ga)) = (t0, true) → tbB t0 e f = b →
        t0.tbGet (s.whoPly e.pid) (t0.tbFind e.p.ctx (t0.tbRef e.pid e.p ga)) .read = (t, .ok v) →
        (fld v 3 0 ≠ b % 16 → u = writeD ((t.freshOp.2.tbFresh (plyCore e.pid) e.p.ctx).acqBegin t.nextOp e.pid (tbScope (tbAddr t e f.a)) false) e f.d [BitVec.ofNat 32 v]
            (fun _ => []) →
          u.acqDone t.nextOp = true → Completes (.tbwait f) e s u) ∧
        (fld v 3 0 = b % 16 → e.p.wait = none → Begins (.tbwait f) e s (waits e (.redo 1) t)))) ∧
    (Issuing f.g s e → issueCauses (fullSpec s (formTbinit f) (some .st) true f) (s.ctx e.p.ctx) e.pc = [] →
      regsFull s e.p e.act [⟨f.b, 1, false⟩] = true → (∀ id, e.p.wait ≠ some (.op id)) → fld b 31 24 ≠ 0 →
      Traps (.tbinit f) e s s (Trap.plain 0x100 0x0A e.act)) ∧
    (∀ i, i ∈ [.tbexp f, .tbarr f, .tbwait f, .tbtest f] ∨ (i = .tbinit f ∧ fld b 31 24 = 0) → Executing i s e → ga % 16 ≠ 0 →
      (∀ id, e.p.wait ≠ some (.op id)) → ∃ tr, tr.code = 0x104 ∧ tr.vas = e.lanes.map (fun l => (l, BitVec.ofNat 56 ga)) ∧ Traps i e s s tr)

/-- R19, R251 and R252: a home applies the updates that it takes in one clock as one: their arrivals and sectors are summed, with
any ABT or ERR among them, and the barrier takes the result; the updates leave the queue. First the L1s of the cores whose instructions sent
them give up the barrier's line (R172), to the state s0. A TBINIT that it takes alone sets the barrier to its count. An update of a barrier in
the other die's scratchpad is taken once it has crossed the die link (R432): no such one is queued here. -/
def Obligations.HomeUpdates : Prop :=
  ∀ (s s0 t : State) (key n : Nat) (us : List (TbUpd × Nat)) (u : TbUpd) (j old : Nat) (w : Who) (h : TbAt), (∀ x ∈ s.tbq, s.tbCross x = none) → us = (s.tbReady key).take n →
    us.head? = some (u, j) → w = s.tbWho u → h = s.tbFind u.slot u.ref → s.tbPurgeAll h (us.map Prod.fst) = (s0, true) →
    s0.tbGet w h .write = (t, .ok old) →
    ((∀ x ∈ us, x.1.init = none) → ∃ v, exec (.barrierUpdate key n) s = .next v ∧ v.tbq = tbDrop t.tbq (us.map Prod.snd) ∧
      ∀ y, y = t.tbPut w h (tbUpdate old (us.map fun x => x.1.arr).sum (us.map fun x => x.1.sect).sum (us.any fun x => x.1.abt)
        (us.any fun x => x.1.err)).1 → v.ls = y.ls ∧ v.mc = y.mc ∧ v.hbm = y.hbm) ∧
    (∀ c, us = [(u, j)] → u.init = some c → ∃ v, exec (.barrierUpdate key n) s = .next v ∧
      ∀ y, y = t.tbPut w h (c <<< 8 + c <<< 32) → v.ls = y.ls ∧ v.mc = y.mc ∧ v.hbm = y.hbm)

/-! ## Accumulator tiles and the matrix engine -/

/-- R258 to R263: tiles. Where no ply waits for tiles of the partition: ACCALLOC of a number of tiles that fits takes the lowest
free run, cleared, and D its base; one that does not fit answers 0x101 under `.try` and waits without; one that passes the
context's limit traps with subtype 2. A grant gives a waiting ply its run, and 256 clocks of deadlock fail the youngest waiter; a
ply that has its answer goes on with it in D. ACCFREE of held tiles takes them from the skein, and they
are free when every operation that names any of them has completed; of others it traps with subtype 3.
R261 and R262: what the allocator does for the plies that wait. The one request that waits on a partition and fits is granted its
run; 256 clocks after a deadlock began the youngest waiter's answer is 0x100; and a ply whose request has its answer goes on with
it in D. -/
def Obligations.Tiles : Prop :=
  (∀ (f : Full) (s : State) (e : Env) (part n : Nat) (i : Instr) (r : AccReq), part = plyPartKey e.pid → n = mf f 4 0 →
    (s.skeins.get e.p.skein).isSome = true → (∀ x ∈ s.accWait, x.2.part ≠ part) → i = .accalloc f ∨ i = .accallocTry f →
    r = { pid := e.pid, uid := e.p.uid, skein := e.p.skein, slot := e.p.ctx, part := part, n := n, res := none } →
    ((∀ id, e.p.wait ≠ some (.op id)) → Executing i s e →
      (∀ b, (s.heldBy e.p.skein part).length + n ≤ s.accLimit e.p.skein → s.freeRun part n = some b →
        ∃ t, exec i s = .next t ∧ Advances e 12 t ∧ WritesD e f.d 1 (fun _ => b) s t ∧ SameMemory s t ∧
          (∀ k, k < n → b + k ∈ t.heldBy e.p.skein part ∧ ∀ j, j < 64 → t.tileRow part (b + k) j = List.replicate 64 0) ∧
          ∀ k, k ∈ s.heldBy e.p.skein part → k ∈ t.heldBy e.p.skein part) ∧
      ((s.heldBy e.p.skein part).length + n ≤ s.accLimit e.p.skein → s.freeRun part n = none →
        (i = .accallocTry f → ∃ t, exec i s = .next t ∧ Advances e 12 t ∧ WritesD e f.d 1 (fun _ => 0x101) s t ∧ t.tiles = s.tiles) ∧
        (i = .accalloc f → e.p.wait = none → ∃ t, exec i s = .next t ∧ t.accWait.get s.nextOp = some r ∧ SameV s t ∧ SameS s t ∧
          ∃ q, t.ply? e.pid = some q ∧ q.wait = some (.op s.nextOp))) ∧
      (s.accLimit e.p.skein < (s.heldBy e.p.skein part).length + n → Traps i e s s (Trap.plain 0x108 2 e.exec))) ∧
    (Executing (.accfree f) s e →
      (holdsAll e s ((List.range n).map fun k => mTile f + k) = true →
        ∃ t, exec (.accfree f) s = .next t ∧ Advances e 12 t ∧ SameMemory s t ∧ SameV s t ∧ SameS s t ∧
          (∀ ts ops, ts = (List.range n).map (fun k => mTile f + k) → ops = s.namers part ts →
            t.accFree = if ops = [] then s.accFree else s.accFree ++ ts.map fun k => { part := part, tile := k, ops := ops }) ∧
          t.heldBy e.p.skein part = (s.heldBy e.p.skein part).filter fun k => k < mTile f || mTile f + n ≤ k) ∧
      (holdsAll e s ((List.range n).map fun k => mTile f + k) = false → Traps (.accfree f) e s s (Trap.plain 0x108 3 e.exec)))) ∧
  ∀ (f : Full) (s : State) (e : Env) (part id : Nat) (r : AccReq), s.accWait.get id = some r → r.part = part →
    (∀ b, r.res = none → s.accFits r = some b → (s.accWait.filter fun x => x.2.part == part && x.2.res.isNone) = [(id, r)] →
      (s.skeins.get r.skein).isSome = true → ∃ t, exec (.tileGrant part) s = .next t ∧ t.accWait.get id = some { r with res := some b } ∧
        ∀ k, k < r.n → b + k ∈ t.heldBy r.skein part) ∧
    (∀ c, s.accSince.get part = some c → s.accDead part = true → s.youngest part = some (id, r) → c + 256 ≤ s.clock →
      exec (.accDeadlockTimeout part) s =
        .next { s with accWait := s.accWait.set id { r with res := some 0x100 }, accSince := s.accSince.del part }) ∧
    (∀ i v, i = .accalloc f ∨ i = .accallocTry f → Executing i s e → e.p.wait = some (.op id) → r.res = some v → v < 2 ^ 32 →
      ∃ t, exec i s = .next t ∧ Advances e 12 t ∧ WritesD e f.d 1 (fun _ => v) s t ∧ t.accWait = s.accWait.del id)

/-- R264, R265, R267, R270, R272, R276, R278, R279 and R283: matrix instructions at issue. One whose tiles its skein holds, and, for MMA
and MMAZ, whose operands in local store are aligned and the core's own, takes its place in its partition's order after its release, lends
its registers, and lets its destinations wait; MMA `.aacc` of its own tile traps with subtype 4 and an operand that is not the core's own as
ADDR. ACCLD and ACCST, whose entry is accepted, first probe the rows that they read or write, and take the place of their issue when the
probe has passed; a probe that failed traps as ADDR and leaves no trace. A tile that is not held traps with subtype 1, an entry that is not
accepted with subtype 5, and a misaligned address as MISALIGN. The order of these checks is the model's reading (log entry 42). -/
def Obligations.MatrixIssue : Prop :=
  ∀ (i : Instr) (f : Full) (s s1 : State) (e : Env), Executing i s e →
    (∀ o first n, matRow? s e i = some (f, o, first, n) →
      (holdsAll e s ((List.range o.nt).map fun k => mTile f + k) = true → EntersMatrix i e f o first n s s) ∧
      (holdsAll e s ((List.range o.nt).map fun k => mTile f + k) = false → Traps i e s s (Trap.plain 0x108 1 e.exec))) ∧
    (∀ zero src b n, mmaForm s e i = some (f, zero, src) → b = sPairVal s e.p f.b % 2 ^ 56 → n = matBytes (mf f 31 29) (mmaK f) (mmaSc f src) →
      ((∃ a ∈ src.addrs b, a % 64 ≠ 0) → ∃ tr a, a ∈ src.addrs b ∧ a % 64 ≠ 0 ∧ tr.code = 0x104 ∧
        tr.vas = e.lanes.map (fun l => (l, BitVec.ofNat 56 a)) ∧ Traps i e s s tr) ∧
      ((∀ a ∈ src.addrs b, a % 64 = 0) → holdsAll e s (mTile f :: src.tiles) = false → Traps i e s s (Trap.plain 0x108 1 e.exec)) ∧
      ((∀ a ∈ src.addrs b, a % 64 = 0) → holdsAll e s (mTile f :: src.tiles) = true → mTile f ∈ src.tiles →
        Traps i e s s (Trap.plain 0x108 4 e.exec)) ∧
      ((∀ a ∈ src.addrs b, a % 64 = 0) → holdsAll e s (mTile f :: src.tiles) = true → mTile f ∉ src.tiles →
        ((∃ a ∈ src.addrs b, s.localBad e a n ≠ none) → ∃ tr a v, a ∈ src.addrs b ∧ s.localBad e a n = some v ∧ tr.code = 0x105 ∧ tr.sub = 1 ∧
          tr.vas = e.lanes.map (fun l => (l, BitVec.ofNat 56 v)) ∧ Traps i e s s tr) ∧
        ((∀ a ∈ src.addrs b, s.localBad e a n = none) → s.acquiring e.p e.pid = false → s.release e.pid .core = (s1, true) →
          EntersMatrix i e f (mmaNew s1 e f zero src b) (vNum f.a) (64 / e.p.width * src.regs f) s s1))) ∧
    (∀ t x, e.p.wait = none →
      s.tidGet (unitMatrix (plyPartKey e.pid)) (s.plyAgent e.pid e.p.uid e.p.skein e.p.ctx 3) (mf f 11 0) = (t, some x) →
      (i = .accld f →
        (holdsAll e t [mTile f] = false → Traps i e s t (Trap.plain 0x108 1 e.exec)) ∧
        (holdsAll e t [mTile f] = true → matTid x = false → Traps i e s t (Trap.plain 0x108 5 e.exec)) ∧
        (∀ ws, ws = (sWords t e.p f.a 2).map BitVec.toNat → holdsAll e t [mTile f] = true → matTid x = true → t.acquiring e.p e.pid = false →
          t.release e.pid (if (rowAsks x (ws.headD 0) ((ws[1]?).getD 0) false (ownedRows t e fun _ => (0, 0))).any (fun a => a.ga / 2 ^ 48 % 256 = 0)
            then .pkg else .core) = (s1, true) →
            Begins i e s (probing e (some .mma) (rowAsks x (ws.headD 0) ((ws[1]?).getD 0) false (ownedRows s1 e fun _ => (0, 0)))
              (.mat (matNew e f (.load (ws.headD 0) ((ws[1]?).getD 0) (BitVec.ofNat 512 x)) 1 (ownedRows s1 e fun _ => (0, 0)) 0)) s1))) ∧
      (i = .accst f →
        ((mb f 16 = true ∧ accstPair t e f 4 % 16 ≠ 0) ∨ (mf f 31 30 = 2 ∧ accstPair t e f 6 % 64 ≠ 0) →
          ∃ tr, tr.code = 0x104 ∧ tr.lanes = maskOf (lanesOf e.exec) ∧ Traps i e s t tr) ∧
        ((mb f 16 = true → accstPair t e f 4 % 16 = 0) → (mf f 31 30 = 2 → accstPair t e f 6 % 64 = 0) →
          (holdsAll e t [mTile f] = false → Traps i e s t (Trap.plain 0x108 1 e.exec)) ∧
          (holdsAll e t [mTile f] = true → matTid x = false → Traps i e s t (Trap.plain 0x108 5 e.exec)) ∧
          (holdsAll e t [mTile f] = true → matTid x = true →
            (∀ v, mf f 31 30 = 2 → t.localBad e (accstPair t e f 6) 512 = some v →
              ∃ tr, tr.code = 0x105 ∧ tr.sub = 1 ∧ tr.vas = e.lanes.map (fun l => (l, BitVec.ofNat 56 v)) ∧ Traps i e s t tr) ∧
            (t.acquiring e.p e.pid = false →
              (if mf f 31 30 = 2 then t.localBad e (accstPair t e f 6) 512 = none ∧ t.release e.pid .core = (s1, true) else s1 = t) →
              Begins i e s (probing e (some .mma) (accstNew t s1 e f x).1 (.mat (accstNew t s1 e f x).2) s1)))))) ∧
    (∀ op pr, i = .accld f ∨ i = .accst f → e.p.wait = some (.op op) → s.probes.get op = some pr →
      (∀ o, pr.ph = .passed → pr.what = .mat o → o.dn = 0 →
        ∃ t, exec i s = .next t ∧ Advances e 12 t ∧ t.mats.get op = some { o with seq := op } ∧ t.probes.get op = none ∧
          t.lent = s.lent ++ lentRegs e op (vNum f.b) (if i = .accst f ∧ mf f 31 30 = 1 then 2 * (64 / e.p.width) else 0) ∧
          t.tiles = s.tiles ∧ SameMemory s t) ∧
      (∀ va, pr.ph = .failed va → ∃ tr u, tr.code = 0x105 ∧ tr.sub = 1 ∧ tr.vas = e.lanes.map (fun l => (l, BitVec.ofNat 56 va)) ∧
        Traps i e s u tr ∧ u.ply? e.pid = some { e.p with ops := e.p.ops.filter fun x => x.id != op } ∧ u.mats = s.mats ∧ u.lent = s.lent))

/-- R267, R268, R273, R277, R280, R283 and R284: what a matrix operation does when no older one stands before it and its lent
registers have been read. Of a partition on which nobody waits for tiles and no barrier is owed: the rows that it owns take their
new values, or the registers that await it take the row's words, and it completes; ACCLD and ACCST complete when their last row has been moved. That
operands in local store and tiles are read in the state in which the operation has its effect is the model's choice (log entry 43). -/
def Obligations.MatrixEffects : Prop :=
  ∀ (s : State) (op : Nat) (o : MatOp), s.mats.get op = some o → o.stage = 0 → s.matBlocked o = false → s.tbOwes op = false →
    (∀ x ∈ s.accWait, x.2.part ≠ o.part) → (o.rows.map MatRow.r).Nodup → (∀ x ∈ o.rows, (s.tileRow o.part o.tile x.r).length = 64) → (∀ x ∈ s.trigs, x.op ≠ op) →
    exec (.lentRegisterRead op) s = .next { s with lent := s.lent.filter fun l => l.op != op } ∧
    ((∀ l ∈ s.lent, l.op ≠ op) →
      (o.kind = .zero → ∃ t, exec (.matrixOpComplete op) s = .next t ∧ t.mats.get op = none ∧
        (∀ x ∈ o.rows, ∀ k, k < o.nt → t.tileRow o.part (o.tile + k) x.r = List.replicate 64 0)) ∧
      (∀ c0 n, o.kind = .fill c0 n → c0 + n ≤ 64 → (∀ x ∈ o.rows, x.vals.length = n) → ∃ t, exec (.matrixOpComplete op) s = .next t ∧ t.mats.get op = none ∧
        ∀ x ∈ o.rows, t.tileRow o.part o.tile x.r = (s.tileRow o.part o.tile x.r).take c0 ++ x.vals ++ (s.tileRow o.part o.tile x.r).drop (c0 + n)) ∧
      ((∃ sat, o.kind = .rscl sat) ∨ o.kind = .madd ∨ o.kind = .mmul ∨ (∃ c, o.kind = .mex2 c) ∨ o.kind = .mrelu ∨ (∃ rt sat, o.kind = .mrnd rt sat) →
        ∃ t, exec (.matrixOpComplete op) s = .next t ∧ t.mats.get op = none ∧ (∀ x ∈ o.rows, t.tileRow o.part o.tile x.r =
            (s.tileRow o.part o.tile x.r).map fun w => BitVec.ofNat 32 (mapElem o.kind w.toNat (x.vals.headD 0).toNat)) ∧
          ∀ part tile j, (∀ x ∈ o.rows, tileKey part tile j ≠ tileKey o.part o.tile x.r) → t.tileRow part tile j = s.tileRow part tile j) ∧
      (∀ mx x th, (mx = true ∧ o.kind = .rmax) ∨ (mx = false ∧ o.kind = .rsum) → x ∈ o.rows → s.thread o.skein x.tid = some th →
        (th.regs.reg (o.dst + x.j)).pend = some op → ((o.rows.map fun y => (y.tid, y.j)).Nodup) →
        ∃ t, exec (.matrixOpComplete op) s = .next t ∧ t.tiles = s.tiles ∧ t.vReg o.skein x.tid (o.dst + x.j) =
          Reg.write (BitVec.ofNat 32 (rowVal mx ((s.tileRow o.part o.tile x.r).map BitVec.toNat)))) ∧
      (∀ c0 n x k th, o.kind = .mov c0 n → x ∈ o.rows → k < n → c0 + n ≤ (s.tileRow o.part o.tile x.r).length → s.thread o.skein x.tid = some th →
        (th.regs.reg (o.dst + x.j * n + k)).pend = some op → ((o.rows.map fun y => (y.tid, y.j)).Nodup) →
        ∃ t, exec (.matrixOpComplete op) s = .next t ∧ t.tiles = s.tiles ∧
          t.vReg o.skein x.tid (o.dst + x.j * n + k) = Reg.write (((s.tileRow o.part o.tile x.r)[c0 + k]?).getD 0)) ∧
      (∀ zero fm k sc src b ra rb, o.kind = .mma zero fm k sc src b → s.matRead o b (matBytes fm k sc) = some rb →
        s.matRead o (match src with
          | .als ga => ga
          | _ => b) (matBytes fm k sc) = some ra →
        ∃ t, exec (.matrixOpComplete op) s = .next t ∧ t.mats.get op = none ∧ ∀ x ∈ o.rows, t.tileRow o.part o.tile x.r =
          ((if zero then List.replicate 64 0 else s.tileRow o.part o.tile x.r).zip ((List.range 64).map fun c => matRow rb fm k sc c)).map
            fun y => mmaElem k y.1 (s.matA o ra fm k sc src x) y.2) ∧
      (∀ so0 so1 ent u j, o.kind = .load so0 so1 ent → s.loadRows o so0 so1 ent.toNat (o.rows.drop o.done) o.done = (u, j, .fin) →
        ∃ t, exec (.matrixOpComplete op) s = .next t ∧ t.mats.get op = none ∧ t.tiles = u.tiles) ∧
      (∀ d0 d1 scm act cols sat ex ent u j, o.kind = .store d0 d1 scm act none none cols sat ex ent → scm ≠ 2 →
        s.storeRows o d0 d1 scm act ent.toNat sat ex (fun _ => (0, 0)) (o.rows.drop o.done) o.done = (u, j, .fin) →
        ∃ t, exec (.matrixOpComplete op) s = .next t ∧ t.mats.get op = none ∧ t.tiles = u.tiles ∧ t.mc = u.mc ∧ t.ls = u.ls ∧ t.pcieOut = u.pcieOut))

/-! ## Decks -/

/-- R301 and R304 to R309: the deck instructions. On a deck that the context has, DRAW, DRAWT and DECKST send a request to its
controller and their destinations await the reply, DRAW waiting for it and DECKST counting as a load; DEAL, after the release of
the package, appends its entry and answers 0, or, where the ring is full, answers 1 under `.try` and waits without. No deck, no
right to deal and a gate outside the regions trap as DECK with subtypes 1, 2 and 3. That a request joins its controller's one queue when it
issues, and that DEAL's own step writes and tests its entry, is the model's choice (log entries 47 and 49). -/
def Obligations.DeckInstructions : Prop :=
  ∀ (f : Full) (s s1 t : State) (e : Env) (k : Nat) (d : Deck) (o : DeckKind → DeckOp) (trap : Nat → Nat → Trap), k = deckKey e.p.ctx (mDeck f) →
    o = (fun kind => { kind := kind, pid := e.pid, uid := e.p.uid, slot := e.p.ctx, deck := mDeck f, pc := e.pc, dst := sNum f.d,
                       yld := bit f.h.toNat 5, jw := fld f.h.toNat 4 2, reply := none,
                       skein := e.p.skein, tids := (e.p.threadsOf e.exec).map Prod.snd }) →
    trap = (fun sub va => { Trap.plain 0x109 sub e.exec with vas := e.lanes.map fun l => (l, BitVec.ofNat 56 va) }) →
    (e.p.wait = none → s.decks.get k = none →
      (∀ i, i ∈ [.draw f, .drawt f, .deal f, .dealTry f] → Executing i s e → Traps i e s s (trap 1 0)) ∧
      (Executing (.deckst f) s e → s.acquiring e.p e.pid = false → ∃ u, exec (.deckst f) s = .next u ∧ Advances e 12 u ∧ MarksD e f.d 2 s.nextOp s u ∧
        u.deckOps.get s.nextOp = some { o .st with reply := some (.status 0) })) ∧
    (e.p.wait = none → s.decks.get k = some d → s.acquiring e.p e.pid = false →
      (∀ i kind n, (i = .draw f ∧ kind = .draw ∧ n = 12) ∨ (i = .drawt f ∧ kind = .drawt ∧ n = 13) ∨ (i = .deckst f ∧ kind = .st ∧ n = 2) →
        Executing i s e → ∃ u, exec i s = .next u ∧ MarksD e f.d n s.nextOp s u ∧ SameMemory s u ∧
          u.deckOps.get s.nextOp = some (o kind) ∧ u.decks.get k = some { d with inbox := d.inbox ++ [s.nextOp] } ∧
          (∃ q, u.ply? e.pid = some q ∧ q.wait = (if kind = .draw then some (.op s.nextOp) else none) ∧
            q.ops = e.p.ops ++ (if kind = .st then [{ id := s.nextOp, cls := .ld, done := false }] else [])) ∧
          (kind ≠ .draw → Advances e 12 u)) ∧
      (∀ i bs, i = .deal f ∨ i = .dealTry f → bs = (sWords s e.p f.a 16).flatMap wordBytes → Executing i s e →
        (d.devdeal = false → Traps i e s s (trap 2 0)) ∧
        (∀ ga, d.devdeal = true → gateBad bs = some ga → Traps i e s s (trap 3 ga)) ∧
        (d.devdeal = true → gateBad bs = none → d.full = true →
          (i = .dealTry f → Completes i e s (writeD s e f.d [1] fun _ => [])) ∧ (i = .deal f → Begins i e s (waits e (.redo 1) s))) ∧
        (d.devdeal = true → gateBad bs = none → d.full = false → s.release e.pid .pkg = (s1, true) → s1.append k bs = some t →
          Completes i e s (writeD t e f.d [0] fun _ => []))))

/-- R299, R301 to R303, R305, R306 and R308: what a deck controller does. TAIL advances over an entry that is dealt; the
host's deals go the same way, or count in DROPS, which a read returns and clears, and CREDIT is the room that they leave. A DECKST request is
answered with the deck's
status, a DRAWT that finds nothing READY with 1, one that does with the entry; a waiting entry whose gate is found open becomes
READY. A reply that arrives fills the registers that still await it. That the requests of a deck form one queue, what a faulted ring line
gives, when a gate is read and that a test waits out a clock are the model's choice (log entries 47, 48 and 50). -/
def Obligations.DeckControllers : Prop :=
  ∀ (s t : State) (slot deck k : Nat) (d : Deck), k = deckKey slot deck → s.decks.get k = some d →
    (∀ bs, s.append k bs = some t → ∃ d', t.decks.get k = some d' ∧ d'.tail = d.tail + 1) ∧
    (d.hostw = true → s.serves = true → ∀ bs, (d.full = true ∨ bs.length ≠ 64 ∨ gateBad bs ≠ none → exec (.hostDeal slot deck bs) s =
        .next { s with decks := s.decks.set k { d with drops := min (2 ^ 32 - 1) (d.drops + 1) } }) ∧
      (d.full = false → bs.length = 64 → gateBad bs = none → d.deals = [] → s.append k bs = some t → exec (.hostDeal slot deck bs) s = .next t)) ∧
    (d.hostw = true → s.deckWindow slot deck 0x40 = d.size - (d.tail - d.head + d.deals.length)) ∧
    (d.hostw = true → s.serves = true → exec (.dropsRead slot deck) s = .next { s with
        pcieOut := s.pcieOut ++ [.completion (leBytes 4 d.drops)], decks := s.decks.set k { d with drops := 0 } }) ∧
    (∀ op rest o s1, d.inbox = op :: rest → s.deckOps.get op = some o → s1 = { s with decks := s.decks.set k { d with inbox := rest } } →
      (o.kind = .st → exec (.deckRequest slot deck) s =
        .next { s1 with deckOps := s.deckOps.upd op fun o => { o with reply := some (.status d.status) } }) ∧
      (o.kind = .drawt → d.ready = [] → exec (.deckRequest slot deck) s =
        .next { s1 with deckOps := s.deckOps.upd op fun o => { o with reply := some .empty } }) ∧
      (∀ i is bs, o.kind = .drawt → d.ready = i :: is → d.waiting = [] → (d.slots.get i).map DSlot.found ≠ some s.clock →
        s1.engGet (s1.deckAgent (k / 64)) [] (d.ring + 64 * i) 48 = (t, .ok bs) →
        ∃ u, exec (.deckRequest slot deck) s = .next u ∧ u.deckOps.get op = some { o with reply := some (.entry bs) }) ∧
      (o.kind = .draw → d.ready = [] → ∃ u, exec (.deckRequest slot deck) s = .next u ∧
        u.decks.get k = some { d with inbox := rest, waiting := d.waiting ++ [op] })) ∧
    (∀ i x g b, ((List.range d.held).map fun j => (d.head + j) % d.size).filter (fun j => match d.slots.get j with
        | some y => y.st == .waiting && y.due
        | none => false) = [i] → d.slots.get i = some x → x.gates = [g] → d.waiting = [] → d.deals = [] →
      (∀ j ∈ d.ready, (d.slots.get j).map DSlot.found ≠ some s.clock) →
      s.tbGet (s.deckAgent (k / 64)).who (s.tbFind (k / 64) (s.gateRef (k / 64) g.1)) .read = (t, .ok b) → fld b 3 0 ≠ g.2 →
      ∃ u d', exec (.gateRetest slot deck) s = .next u ∧ u.decks.get k = some d' ∧ d'.ready = d.ready ++ [i] ∧
        d'.slots.get i = some { x with st := .ready, due := false, found := s.clock }) ∧
    (∀ op o r p j, s.deckOps.get op = some o → o.reply = some r → s.ply? o.pid = some p → p.uid = o.uid →
      (s.sRegOf o.pid (o.dst + j)).pend = some op →
      ∃ u, exec (.deckPayloadArrival op) s = .next u ∧ u.deckOps.get op = none ∧
        (∀ w, (deckWords o.kind r)[j]? = some w → (∀ sub, r ≠ .fault sub) → u.sRegOf o.pid (o.dst + j) = Reg.write w) ∧
        ∀ sub, r = .fault sub → j < (if o.kind = .drawt then 13 else 12) →
          u.sRegOf o.pid (o.dst + j) = { val := faultRecord sub (codeOff (s.ctx o.slot) o.pc.toNat), st := .faulted, pend := none })

/-! ## The fabric -/

/-- R361, R362 and R364: MCST to a group of its context, at an aligned offset and after its release, sends one packet with its
words to the switch and counts as a store until it is acknowledged; a group that is not the context's is refused, a misaligned
offset traps. A copy of its words that reaches a package whose entry delivers one is written there as an inbound access, and one whose
entry does not leaves the package as it is. RFENCE drains the entries of the devices it covers, ends the interval of R211 where it covers
every device, and goes on, or traps with the earliest remote-store error, when none of the ply's writes to them is unacknowledged; till then
it waits. One merged acknowledgement for all copies, which the request names by its own package, is the model's choice (log entries 70 and 88). -/
def Obligations.Multicast : Prop :=
  ∀ (f : Full) (s s1 t : State) (e : Env) (off : Nat) (k : McstPkt),
    (∀ sp early, pipe s (.mcst f) = some (sp, early) → Issuing sp.guard s e → issueCauses sp (s.ctx e.p.ctx) e.pc = [] →
      (∀ id, e.p.wait ≠ some (.op id)) → s.mgroupOk (mX f) (pktCtxid (s.ctx e.p.ctx)) = false →
      Traps (.mcst f) e s s (Trap.plain 0x100 0x0A e.act)) ∧
    (off = sPairVal s e.p f.a % 2 ^ 44 → Executing (.mcst f) s e →
      (off % (4 * mcstCount f) ≠ 0 →
        ∃ tr, tr.code = 0x104 ∧ tr.vas = e.lanes.map (fun l => (l, BitVec.ofNat 56 off)) ∧ Traps (.mcst f) e s s tr) ∧
      (off % (4 * mcstCount f) = 0 → s.acquiring e.p e.pid = false →
        (if mb f 27 then s.release e.pid .pod = (s1, true) else s1 = s) →
        k = { dev := s1.mgmt.devidx, up := s1.mgmt.devidx, req := s1.nextOp + 1, group := mX f, ctxid := pktCtxid (s.ctx e.p.ctx),
              load := .store off (sWords s e.p f.b (mcstCount f)) } →
        ∃ v, exec (.mcst f) s = .next v ∧ Advances e 12 v ∧ SameMemory s1 v ∧ SameV s1 v ∧ SameS s1 v ∧
          (∃ pk, v.fabOut = s1.fabOut ++ [pk] ∧ pk.dst = s1.mgmt.devidx ∧ pk.body = .mcst k) ∧
          (∃ r, v.remote.get (s1.nextOp + 1) = some r ∧ r.use = .mcst s1.nextOp e.p.skein ((e.p.threadsOf e.exec).map Prod.snd) e.p.uid ∧ r.pid = e.pid) ∧
          ∀ p, s1.ply? e.pid = some p → ∃ q, v.ply? e.pid = some q ∧ q.podStore = true ∧
            q.ops = p.ops ++ [{ id := s1.nextOp, cls := .st, done := false }])) ∧
    (k.dev ≠ s.mgmt.devidx →
      (s.mgroupOk k.group k.ctxid = false ∨ bit (s.mgroup k.group) 24 = false → exec (.mcstDelivery k) s = .next s) ∧
      (∀ u w va o ws bs y, s.mgroupOk k.group k.ctxid = true → bit (s.mgroup k.group) 24 = true → k.load = .store o ws →
        w = s.whoPod k.dev k.ctxid → va = podVa o → bs = ws.flatMap wordBytes → s.home w (va / 64) .write = (u, .ok y) →
        ∃ v, exec (.mcstDelivery k) s = .next v ∧
          v.mc = (u.mcPut w.asid (va / 64) (lineAt (va % 64) bs.length (leNat bs)) (byteSpan (va % 64) bs.length)).mc ∧
          ∃ pk, v.fabOut = u.fabOut ++ [pk] ∧ pk.dst = k.up ∧ pk.body = .reply k.req .ack)) ∧
    (∀ i one cov, (i = .rfence f ∧ one = false) ∨ (i = .rfenceOne f ∧ one = true) → Executing i s e →
      cov = (fun d => !one || d == ((sWords s e.p f.a 1).headD 0).toNat % 2048) →
      t = s.wcDrain (plyCore e.pid) (fun x => x.slot == e.p.ctx && cov x.dev) →
      ((t.wcWaiting (plyCore e.pid) e.p.ctx (fun d _ => cov d) || t.remoteOpen e cov (!one)) = false →
        ∀ u, u = (if one then t else t.updPly e.pid fun p => { p with podStore := false }) →
          (TakesNone u e.pid false (fun c => isRemoteCond c.kind) → Completes i e s u) ∧
          (∀ p c cs, u.ply? e.pid = some p → p.hnd = none → takeFirst (fun c => isRemoteCond c.kind) p.conds = some (c, cs) →
            ∃ tr, tr.code = c.code ∧ tr.sub = c.sub ∧ Traps i e s (u.setPly e.pid { p with conds := cs }) tr)) ∧
      ((t.wcWaiting (plyCore e.pid) e.p.ctx (fun d _ => cov d) || t.remoteOpen e cov (!one)) = true → e.p.wait = none →
        Begins i e s (waits e (.redo 1) t)))

/-- R343 to R349 and R353 to R356: ports and the switch. A port that fails stops, and of the packets that its data link has taken it gives
the last ones back, ahead of all others and without the hop that they did not take; a replay of one flit that fails eight times in a row fails it; a lane
of its transmit direction that fails, or that turns, makes that direction retrain with the lanes that are left, and its packets come back
likewise, and one of its receive direction leaves its own traffic as it was; with the end of the retrain routing returns to it; training
brings it up; reading its status clears REPLAY; FABCFG takes a value whose fields are in range, changes P23STD only while
no context is active, and then port 23 trains again. A packet waiting in the switch, the first of
its flow, goes out of the port of its next hop one hop on, and is dropped at its ninth; one that arrives in the order of its flow is
delivered, and an older one is discarded. How many packets come back is free, what PORT_UP
and FLIT_REPLAY tell beyond the port, the state of a turned lane and the retraining of port 23 are the model's choice (log entries 66, 67, 68,
135, 136 and 153). -/
def Obligations.PortsAndSwitch : Prop :=
  ∀ (s : State) (k lane : Nat) (p : Port) (pk : FabPkt) (rest : List FabPkt), p = s.port k → k < 24 → (k = 23 → s.p23std = false) →
    (p.st ≠ 0 → ∃ t, exec (.portFail k) s = .next t ∧ GivesBack k p s t ∧
      t.port k = { p with wire := [], det := true, st := 0, rtx := false, fail := true, row := 0 } ∧ ∀ j, j ≠ k → t.port j = s.port j) ∧
    (∀ again row, row = (if again then p.row + 1 else 0) → p.up = true →
      (row < 8 → exec (.flitReplay { port := k, again := again }) s =
        .next { s with ports := s.ports.set k { p with replay := min 0xFFFF (p.replay + 1), row := row } }) ∧
      (8 ≤ row → ∃ t, exec (.flitReplay { port := k, again := again }) s = .next t ∧ (t.port k).st = 0 ∧ (t.port k).fail = true ∧
        GivesBack k p s t)) ∧
    (∀ q, q = { p with ok := p.ok - 2 ^ lane } → lane < 8 → bit p.ok lane = true → 2 ≤ p.st → q.txLanes ≠ 0 → q.rxLanes ≠ 0 →
      (bit p.tx lane = true → ∃ t, exec (.laneFail k lane) s = .next t ∧ t.port k = { q with wire := [], det := true, st := 4, rtx := true } ∧
        GivesBack k p s t) ∧
      (bit p.tx lane = false → ∃ t, exec (.laneFail k lane) s = .next t ∧ t.port k = { q with st := 4 } ∧ t.fabOut = s.fabOut)) ∧
    (∀ q, q = { p with tx := p.tx - 2 ^ lane, rx := p.rx ||| 2 ^ lane } → lane < 8 → bit s.mgmt.fabcfg.toNat 18 = true →
      2 ≤ p.st → bit p.ok lane = true → bit p.tx lane = true → p.rxLanes < 4 → q.txLanes ≠ 0 → q.rxLanes ≠ 0 →
      ∃ t, exec (.laneTurn k lane) s = .next t ∧ t.port k = { q with wire := [], det := true, st := 4, rtx := true } ∧ GivesBack k p s t) ∧
    (p.st = 4 → ∃ t, exec (.retrainDone k) s = .next t ∧ t.port k = { p with st := p.upSt, rtx := false, det := false } ∧
      ∀ j, j ≠ k → t.port j = s.port j) ∧
    (∀ dev j low, p.st < 2 → p.ok = 0 → s.hasUnit 2 = true →
      (exec (.portUp k dev { pport := j, low := low, ended := false }) s = .next (s.updPort k fun p => { p with st := 1 })) ∧
      ∃ t, exec (.portUp k dev { pport := j, low := low, ended := true }) s = .next t ∧
        t.port k = { p with tx := if low then 0x0F else 0xF0, rx := if low then 0xF0 else 0x0F, ok := 0xFF, pdev := dev % 2048, pport := j % 32,
                            txw := 4, rxw := 4, st := 2, rtx := false, row := 0, det := false }) ∧
    (s.serves = true → exec (.portStatusRead k) s = .next { s with
        ports := s.ports.set k { p with replay := 0 }, pcieOut := s.pcieOut ++ [.completion (leBytes 8 (s.portStatus k))] }) ∧
    (∀ v : Word, s.serves = true → v.getLsbD 19 = s.p23std → (1 ≤ fld v.toNat 17 10 ∧ fld v.toNat 17 10 ≤ 128 ∧ 1 ≤ fld v.toNat 9 0 ∧ fld v.toNat 9 0 ≤ 1000 →
        exec (.fabcfgWrite v) s = .next { s with mgmt := { s.mgmt with fabcfg := v &&& 0xFFFFF } }) ∧
      (fld v.toNat 17 10 = 0 ∨ 128 < fld v.toNat 17 10 ∨ fld v.toNat 9 0 = 0 ∨ 1000 < fld v.toNat 9 0 → exec (.fabcfgWrite v) s = .next s)) ∧
    (∀ v : Word, s.serves = true → v.getLsbD 19 ≠ s.p23std →
      (s.anyActive = true → exec (.fabcfgWrite v) s = .next s) ∧
      (s.anyActive = false → 1 ≤ fld v.toNat 17 10 → fld v.toNat 17 10 ≤ 128 → 1 ≤ fld v.toNat 9 0 → fld v.toNat 9 0 ≤ 1000 →
        ∃ t, exec (.fabcfgWrite v) s = .next t ∧ t.mgmt.fabcfg = v &&& 0xFFFFF ∧ ((s.port 23).up = true → (t.port 23).st = 0))) ∧
    (s.fabOut = pk :: rest → pk.dst ≠ s.mgmt.devidx → s.boundStd pk.dst = false →
      pk.dst < 4096 → (8 ≤ pk.hop → exec (.packetForward pk) s = .next { s with fabOut := rest }) ∧
      (pk.hop < 8 → s.nextHop pk = some k → ∃ t, exec (.packetForward pk) s = .next t ∧ t.fabOut = rest ∧
        t.port k = { p with wire := p.wire ++ [{ pk with hop := pk.hop + 1 }] } ∧ ∀ j, j ≠ k → t.port j = s.port j)) ∧
    (pk ∉ s.fabOut → pk.src ≠ s.mgmt.devidx → pk.dst = s.mgmt.devidx → s.hasUnit 2 = true → s.boundStd pk.src = false →
      (pk.seq < (s.flowIn.get (arriveKey pk)).getD 0 → exec (.packetForward pk) s = .next s) ∧
      (∀ c ph, s.flowHeld = [] → pk.seq = (s.flowIn.get (arriveKey pk)).getD 0 → pk.body = .podBar c ph →
        ∃ t, exec (.packetForward pk) s = .next t ∧ t.flowHeld = [] ∧ t.flowIn.get (arriveKey pk) = some (pk.seq + 1) ∧
          t.ctxs = (s.podPhase pk.src c ph).ctxs))

/-! ## Collectives -/

/-- R374, R375 and R386 to R388: the collective instructions. CGLOAD of an aligned image, after the release of the package, asks
the engine to read it and D awaits the status. CGRUN of a filled slot and group of sizes that agree, with aligned ranges and room
for a call, begins the probe of every page that the call uses; once it has passed, no CGRUN that issued earlier is still in its probe and no
WAIT's barrier fails, the call is accepted with its group's trick, which goes up, and a start packet goes to every other member, one packet
for the multicast group where the group has one; each awaits its acknowledgement. CGSTAT answers with the group's snapshot, CGABORT aborts
every call of the group, and CGTRIG sends its trigger. An empty slot or group refuses the instruction, and so do too few bases or ranks. When
D is marked, which ranges are probed, the request that awaits a start packet's acknowledgement and the wait for an earlier probe are the
model's choice (log entries 77, 81, 83 and 138). -/
def Obligations.CollectiveInstructions : Prop :=
  ∀ (f : Full) (s s1 : State) (e : Env) (i : Instr) (g : GroupSt) (graph : Graph) (c : Call), c = s.callNew e f graph g.grp →
    (s.acquiring e.p e.pid = false → s.release e.pid .pkg = (s1, true) → Executing i s e →
      (∀ k ga, (i = .cgloadGraph f ∧ k = 2 * mX f) ∨ (i = .cgloadGroup f ∧ k = 2 * mX f + 1) → ga = sPairVal s e.p f.a % 2 ^ 56 → ga % 64 = 0 →
        GoesOutAfter i e s s1 f.d 1 { newReq e (.image false k) .net f 1 true [{ onePart e 4 .wait with ga := ga, place := s1.placeOf e.pid e.p ga }] with
          ty := .n32, n := 1, ord := .weak }) ∧
      (i = .cgrun f → e.p.wait = none → (s.gslot e.p.ctx (mX f)).graph = some graph → s.groupSt e.p.ctx (mY f) = some g →
        (∀ x ∈ (sPairVal s e.p f.d % 2 ^ 56, 16) :: c.aligns, x.1 % x.2 = 0) → s.callCount e.p.ctx < 256 →
        Begins i e s (probing e (some .net) c.asks (.call c) s1)) ∧
      (i = .cgtrig f → ∃ t, exec i s = .next t ∧ Advances e 12 t ∧ SameMemory s1 t ∧ SameV s1 t ∧ SameS s1 t ∧
        t.trigs = s1.trigs ++ [{ op := s1.nextOp, slot := e.p.ctx, pid := e.pid, uid := e.p.uid,
                                 target := (sWords s1 e.p f.a 1).headD 0, cg := true }] ∧
        ∀ p, s1.ply? e.pid = some p → ∃ q, t.ply? e.pid = some q ∧ q.ops = p.ops ++ [{ id := s1.nextOp, cls := .st, done := false }])) ∧
    (∀ op pr u ws (c : Call), Executing (.cgrun f) s e → e.p.wait = some (.op op) → s.probes.get op = some pr → pr.ph = .passed → pr.what = .call c →
      s.callEarlier op = false → State.sample { s with probes := s.probes.del op } c = (u, some (ws, none)) → u.groupSt c.slot c.group = some g →
      u.colHeld = [] → (u.gslot c.slot c.gslot).trigs = [] →
      ∃ t, exec (.cgrun f) s = .next t ∧ Advances e 12 t ∧
        t.calls.get op = some { c with trick := g.trick, order := u.nextOp, waits := ws,
                                       ops := c.graph.ops.map fun x => { cnt := coDep x, ph := .idle, buf := [], emax := none } } ∧
        t.groupSt c.slot c.group = some { g with trick := (g.trick + 1) % 2 ^ 32 } ∧
        ∀ pkt, pkt = (fun n => ({ ctxid := pktCtxid (u.ctx c.slot), group := c.group, trick := g.trick, src := c.grp.rank,
                                  dev := u.mgmt.devidx, req := n, sig := c.graph.sig } : StartPkt)) →
          (c.grp.men = false → ∃ ps, t.fabOut = u.fabOut ++ ps ∧ ps.map (fun pk => pk.dst) = c.grp.others.map c.grp.dev ∧
            ∀ pk ∈ ps, ∃ n q, pk.body = .start (pkt n) ∧ t.remote.get n = some q ∧ q.use = .col op none ∧ q.dev = pk.dst) ∧
          (c.grp.men = true → c.grp.others ≠ [] → ∃ pk n q, t.fabOut = u.fabOut ++ [pk] ∧ pk.dst = u.mgmt.devidx ∧
            pk.body = .mcst { dev := u.mgmt.devidx, up := u.mgmt.devidx, req := n, group := c.grp.mgrp, ctxid := pktCtxid (u.ctx c.slot),
                              load := .start (pkt n) } ∧ t.remote.get n = some q ∧ q.use = .col op none)) ∧
    (Executing (.cgstat f) s e → s.acquiring e.p e.pid = false →
      GoesOut (.cgstat f) e s f.d 2 (oneReq e f .segstat .n64 2 (.ready (leBytes 8 (s.cgstatVal e.p.ctx (mX f)))))) ∧
    (Executing (.cgabort f) s e → Completes (.cgabort f) e s
      ((s.callsOf fun c => c.slot == e.p.ctx && c.group == mX f).foldl (fun s x => s.callAbort x.1 0 true none) s)) ∧
    (∀ sp early, pipe s i = some (sp, early) → Issuing sp.guard s e → issueCauses sp (s.ctx e.p.ctx) e.pc = [] →
      (∀ id, e.p.wait ≠ some (.op id)) → (i = .cgabort f ∧ s.groupSt e.p.ctx (mX f) = none) ∨
      (i = .cgrun f ∧ ((s.gslot e.p.ctx (mX f)).graph = none ∨ s.groupSt e.p.ctx (mY f) = none ∨
        ((s.gslot e.p.ctx (mX f)).graph = some graph ∧ s.groupSt e.p.ctx (mY f) = some g ∧
          (mf f 26 24 + 1 < graph.nbase ∨ ∃ r, graph.absMax = some r ∧ g.grp.size ≤ r)))) →
      Traps i e s s (Trap.plain 0x100 0x0A e.act))

/-- R369, R375, R377, R378, R382 and R384: what the collective engine does. An operation whose counter is 0, in a call that every
member has started, begins: COMPUTE, and RECV, COPY and WAIT, and MCAST where another member owns it, wait; SIGNAL sends its
arrivals to its barrier; SEND reads its source and sends it, which its receiver acknowledges. RECV, COPY and an owned REDUCE land their
bytes, WAIT ends when its barrier's phase has changed, and an operation that sent or signalled ends when every acknowledgement has come and
its arrivals have been performed; each then completes. A trigger decrements the counter of the oldest call that has one above 0, or is held.
A start packet of the call's signature is noted, and data of an operation is kept for it where the chunk buffers have room, and each is
acknowledged; where they disagree with the call, and on an abort or a timeout of a packet, a call with no arrivals under way aborts at once.
A packet for a trick that is past is answered with an abort, one for a later trick is held. REDUCEs of one TAG with another owner or LEN
end their call. How data pairs with operations of one TAG, that a successor named twice is decremented twice, that a SIGNAL whose update fails
completes, the requests that await acknowledgements and the abort in one step are the model's choice (log entries 79, 80, 82, 83, 85, 155 and
156). -/
def Obligations.CollectiveEvents : Prop :=
  ∀ (s t : State) (call idx x : Nat) (c : Call) (h : ChSt) (u r : State), s.calls.get call = some c → x = c.co idx → h = c.chunk idx →
    (idx < c.ops.length → h.ph = .idle → h.cnt = 0 → s.callLive c = true →
      (coOpc x = 7 → exec (.chunkOpStart call idx) s =
        .next { s with calls := s.calls.set call (c.updOp idx fun h => { h with ph := .landed }) }) ∧
      (coOpc x ∈ [1, 4, 5] ∨ (coOpc x = 3 ∧ c.owns x = false) → exec (.chunkOpStart call idx) s =
        .next { s with calls := s.calls.set call (c.updOp idx fun h => { h with ph := .begun }) }) ∧
      (coOpc x = 2 → c.redClash idx = true → (∀ i, i < c.ops.length → s.signalling call i = false) →
        ∃ v, exec (.chunkOpStart call idx) s = .next v ∧ CallAborts c call 1 s v) ∧
      (coOpc x = 6 → ∃ v b, exec (.chunkOpStart call idx) s = .next v ∧ v.calls = s.calls.set call (c.updOp idx fun h => { h with ph := .landed }) ∧
        v.tbq = s.tbq ++ [b] ∧ b.arr = coArg x ∧ b.sect = 0 ∧ b.abt = false ∧ b.ref = s.callRef c (c.tgt x)) ∧
      (∀ bs, coOpc x = 0 → c.grp.peer x ≠ c.grp.rank → s.colRead (s.callAgent c) (c.src x, coLen x) = (t, .ok bs) → t.calls = s.calls →
        ∃ v pk, exec (.chunkOpStart call idx) s = .next v ∧
          v.calls.get call = some (c.updOp idx fun h => { h with ph := .landed, buf := bs }) ∧
          v.fabOut = t.fabOut ++ [pk] ∧ pk.dst = c.grp.dev (c.grp.peer x) ∧
          pk.body = .eng { ctxid := pktCtxid (t.ctx c.slot), group := c.group, trick := c.trick, src := c.grp.rank, dev := t.mgmt.devidx,
                           req := t.nextOp, data := .send (coTag x) (c.before 0 (c.grp.peer x) (coTag x) idx) bs } ∧
          ∃ q, v.remote.get t.nextOp = some q ∧ q.use = .col call (some idx) ∧ q.dev = pk.dst)) ∧
    (h.ph = .begun → c.abort = none →
      (∀ bs y, (r = s ∧ coOpc x = 1 ∧ ∃ src tag n, c.inbox.find? (fun y => y.1 == c.grp.peer x && (match y.2 with
            | .send t n _ => t == coTag x && n == c.before 1 (c.grp.peer x) (coTag x) idx
            | _ => false)) = some (src, .send tag n bs)) ∨
          (r = s ∧ coOpc x = 2 ∧ c.owns x = true ∧ c.redBytes idx = some bs) ∨
          (coOpc x = 4 ∧ s.colRead (s.callAgent c) (c.src x, coLen x) = (r, .ok bs)) →
        r.colWrite (r.callAgent c) (c.tgt x) bs = (u, .ok y) → u.calls = s.calls →
        ∃ v, exec (.chunkOpComplete call idx) s = .next v ∧ v.hbm = u.hbm ∧ v.mc = u.mc ∧ v.ls = u.ls ∧ OpEnds c call idx u v) ∧
      (∀ b, coOpc x = 5 → s.tbGet (s.callAgent c).who (s.tbFind c.slot (s.callRef c (c.src x))) .read = (t, .ok b) → t.calls = s.calls →
        (some (fld b 3 0) = c.waits.get idx → exec (.chunkOpComplete call idx) s = .next t) ∧
        (some (fld b 3 0) ≠ c.waits.get idx → ∃ v, exec (.chunkOpComplete call idx) s = .next v ∧ OpEnds c call idx t v))) ∧
    (h.ph = .landed → c.abort = none → (∀ y ∈ s.tbq, ∀ n k, y.eng = some (n, k) → n ≠ sigKey call idx) →
      (∀ q ∈ s.remote, q.2.use ≠ .col call (some idx)) →
      ∃ v, exec (.chunkOpComplete call idx) s = .next v ∧ OpEnds c call idx s v) ∧
    (∀ op tr g i gr y, s.trigs.find? (fun t => t.op == op) = some tr → g = fld tr.target.toNat 7 0 → i = fld tr.target.toNat 23 8 →
      fld tr.target.toNat 31 24 = 0 → (s.gslot tr.slot g).graph = some gr → gr.ops[i]? = some y → coOpc y = 7 →
      ∃ v, exec (.tileTrigger op) s = .next v ∧ v.trigs = s.trigs.filter (fun x => x.op != op) ∧
        ((s.callsOf fun c => c.slot == tr.slot && c.gslot == g).find? (fun z => 0 < (z.2.chunk i).cnt) = some (call, c) →
          v.calls = s.calls.set call (c.updOp i fun h => { h with cnt := h.cnt - 1 }) ∧ v.gslots = s.gslots) ∧
        (∀ n, (s.callsOf fun c => c.slot == tr.slot && c.gslot == g).find? (fun z => 0 < (z.2.chunk i).cnt) = none →
          n = ((s.gslot tr.slot g).trigs.get i).getD 0 → n < 255 →
          v.calls = s.calls ∧ (v.gslot tr.slot g).trigs.get i = some (n + 1)) ∧
        (∀ pid p, tr.cg = true → s.plyUid tr.uid = some (pid, p) → s.ply? pid = some p →
          (s.callsOf fun c => c.slot == tr.slot && c.gslot == g).find? (fun z => 0 < (z.2.chunk i).cnt) = some (call, c) →
          v.ply? pid = some (p.completeOp op))) ∧
    (∀ (p : StartPkt) slot, p.dev ≠ s.mgmt.devidx → s.slotFor p.ctxid = some slot →
      (s.callAt slot p.group p.trick = some (call, c) → c.abort = none →
        (p.sig = c.graph.sig → exec (.startPacketArrival p) s =
          .next (State.colAck p.dev p.req { s with calls := s.calls.set call { c with starts := p.src :: c.starts } })) ∧
        (p.sig ≠ c.graph.sig → (∀ i, i < c.ops.length → s.signalling call i = false) →
          ∃ v, exec (.startPacketArrival p) s = .next v ∧ CallAborts c call 1 s v)) ∧
      (∀ g, s.callAt slot p.group p.trick = none → s.groupSt slot p.group = some g →
        (pastTrick g.trick p.trick = false →
          exec (.startPacketArrival p) s = .next (State.colAck p.dev p.req { s with colHeld := s.colHeld ++ [.start p] })) ∧
        (pastTrick g.trick p.trick = true → exec (.startPacketArrival p) s = .next (s.fabSend .eng colAgent p.dev
          (.abort { ctxid := p.ctxid, group := p.group, trick := p.trick, src := g.grp.rank, late := true }))))) ∧
    (∀ (p : EngPkt) slot, p.dev ≠ s.mgmt.devidx → s.slotFor p.ctxid = some slot → s.callAt slot p.group p.trick = some (call, c) →
      c.abort = none →
      (c.disagrees p.src p.data = true → (∀ i, i < c.ops.length → s.signalling call i = false) →
        ∃ v, exec (.engineDataArrival p) s = .next v ∧ CallAborts c call 1 s v) ∧
      (c.disagrees p.src p.data = false → (∀ y ∈ c.graph.ops, coOpc y ≠ 2) → (∀ a b d, p.data ≠ .owner a b d) → exec (.engineDataArrival p) s =
        .next { State.colAck p.dev p.req s with calls := s.calls.set call { c with inbox := c.inbox ++ [(p.src, p.data)] } })) ∧
    (∀ (p : AbortPkt) slot, s.slotFor p.ctxid = some slot → s.callAt slot p.group p.trick = some (call, c) → c.abort = none →
      (∀ i, i < c.ops.length → s.signalling call i = false) →
      ∃ v, exec (.abortPacketArrival p) s = .next v ∧ CallAborts c call (if p.late then 5 else 4) s v) ∧
    (c.abort = none → s.colExpired call = true → (∀ i, i < c.ops.length → s.signalling call i = false) →
      ∃ v, exec (.enginePacketTimeout call) s = .next v ∧ CallAborts c call 3 s v)

/-! ## Messages -/

/-- R393 to R397 and R401 to R403: the message instructions. On an open endpoint, SEND and RPOST of a valid tensor's range begin,
after the release of the package, their probe; once it has passed, and no earlier one to the destination or endpoint is still in its own,
a SEND's message leaves with the next MSN of its destination, with its payload where that is at most 16384 bytes, and RPOST appends its
entry, where no queued message fits, and answers with a handle that no entry of the endpoint in use has. RCANCEL removes a posted
entry and answers 0, or 1 where there is none; RPROBE answers with the oldest message that fits; RCLAIM with the next record, or 1; RSTAT
with the endpoint's snapshot, and RSTAT `.open` asks for the descriptor. A closed endpoint refuses the first five, an invalid tensor entry
and a range outside the tensor SEND and RPOST, and a destination that the endpoint does not have SEND, before any other register is looked at.
The free handle, the ring read in RCLAIM's own step, the wait for an earlier probe and the early refusal of operand values are the model's choice
(log entries 21, 91, 93, 94 and 138). -/
def Obligations.MessageInstructions : Prop :=
  ∀ (f : Full) (s s1 t u : State) (e : Env) (ep : Endpoint) (k d : Nat) (ws : List Word), k = epOf e f →
    (∀ i sp early, pipe s i = some (sp, early) → Issuing sp.guard s e → issueCauses sp (s.ctx e.p.ctx) e.pc = [] →
      (∀ id, e.p.wait ≠ some (.op id)) →
      (s.endpoint k = none ∧ i ∈ [.send f, .rpost f, .rcancel f, .rprobe f, .rclaim f]) ∨
        (i ∈ [.send f, .rpost f] ∧ s.recvTid e f = (t, some d) ∧ tidValid d = false) ∨
        (∀ n, n = (if i = .send f then 3 else 5) → i ∈ [.send f, .rpost f] ∧ s.endpoint k ≠ none ∧ s.recvTid e f = (t, some d) ∧
          t.recvTid e f = (t, some d) ∧ regsFull t e.p e.act [⟨regAfter f.a n, 2, false⟩] = true ∧
          rangeOk d (wordAt (sWords t e.p f.a (n + 2)) n) (wordAt (sWords t e.p f.a (n + 2)) (n + 1)) = false) ∨
        (i = .send f ∧ s.endpoint k ≠ none ∧ s.recvTid e f = (t, some d) ∧ t.endpoint k = some ep ∧
          regsFull t e.p e.act [⟨f.a, 1, false⟩] = true ∧ ep.mem.length + ep.npeer ≤ wordAt (sWords t e.p f.a 1) 0) →
      Traps i e s s (Trap.plain 0x100 0x0A e.act)) ∧
    (t.endpoint k = some ep → e.p.wait = none → t.recvTid e f = (t, some d) →
      (∀ o, ExecutingFrom (.send f) s t e → ws = sWords t e.p f.a 5 → t.acquiring e.p e.pid = false →
        t.release e.pid .pkg = (s1, true) → o = sendNew e f d ws → Begins (.send f) e s
          (probing e (some .net) (runAsks (rangeRuns o.ent o.off o.count) false false 15) (.send o) s1)) ∧
      (∀ bar p, ExecutingFrom (.rpost f) s t e → ws = sWords t e.p f.a 10 → bar = pairAt ws 7 % 2 ^ 56 → bar % 16 = 0 →
        t.acquiring e.p e.pid = false → t.release e.pid .pkg = (s1, true) → p = postNew e f d ws (s1.tbRef e.pid e.p bar) →
        Begins (.rpost f) e s
          (probing e (some .net) (runAsks (rangeRuns p.ent p.off p.count) true true (tidNl d) ++ barAsks (some p.bar)) (.post p) s1))) ∧
    (∀ op pr, e.p.wait = some (.op op) → s.probes.get op = some pr → pr.ph = .passed →
      (∀ o n dev, Executing (.send f) s e → pr.what = .send o → s.sendEarlier op o = false → s.endpoint o.key = some ep → n = (ep.msnOut.get o.dest).getD 0 →
        t = State.updEp { s with probes := s.probes.del op } o.key (fun x => { x with msnOut := x.msnOut.set o.dest ((n + 1) % 2 ^ 32) }) →
        o.dest < ep.mem.length → ep.mem[o.dest]? = some dev → (ep.failed.get o.dest).getD [] = [] →
        (16384 < o.len → ∃ v, exec (.send f) s = .next v ∧ Advances e 12 v ∧ v.eps = t.eps ∧
          v.sends.get op = some { o with msn := n, ph := .out, clock := none } ∧ SendsPkt dev (.msg (sendMsg s op { o with msn := n } ep .header)) s v) ∧
        (∀ bs, o.len ≤ 16384 → t.runsRead (t.sendAgent o) (rangeRuns o.ent o.off o.count) = (u, .ok bs) →
          ∃ v, exec (.send f) s = .next v ∧ Advances e 12 v ∧ v.eps = u.eps ∧ v.sends.get op = some { o with msn := n, ph := .out, clock := none } ∧
            SendsPkt dev (.msg (sendMsg s op { o with msn := n } ep (.eager bs))) u v)) ∧
      (∀ p, Executing (.rpost f) s e → pr.what = .post p → s.postEarlier op p = false → s.endpoint p.key = some ep → s.postsUsed < 65536 →
        ep.uq.find? (fun m => fits m.src m.tag p.psrc p.smask p.ptag p.tmask) = none →
        ∃ v h, exec (.rpost f) s = .next v ∧ Advances e 12 v ∧ MarksD e f.d 1 s.nextOp s v ∧ SameMemory s v ∧ h < 65536 ∧
          (∀ q ∈ ep.posted, q.handle ≠ h) ∧ (∀ x ∈ s.recvs, x.2.post.key = p.key → x.2.post.handle ≠ h) ∧ v.endpoint p.key = some { ep with posted := ep.posted ++ [{ p with op := op, handle := h }] } ∧
          v.reqs.get s.nextOp = some (wordsReq e f false true [h]))) ∧
    (s.endpoint k = some ep → s.acquiring e.p e.pid = false →
      (∀ h, Executing (.rcancel f) s e → h = wordAt (sWords s e.p f.a 1) 0 % 65536 →
        (ep.posted.find? (fun p => p.handle == h) = none → GoesOut (.rcancel f) e s f.d 1 (wordsReq e f false false [1])) ∧
        (∀ p, ep.posted.find? (fun p => p.handle == h) = some p → ∃ v n, exec (.rcancel f) s = .next v ∧ Advances e 12 v ∧ MarksD e f.d 1 n s v ∧
          v.reqs.get n = some (wordsReq e f false false [0]) ∧ (v.endpoint k).map (fun x => x.posted) = some (ep.posted.filter fun q => q.op != p.op))) ∧
      (Executing (.rprobe f) s e → ws = sWords s e.p f.a 5 → GoesOut (.rprobe f) e s f.d 5 (wordsReq e f false false
        (match ep.uq.find? fun m => fits m.src m.tag (wordAt ws 0 % 65536) (wordAt ws 0 / 65536) (BitVec.ofNat 64 (pairAt ws 1)) (BitVec.ofNat 64 (pairAt ws 3)) with
        | some m => [0, m.src, m.tag.toNat % 2 ^ 32, m.tag.toNat / 2 ^ 32, m.len]
        | none => [1, 0, 0, 0, 0]))) ∧
      (Executing (.rclaim f) s e → ep.wrote = ep.took → GoesOut (.rclaim f) e s f.d 9 (wordsReq e f false false (1 :: List.replicate 8 0))) ∧
      (∀ bs, Executing (.rclaim f) s e → ep.wrote ≠ ep.took → s.engRead (s.epAgent k) [] (ep.crBase + 32 * (ep.took % 2 ^ ep.crLog)) 32 = (t, .ok bs) →
        t.eps = s.eps → (∀ x ∈ t.recvs, x.2.ph ≠ .ring) → ∃ v, exec (.rclaim f) s = .next v ∧ Advances e 12 v ∧ MarksD e f.d 9 t.nextOp t v ∧
          SameMemory t v ∧ v.endpoint k = some { ep with took := ep.took + 1 } ∧ v.reqs.get t.nextOp =
            some (wordsReq e f true false (0 :: (List.range 8).map fun i => leNat ((bs.drop (4 * i)).take 4))))) ∧
    (Executing (.rstat f) s e → s.acquiring e.p e.pid = false →
      GoesOut (.rstat f) e s f.d 2 (oneReq e f .segstat .n64 2 (.ready (leBytes 8 (s.rstatVal k))))) ∧
    (∀ ga, ga = sPairVal s e.p f.a % 2 ^ 56 → Executing (.rstatOpen f) s e → ga % 64 = 0 → s.acquiring e.p e.pid = false →
      s.release e.pid .pkg = (s1, true) → GoesOutAfter (.rstatOpen f) e s s1 f.d 1
        { newReq e (.image true (mX f)) .ld f 1 true [{ onePart e 4 .wait with ga := ga, place := s1.placeOf e.pid e.p ga }] with
          ty := .n32, n := 1, ord := .weak })

/-- R395, R397 to R400, R404 and R407: what the receive engine does with a message from a rank of another package. One whose MSN
is the next of its source meets the oldest posted entry that fits: its payload lands, or is pulled. With none it joins the queue,
whose payload then stays at the sender, or is held off by a full queue; one that is early waits for its turn. A closed endpoint
holds it off, a context that is not here refuses it, and full chunk buffers leave it outside. A payload that comes lands; one that does not ends its
receive with ERR, a scale-out one only after the fabric timeout. A record goes to the ring while it has room, with the barrier's last decrement, and
with that performed its entry is free. The sender sends again what was held, serves the reads of a payload that stays with it, and
completes by the answer; a message that is refused raises its condition and is followed by a notice of its number. The notice, what a queue or a
ring that cannot be written does, when a hold is answered and what the chunk buffers count are the model's choice (log entries 89, 90, 95, 97 and
134). -/
def Obligations.MessageEvents : Prop :=
  ∀ (s t : State) (slot k src dev n : Nat) (ep : Endpoint) (m : MsgIn) (r : Recv) (o : SendOp),
    (m.src = .rank src dev → dev ≠ s.mgmt.devidx → s.chunkRoom (.msg m) = false → exec (.messageArrival m) s = .next s) ∧
    (∀ ip job recv bs, m.src = .peer ip job → m.body = .pull recv → s.sends.get m.send = some o →
      s.runsRead (s.sendAgent o) (cutRuns m.len (rangeRuns o.ent o.off o.count)) = (t, .ok bs) →
      exec (.messageArrival m) s = .next (t.uetSend m.src (.pulled recv (.payload bs)))) ∧
    (m.src = .rank src dev → dev ≠ s.mgmt.devidx → m.body ≠ .void → (∀ recv, m.body ≠ .pull recv) → s.chunkRoom (.msg m) = true →
      (s.slotFor m.ctxid = none → exec (.messageArrival m) s = .next (s.fabSend .eng recvAgent dev (.sendDone m.send .refused))) ∧
      (s.slotFor m.ctxid = some slot → k = epKey slot m.ep →
        (s.endpoint k = none → exec (.messageArrival m) s = .next (s.fabSend .eng recvAgent dev (.hold m.send))) ∧
        (s.endpoint k = some ep → m.msn = (ep.msnIn.get src).getD 0 → m.msn < 2 ^ 32 → ep.early = [] →
          (∀ p x, ep.posted.find? (fun p => fits src m.tag p.psrc p.smask p.ptag p.tmask) = some p → x = recvNew p src m false →
            (∀ bs, m.body = .eager bs → exec (.messageArrival m) s = .next (State.recvLand
              { s with eps := s.eps.set k { ep with msnIn := ep.msnIn.set src ((m.msn + 1) % 2 ^ 32), posted := ep.posted.filter fun q => q.op != p.op } }
              p.op { x with answer := some .landed } (bs.take x.len))) ∧
            (m.body = .header → ∃ v, exec (.messageArrival m) s = .next v ∧ v.recvs.get p.op = some { x with answer := some .pulled, ph := .pull, clock := s.clock } ∧
              SendsPkt dev (.pull m.send p.op x.len) s v ∧
              v.endpoint k = some { ep with msnIn := ep.msnIn.set src ((m.msn + 1) % 2 ^ 32), posted := ep.posted.filter fun q => q.op != p.op })) ∧
          (ep.posted.find? (fun p => fits src m.tag p.psrc p.smask p.ptag p.tmask) = none →
            (4096 ≤ ep.uq.length → exec (.messageArrival m) s = .next (s.fabSend .eng recvAgent dev (.hold m.send))) ∧
            (ep.uq.length < 4096 → m.body = .header → ∃ v, exec (.messageArrival m) s = .next v ∧ SendsPkt dev (.sendDone m.send .kept) s v ∧
              v.endpoint k = some { ep with
                msnIn := ep.msnIn.set src ((m.msn + 1) % 2 ^ 32)
                uq := ep.uq ++ [{ src := src, org := m.src, tag := m.tag, len := m.len, msn := m.msn, send := m.send, lost := false, run := none }] }))) ∧
        (s.endpoint k = some ep → (ep.msnIn.get src).getD 0 < m.msn → m.msn < 2 ^ 31 → (∀ y ∈ ep.early, y.1 = src → y.2.msn ≠ m.msn) → m.body ≠ .lost →
          ∃ v, exec (.messageArrival m) s = .next v ∧ SendsPkt dev (.sendDone m.send .kept) s v ∧
            v.endpoint k = some { ep with early := ep.early ++ [(src, m)] }))) ∧
    (s.recvs.get n = some r → s.endpoint r.post.key = some ep →
      (r.ph = .pull → s.ownOrg r.org = false →
        (∀ bs, exec (.payloadPull n (.payload bs)) s = .next (s.recvLand n r (bs.take r.len))) ∧
        ((∀ ip job, r.org = .peer ip job → expired (some r.clock) s.tout s.clock = true) →
          ∃ (v : State) (b : TbUpd), exec (.payloadPull n .failed) s = .next (v.recvRing n) ∧ v.tbq = s.tbq ++ [b] ∧ b.ref = r.post.bar ∧ b.err = true ∧
            b.sect = (if r.post.sectors = 0 then 0 else 1 - (r.post.sectors : Int)) ∧ v.eps = s.eps ∧
            v.recvs.get n = some { r with order := s.nextOp, land := 0, status := 3, answer := none, run := none, ph := .ring })) ∧
      (∀ bs w, r.ph = .land bs → State.runsWrite { s with recvs := s.recvs.set n r } (s.postAgent r.post) 0 (cutRuns r.len (rangeRuns r.post.ent r.post.off r.post.count)) bs = (t, w) →
        (w = .ok → exec (.payloadPull n .failed) s = .next (t.recvDone n r r.len r.okStatus)) ∧
        (w = .wait → exec (.payloadPull n .failed) s = .next t) ∧
        (∀ j, w = .fail j → exec (.payloadPull n .failed) s = .next (t.recvDone n r j 3))) ∧
      (r.ph = .ring → (∀ y ∈ s.recvs, y.2.ph = .ring → y.2.post.key = r.post.key → y = (n, r)) →
        (2 ^ ep.crLog ≤ ep.wrote - ep.took → exec (.payloadPull n .failed) s = .next (s.updEp r.post.key fun x => { x with crfull := true })) ∧
        (ep.wrote - ep.took < 2 ^ ep.crLog →
          s.engWrite (s.epAgent r.post.key) (ep.crBase + 32 * (ep.wrote % 2 ^ ep.crLog)) (leBytes 32 r.image) = (t, .ok) → t.eps = s.eps →
          ∃ v, exec (.payloadPull n .failed) s = .next v ∧ v.hbm = t.hbm ∧ v.mc = t.mc ∧
            v.recvs.get n = (if r.post.sectors = 0 then none else some { r with ph := .over }) ∧
            v.endpoint r.post.key = some { ep with wrote := ep.wrote + 1 } ∧
            (r.post.sectors ≠ 0 → ∃ b, v.tbq = t.tbq ++ [b] ∧ b.ref = r.post.bar ∧ b.sect = -1 ∧ b.err = false))) ∧
      (r.ph = .over → (s.tbOwes n = true → exec (.payloadPull n .failed) s = .next s) ∧
        (s.tbOwes n = false → exec (.payloadPull n .failed) s = .next { s with recvs := s.recvs.del n }))) ∧
    (s.sends.get n = some o →
      (o.ph ≠ .wait → o.ph ≠ .lost → s.ownSend o = false → exec (.messageHold n) s = .next { s with sends := s.sends.set n { o with ph := .wait, clock := none } }) ∧
      (o.ph = .wait → s.endpoint o.key = some ep → ep.mem[o.dest]? = some dev → (ep.failed.get o.dest).getD [] = [] → 16384 < o.len →
        ∃ v, exec (.messageHold n) s = .next v ∧ v.sends.get n = some { o with ph := .out, clock := none } ∧
          SendsPkt dev (.msg (sendMsg s n o ep .header)) s v) ∧
      (o.ph = .lost → o.clock ≠ none → exec (.messageHold n) s = .next { s with sends := s.sends.set n { o with clock := none } }) ∧
      (o.ph = .lost → o.clock = none → s.endpoint o.key = some ep → ep.mem[o.dest]? = some dev → ∃ v, exec (.messageHold n) s = .next v ∧
        v.sends.get n = some { o with clock := some s.clock } ∧ SendsPkt dev (.msg (sendMsg s n o ep .lost)) s v) ∧
      (s.ownSend o = false → o.ph ≠ .lost →
        exec (.sendComplete n .kept) s = .next { s with sends := s.sends.set n { o with ph := .kept } } ∧
        (∀ a, a ∈ [.landed, .queued, .pulled] → exec (.sendComplete n a) s = .next (State.engComplete { s with sends := s.sends.del n } o.uid n)) ∧
        (∀ pid p, s.plyUid o.uid = some (pid, p) → s.ply? pid = some p → p.uid = o.uid → s.endpoint o.key = some ep → ep.mem[o.dest]? = some dev →
          ∃ v, exec (.sendComplete n .refused) s = .next v ∧ v.sends.get n = none ∧
            v.ply? pid = some (Ply.completeOp { p with conds := p.conds ++ [{ kind := .col, code := 0x10A, sub := 0x10, va := 0 }] } n) ∧
            SendsPkt dev (.msg (sendMsg s n o ep .void)) s v)))

/-! ## Contexts -/

/-- R84, R98, R99, R290 to R293, R296, R297 and R415: launch, placement and draws. A packet that is written whole to an idle or
ended slot, and found valid with its decks, runs; an invalid one leaves its code in LERR; a partial one sets LPART, and one for an
occupied slot LBUSY; during a checkpoint run, or behind accesses of the host that wait, it waits. On a core of the one context with skeins to place, the next skein that fits is placed: its threads stand at
the entry with no register written, and every ply of it is in a slot of its partition. The bobbin whose head has waited longest,
the lower PC at equal ages, is drawn into the lowest free slot. A quota in range takes effect, and the segments that it gains or
gives up read 0; INTCFG takes a legal value. What is refused is noted in CTXSTAT.
What a deck table that cannot be read does, the size that a save can take and the slot of a drawn ply are the model's choice (log entries 51, 53
and 124). -/
def Obligations.LaunchAndPlacement : Prop :=
  ∀ (s t u : State) (slot core : Nat) (c : Ctx), c = s.ctx slot → slot < 256 →
    (∀ bs, s.serves = true → s.ckRunning = true ∨ s.posted ≠ [] →
      exec (.launchPacketWrite slot bs) s = .next { s with posted := s.posted ++ [.packet slot bs] }) ∧
    (∀ bs, s.serves = true → s.ckRunning = false → s.posted = [] → s.podEarly = [] →
      (bs.length ≠ 64 → exec (.launchPacketWrite slot bs) s = .next (s.ctxFlag slot fun c => { c with lpart := true })) ∧
      (bs.length = 64 → c.st ≠ .idle → c.st ≠ .done → exec (.launchPacketWrite slot bs) s = .next (s.ctxFlag slot fun c => { c with lbusy := true })) ∧
      (bs.length = 64 → c.st = .idle ∨ c.st = .done → t = ((s.slotFresh slot).freshOp.2).updCtx slot (fun c => { c with
          st := .idle, pkt := lineOf bs, order := s.nextOp, stopc := 0, bars := [], placed := [], ended := [], lerr := 0 }) →
        (t.validate slot ≠ 0 → ∃ v, exec (.launchPacketWrite slot bs) s = .next v ∧ v.ctx slot = { t.ctx slot with lerr := t.validate slot } ∧
          v.plies = s.plies ∧ v.skeins = s.skeins) ∧
        (∀ ds, t.validate slot = 0 → t.readDecks slot = (u, some (ds, false)) → u.ctxs = t.ctxs → ∃ v, exec (.launchPacketWrite slot bs) s = .next v ∧
          v.ctx slot = { t.ctx slot with st := .running, size := (v.ctx slot).size } ∧ v.hbm = u.hbm) ∧
        (∀ ds, t.validate slot = 0 → t.readDecks slot = (u, some (ds, true)) → u.ctxs = t.ctxs → ∃ v, exec (.launchPacketWrite slot bs) s = .next v ∧
          v.ctx slot = { t.ctx slot with lerr := 8 }))) ∧
    (∀ idx, s.launchOrder core = [slot] → nextSkein c core = some idx → s.fitsNow slot core = true → t = s.placeSkein slot core idx →
      (∀ j, nextSkein (t.ctx slot) core = some j → t.fitsNow slot core = false) →
      (∀ q < 4, launchPlies c q ≤ ((List.range 32).filter fun n =>
        (s.plies.get ((core * 4 + q) * 32 + n)).isNone && (s.gone.get ((core * 4 + q) * 32 + n)).isNone).length) →
      ∃ v sk, exec (.skeinPlacement core) s = .next v ∧ v.ctx slot = { c with placed := c.placed ++ [idx] } ∧
        v.skeins.get (skeinKey slot idx) = some sk ∧ sk.ctx = slot ∧ sk.idx = idx ∧ sk.core = core ∧
        sk.segs = (s.freeSegments core).take (pktLocal c) ∧ sk.sregs = [] ∧ sk.bar = PlyBar.launch ∧
        sk.threads.map (fun x => x.1) = List.range (needThreads c) ∧
        (∀ x ∈ sk.threads, x.2.pc = BitVec.ofNat 56 (pktEntry c) ∧ x.2.regs = [] ∧ x.2.ra = [] ∧ x.2.rsn = 0) ∧
        ∀ p < pktPlies c, ∃ pid q, s.ply? pid = none ∧ v.ply? pid = some q ∧ pid / 32 = core * 4 + p % 4 ∧ q.idx = p ∧ q.ctx = slot ∧
          q.skein = skeinKey slot idx ∧ q.width = pktWidth c ∧ q.lanes = (List.range (pktWidth c)).map (fun l => some (p * pktWidth c + l)) ∧
          q.prod = (p == pktProd c) ∧ q.csr = Csrs.launch ∧ q.sregs = [] ∧ q.ops = []) ∧
    (s.launchOrder core = [] → exec (.skeinPlacement core) s = .next s) ∧
    (∀ part i n b k h, (s.part part).drawn ≠ some s.clock → (i, b) ∈ (s.part part).bobbins → s.drawable part b = true → b.threads.head? = some h →
      (∀ y ∈ (s.part part).bobbins, s.drawable part y.2 = true → y ≠ (i, b) → ∀ g, y.2.threads.head? = some g →
        h.clock < g.clock ∨ (h.clock = g.clock ∧ b.pc.toNat < y.2.pc.toNat)) →
      s.freeSlot part = some n → s.skeins.get b.skein = some k →
      ∃ v, exec (.bobbinDraw part) s = .next v ∧ v.ply? (part * 32 + n) = some (s.drawnPly part n k b (pktWidth (s.ctx k.ctx))) ∧
        v.skeins = s.skeins ∧ (v.part part).drawn = some s.clock ∧ ∀ q, q ≠ part * 32 + n → v.ply? q = s.ply? q) ∧
    (∀ v : DWord, core < 192 → s.serves = true →
      (s.quotaBad slot core v.toNat = true → exec (.quotaWrite slot core v) s = .next (s.ctxFlag slot fun c => { c with qerr := true })) ∧
      (s.quotaBad slot core v.toNat = false → ∃ x, exec (.quotaWrite slot core v) s = .next x ∧ x.quotaOf slot core = v.toNat % 2 ^ 46 ∧
        (∀ g, g ∈ grantOf core (v.toNat % 2 ^ 46) → g ∉ grantOf core (s.quotaOf slot core) →
          (x.seg g).cond = .scratch slot ∧ (x.seg g).st = .o ∧ ∀ a < 4096, Mem.get x.ls (segBase g + a) = 0) ∧
        (∀ g, g ∉ grantOf core (v.toNat % 2 ^ 46) → g ∈ grantOf core (s.quotaOf slot core) →
          (x.seg g).cond = .free ∧ ∀ a < 4096, Mem.get x.ls (segBase g + a) = 0))) ∧
    (∀ v : Word, s.serves = true → (fld v.toNat 9 8 ≠ 3 → fld v.toNat 4 0 = 0 ∨ (4 ≤ fld v.toNat 4 0 ∧ fld v.toNat 4 0 ≤ 16) →
        exec (.intcfgWrite slot v) s = .next (s.updCtx slot fun c => { c with intcfg := v &&& 0x31F })) ∧
      (fld v.toNat 9 8 = 3 ∨ (1 ≤ fld v.toNat 4 0 ∧ fld v.toNat 4 0 ≤ 3) ∨ 16 < fld v.toNat 4 0 →
        exec (.intcfgWrite slot v) s = .next (s.cerr slot)))

/-- R287, R288, R311, R315, R321 and R424: commands, saves, restores and checkpoints. PREEMPT and STOP of a running context whose
save area can be used begin its save, and every ply of it stops issuing; STOP of a saved one ends it; RESTORE of a saved one
brings it back, at once where no skein of it is away; RELEASE of an ended one leaves the slot idle and empty. In another state a
command only sets CERR. When a core that is being saved is quiet and has written back, its skeins are taken off it, and kept
unless the save is lost; the last core ends the save. A skein whose record can be read goes back where it was, each ply as its record
gives it, and leaves the save; one that cannot stops the context. A write of CKCTL sets its fields; without GO, during a run or beside an active
context it starts nothing, and during a run RESTORE waits. A checkpoint whose targets hold every frame starts, and ends when all have answered; else
it fails. A PREEMPT comes after the issue slots of its clock. What a restored ply keeps that no record holds, what CTXSZ counts, when STOPC is set,
what RELEASE discards and when a checkpoint reads are the model's choice (log entries 52, 53, 54, 57 and 99). -/
def Obligations.SavesAndCheckpoints : Prop :=
  ∀ (s t : State) (slot : Nat) (c : Ctx), c = s.ctx slot → slot < 256 →
    (∀ part, s.serves = true → c.st = .running → s.saveUsable slot = true → s.slotDue slot = some part →
      exec (.preempt slot) s = .next { s with agenda := .issue part :: .event (.preempt slot) :: s.agenda }) ∧
    (∀ i n, (i = .preempt slot ∧ n = 0 ∧ s.slotDue slot = none) ∨ (i = .stop slot ∧ n = 3) → s.serves = true → c.st = .running → s.saveUsable slot = true →
      ∃ v, exec i s = .next v ∧ v.ctx slot = { c with st := .saving, stopc := n, left := pktCores c, lay := [], quit := n != 0, lose := false } ∧
        v.hbm = s.hbm ∧ (∀ pid p, s.ply? pid = some p → p.ctx ≠ slot → v.ply? pid = some p) ∧
        ∀ pid p, s.ply? pid = some p → p.ctx = slot → ∃ q, v.ply? pid = some q ∧ q.stopped = true ∧ q.lanes = p.lanes ∧ q.csr = p.csr) ∧
    (s.serves = true → c.st = .saved → s.saveUsable slot = true → exec (.stop slot) s = .next (s.ctxFlag slot fun c => { c with st := .stopped, stopc := 3 })) ∧
    (s.serves = true → s.saveUsable slot = false ∨ (c.st ≠ .running ∧ c.st ≠ .saved) → exec (.stop slot) s = .next (s.cerr slot)) ∧
    (s.serves = true → s.saveUsable slot = false ∨ c.st ≠ .running → exec (.preempt slot) s = .next (s.cerr slot)) ∧
    (s.serves = true → s.ckRunning = true ∨ s.posted ≠ [] → exec (.restore slot) s = .next { s with posted := s.posted ++ [.restore slot] }) ∧
    (s.serves = true → s.ckRunning = false → s.posted = [] →
      (c.st = .saved → s.savedOf slot ≠ [] → exec (.restore slot) s =
        .next ((s.updCtx slot fun c => { c with st := .restoring }).codeFresh (s.slotAsid slot))) ∧
      (c.st = .saved → s.savedOf slot = [] → ctxEnded c = false → ∃ v, exec (.restore slot) s = .next v ∧
        v.ctx slot = { c with st := .running } ∧ { v with ctxs := s.ctxs, oldCode := s.oldCode, ic := s.ic } = s) ∧
      (c.st ≠ .saved → exec (.restore slot) s = .next (s.cerr slot))) ∧
    (s.serves = true → c.st = .done ∨ c.st = .stopped → ∃ v, exec (.release slot) s = .next v ∧ (v.ctx slot).st = .idle ∧
      (∀ g < 256, v.gslots.get (gslotKey slot g) = none) ∧ (∀ g < 1024, v.groups.get (groupKey slot g) = none) ∧
      (∀ j < 16, v.eps.get (epKey slot j) = none) ∧ (∀ j < 64, v.decks.get (deckKey slot j) = none) ∧ v.savedOf slot = [] ∧
      (∀ x ∈ v.remerr, x.1 % 256 ≠ slot) ∧
      ((∀ x ∈ s.calls, x.2.slot ≠ slot) → v.hbm = s.hbm ∧ v.ls = s.ls ∧ v.plies = s.plies ∧
        (Tbl.rising s.quota = true → ∀ core < 192, v.quotaOf slot core = s.quotaOf slot core % 2 ^ 27) ∧
        ∀ g, (s.seg g).cond = .scratch slot → (v.seg g).cond = .free)) ∧
    (s.serves = true → c.st ≠ .done → c.st ≠ .stopped → exec (.release slot) s = .next (s.cerr slot)) ∧
    (∀ core, c.st = .saving → core ∈ c.left → s.coreQuiet slot core = true →
      (s.wcDrain core fun e => e.slot == slot).l1BackAll core (s.slotAsid slot) false = (t, true) →
      t.wcWaiting core slot (fun _ _ => true) = false → t.ctxs = s.ctxs → Tbl.rising t.skeins = true →
      ∃ v, exec (.coreSaveEnd slot core) s = .next v ∧
        (∀ k sk, t.skeins.get k = some sk → sk.ctx = slot → sk.core = core → v.skeins.get k = none ∧
          (c.lose = false → ∃ w, v.saved.get k = some w ∧ w.skein = sk)) ∧
        ((∃ j ∈ c.left, j ≠ core) → v.ctx slot =
          { c with left := c.left.filter (fun j => j != core), lay := (v.ctx slot).lay, pfull := (v.ctx slot).pfull }) ∧
        ((∀ j ∈ c.left, j = core) → (v.ctx slot).st = (if c.quit then .stopped else .saved) ∧ (v.ctx slot).nosave = (c.nosave || c.lose))) ∧
    (∀ skein k w, k = skeinKey slot skein → s.saved.get k = some w → c.st = .restoring → s.canRestore w = true → t.ctxs = s.ctxs →
      (s.rawRead slot (c.save + w.base) (s.recordLen w) = (t, none) →
        ∃ v, exec (.skeinRestore slot skein) s = .next v ∧ (v.ctx slot).st = .stopped ∧ (v.ctx slot).stopc = 4 ∧
          ∀ j sk, v.skeins.get j = some sk → sk.ctx ≠ slot) ∧
      (∀ bs, s.rawRead slot (c.save + w.base) (s.recordLen w) = (t, some bs) → ∃ v, exec (.skeinRestore slot skein) s = .next v ∧
        v.saved.get k = none ∧ (v.skeins.get k).isSome = true ∧ (∀ x ∈ w.plies, (v.ply? x.1).isSome = true) ∧
        (w.skein.ctx = slot → w.copies = [] → (∃ y ∈ s.savedOf slot, y.1 ≠ k) → ∀ i pid p, w.plies[i]? = some (pid, p) →
          (∀ j q, w.plies[j]? = some (pid, q) → j = i) → v.ply? pid = some (plyFrom c bs (0x900 + 2048 * i) p)))) ∧
    (∀ v : DWord, s.serves = true → v.getLsbD 0 = false ∨ s.ck.st = 1 ∨ s.anyActive = true → exec (.checkpointGo v) s = .next (s.ckctl v.toNat)) ∧
    (∀ v : DWord, s.serves = true → v.getLsbD 0 = true → s.ck.st ≠ 1 → t = s.ckctl v.toNat → s.anyActive = false →
      (s.mgmt.reduced = true ∨ (t.ckTargets.map CkTarget.count).sum ≠ t.frames → exec (.checkpointGo v) s = .next (t.ckEnd 3)) ∧
      (s.mgmt.reduced = false → (t.ckTargets.map CkTarget.count).sum = t.frames → ∃ u, exec (.checkpointGo v) s = .next u ∧
        u.ck = { t.ck with st := 1, run := some { restore := t.ck.restore, layt := t.ck.layt, poison := [], failed := false } })) ∧
    (∀ r, s.ck.run = some r → (r.failed = true → exec .checkpointEnd s = .next (s.ckEnd 3)) ∧
      (r.failed = false → (∀ x ∈ s.remote, isCkUse x.2.use = false) → ∃ u, exec .checkpointEnd s = .next u ∧ u.ck = { s.ck with st := 2, run := none } ∧
        (s.mgmt.msixMask.contains 260 = false → u.pcieOut = s.pcieOut ++ [.msix 260])))

/-! ## The die link -/

/-- R206, R251, R426, R430 to R433 and R435: what a message of the die link does at the port that takes it, by its class and OP, on a port that has
not timed out and, for a request, at a die with a management partner. A request whose answer may lack credit stays on the link. A request from
elsewhere for a line that is not of this die, or that its ASID does not own, is refused; else RD answers with the line, WR writes it and ATOM runs the
operation on it. One that this package's own load-store unit sent is served at the home slice by its virtual address. SPRD, SPWR and TBUPD act on the
scratchpad line that they name, where it is granted: a weak SPRD on a replica's own copy, once the updates that its core awaits have been applied, the
others on the single copy; SPRD and SPWR stay on the link while their segment is in transit. PROMO and SHOOT do their step and answer, and stay on the
link while it cannot end, what the cores have written back by then being done; PACK and SACK note the other die's answer. RDATA, ACK and NACK end the request of their TAG, but that a weak load whose
line the L1 has changed since goes again, and a NACK's cause is recorded;
one that firmware may answer has the part go again. A WR of the package's own L1 cleans the bytes that it carried, once they are acknowledged or the
side log has them. MFAIL takes a module out of the port; IDENT and CAP say what the partner is, and a Reust partner
on B0 or B1 joins the two. The causes of a NACK, TBUPD's data slot, the wait for credit and the second try are the model's choice (log entries 102 and
159). -/
def Obligations.DieLinkMessages : Prop :=
  ∀ (s t : State) (port : DiePort) (m : DlMsg) (k a : Nat), k = s.dlKey (dpKey port) → a = dlAddr m → (s.dlPort k).st ≠ 5 →
    (dlCls m = 0 → s.dieMgmt (dpDie k) = true) → s.dlTake k m = some t →
    (∀ i op, dlCls m = 0 → dlOp m = op → t.dlRoom k m = false →
      ((i = .rd port m ∧ op = 0x01) ∨ (i = .wr port m ∧ op = 0x02) ∨ (i = .dlAtom port m ∧ op = 0x03) ∨ (i = .probew port m ∧ op = 0x04) ∨
        (i = .sprd port m ∧ op = 0x05) ∨ (i = .spwr port m ∧ op = 0x05) ∨ (i = .tbupd port m ∧ op = 0x06) ∨ (i = .promo port m ∧ op = 0x10) ∨
        (i = .shoot port m ∧ op = 0x11)) → exec i s = .next s) ∧
    ((dlCls m = 0 → t.dlRoom k m = true) →
    (∀ i op w, (i = .rd port m ∧ op = 0x01 ∧ w = false) ∨ (i = .wr port m ∧ op = 0x02 ∧ w = true) ∨ (i = .probew port m ∧ op = 0x04 ∧ w = true) →
      dlCls m = 0 → dlOp m = op → t.dlGlobal m = none → (∀ key, (t.dlReqs.get (dlTag m)).map DlReq.use ≠ some (.probe key)) →
      (∀ key uid x b, (t.dlReqs.get (dlTag m)).map DlReq.use ≠ some (.back key uid x b)) →
      (t.onDie (dpDie k) a = false → exec i s = .next (t.dlNack k m 4)) ∧
      (t.onDie (dpDie k) a = true → t.physOwner a (dlAsid m) w = false → exec i s = .next (t.dlNack k m 3)) ∧
      (t.onDie (dpDie k) a = true → t.physOwner a (dlAsid m) w = true →
        (∀ x c bad, i = .rd port m → t.physLine (a / 64) = (x, c, bad) → exec i s = .next (t.dlData k m x c bad)) ∧
        (i = .wr port m → exec i s = .next ((t.physMerge (a / 64) (dlLine m) (dlMask m) (dlCheck m)).dlAck k m)) ∧
        (i = .probew port m → exec i s = .next (t.dlAck k m)))) ∧
    (∀ op idx r va, dlCls m = 0 → t.dlGlobal m = some (op, idx, r, va) →
      (dlOp m = 0x01 →
        (t.atBay (t.slotAsid r.slot) (va / 64) = true → exec (.rd port m) s = .next s) ∧
        (∀ u x, t.atBay (t.slotAsid r.slot) (va / 64) = false → t.home (t.whoReq r) (va / 64) .read = (u, x) →
          exec (.rd port m) s = .next (u.dlHome k m x))) ∧
      (dlOp m = 0x02 → ∀ u x, t.homeWrite (t.whoReq r) (va / 64) (dlLine m) (dlMask m) 2 false (some (op, idx)) = (u, x) →
        (x = .fin → exec (.wr port m) s = .next (u.dlAck k m)) ∧
        (x = .full → exec (.wr port m) s = .next s) ∧
        (x = .logged → exec (.wr port m) s = .next { u.setPSt op idx .logged with dlReqs := u.dlReqs.del (dlTag m) }) ∧
        (∀ c, x = .fail c → exec (.wr port m) s = .next ((u.dlNoted m).dlNack k m c))) ∧
      (∀ ty u x, dlOp m = 0x03 → tyOf (fld (dlArg m) 8 4) = some ty → ty ∈ atomTys (fld (dlArg m) 3 0) → a % tyBytes ty = 0 →
        t.logFull (va / 64) = false → t.atBay (t.slotAsid r.slot) (va / 64) = false → t.home (t.whoReq r) (va / 64) .write = (u, .ok x) →
        exec (.dlAtom port m) s = .next (State.dlHome (u.mcPut (t.slotAsid r.slot) (va / 64) (dlAtomLine m ty a x) (byteSpan (a % 64) (tyBytes ty)))
          k m (.ok x)))) ∧
    (∀ key uid x b u y, dlCls m = 0 → dlOp m = 0x02 → (t.dlReqs.get (dlTag m)).map DlReq.use = some (.back key uid x b) →
      t.homeWrite (t.whoUid uid (key / 2 ^ 55) (key / 2 ^ 42 % 8192)) (l1LineNo key) (dlLine m) (dlMask m) 1 true none = (u, y) →
      (y = .fin → exec (.wr port m) s = .next (u.dlAck k m)) ∧
      (y = .full → exec (.wr port m) s = .next s) ∧
      (y = .logged → exec (.wr port m) s = .next (State.l1Sent { u with dlReqs := u.dlReqs.del (dlTag m) } key x b true)) ∧
      (∀ c, y = .fail c → exec (.wr port m) s = .next ((u.dlNoted m).dlNack k m c))) ∧
    (∀ key u x, dlCls m = 0 → dlOp m = 0x04 → (t.dlReqs.get (dlTag m)).map DlReq.use = some (.probe key) →
      t.home (t.probeWho key) (l1LineNo key) .write = (u, .ok x) → exec (.probew port m) s = .next (u.dlAck k m)) ∧
    (∀ ty, dlCls m = 0 → dlOp m = 0x03 → tyOf (fld (dlArg m) 8 4) = some ty →
      (ty ∉ atomTys (fld (dlArg m) 3 0) ∨ a % tyBytes ty ≠ 0 → exec (.dlAtom port m) s = .next (t.dlNack k m 0xF)) ∧
      (∀ z x c, z = tyBytes ty → ty ∈ atomTys (fld (dlArg m) 3 0) → a % z = 0 → t.dlGlobal m = none →
        t.onDie (dpDie k) a = true → t.physOwner a (dlAsid m) true = true → t.physLine (a / 64) = (x, c, false) →
        exec (.dlAtom port m) s = .next ((t.dlData k m x c false).physMerge (a / 64)
          (lineMerge x (lineAt (a % 64) z (opNew (fld (dlArg m) 3 0) ty (leNat (lineSlice x (a % 64) z)) (fld (dlSlot m 0) (8 * z - 1) 0)))
            (byteSpan (a % 64) z)) (byteSpan (a % 64) z) 0))) ∧
    (dlCls m = 0 → dlOp m = 0x05 ∨ dlOp m = 0x06 → t.dlSeg k m = none → ∀ i, (i = .sprd port m ∧ dlOp m = 0x05 ∧ bit (dlArg m) 0 = false) ∨
        (i = .spwr port m ∧ dlOp m = 0x05 ∧ bit (dlArg m) 0 = true) ∨ (i = .tbupd port m ∧ dlOp m = 0x06) → exec i s = .next (t.dlNack k m 1)) ∧
    (∀ g slot line, line = a % 4096 / 64 → dlCls m = 0 → s.dlSeg k m = some (g, slot) → t.dlSeg k m = some (g, slot) →
      ((∃ x, (s.seg g).st = .t x) ∨ ((s.seg g).st = .s ∧ bit (dlArg m) 0 = false ∧ dlStr m = false ∧
          ((∃ c, s.dlCore m = some c ∧ s.replicaWaits c g line s.nextOp = true) ∨ (s.dlCore m = none ∧ (s.seg g).msgs ≠ []))) →
        ∀ i, i ∈ [.sprd port m, .spwr port m] → exec i s = .next s) ∧
      (∀ h x u, dlOp m = 0x05 → bit (dlArg m) 0 = false → s.dlWaits k m = false → t.dlCopy g m = some h →
        x = lineOf (t.ls.read (segBase h + line * 64) 64) → u = (match t.dlCore m with
          | some c => t.heard c h line
          | none => t) →
        exec (.sprd port m) s = .next (State.dlData u k m x (nlEncode 0 x) (t.lsBad (segBase h + line * 64) 64))) ∧
      (∀ h, dlOp m = 0x05 → bit (dlArg m) 0 = true → (∀ y, (s.seg g).st ≠ .t y) → t.segHome g = some h →
        exec (.spwr port m) s = .next ((t.segWrite h line (dlLine m) (dlMask m) ((t.dlCore m).getD (h / 512))).dlAck k m)) ∧
      (dlOp m = 0x06 → (t.dlReqs.get (dlTag m)).map DlReq.use = some .update →
        exec (.tbupd port m) s = .next (State.dlAck { t with tbq := t.tbq.map (TbUpd.arrived (dlTag m)) } k m)) ∧
      (dlOp m = 0x06 → (t.dlReqs.get (dlTag m)).map DlReq.use ≠ some .update →
        ∃ v u, exec (.tbupd port m) s = .next v ∧ v.tbq = t.tbq ++ [u] ∧ u.ref = .scratch (g / 512) (a % 2 ^ 21 / 16 * 16) ∧
        u.arr = fld (dlSlot m 0) 31 0 ∧ u.sect = sextInt 40 (fld (dlSlot m 0) 71 32) ∧ u.abt = bit (dlSlot m 0) 72 ∧ u.err = bit (dlSlot m 0) 73)) ∧
    (∀ u, dlCls m = 0 → dlOp m = 0x10 →
      (t.promoDie (dpDie k) (dlAsid m) = (u, true) → exec (.promo port m) s = .next (u.dlReply k (dlMake 1 0x82 0 0 (dlTag m) 0 false []))) ∧
      (t.promoDie (dpDie k) (dlAsid m) = (u, false) → exec (.promo port m) s = .next (s.promoDie (dpDie k) (dlAsid m)).1)) ∧
    (∀ u x rest, dlCls m = 0 → dlOp m = 0x11 → t.shoot = x :: rest →
      (t.shootStep x.toNat (dpDie k) (fld (dlArg m) 2 0) = (u, true) →
        exec (.shoot port m) s = .next (u.dlReply k (dlMake 1 0x83 0 0 (dlTag m) (fld (dlArg m) 2 0) false []))) ∧
      (t.shootStep x.toNat (dpDie k) (fld (dlArg m) 2 0) = (u, false) → exec (.shoot port m) s = .next (s.shootAsked (dpDie k) m).1)) ∧
    (∀ q op b cs, dlCls m = 1 → dlOp m = 0x82 → t.dlReqs.get (dlTag m) = some q → q.use = .promo op → t.acqs.get op = some b → b.promo = some cs →
      ∃ v, exec (.pack port m) s = .next v ∧ v.dlReqs.get (dlTag m) = none ∧ ∃ b', v.acqs.get op = some b' ∧
        b'.promo = some (cs.filter fun c => !(dieCores (1 - dpDie k)).contains c)) ∧
    (∀ q ds step, dlCls m = 1 → dlOp m = 0x83 → t.dlReqs.get (dlTag m) = some q → q.use = .shoot step → fld (dlArg m) 2 0 = step →
      t.shootAt = (step, ds) → step ≠ 0 → 1 - dpDie k ∉ ds →
      exec (.sack port m) s = .next { t with dlReqs := t.dlReqs.del (dlTag m), shootAt := (step, ds ++ [1 - dpDie k]) }) ∧
    (∀ q, t.dlReqs.get (dlTag m) = some q → dlCls m = 1 →
      (dlOp m = 0x80 → q.use = .update → exec (.ack port m) s = .next { t with dlReqs := t.dlReqs.del (dlTag m) }) ∧
      (∀ key, dlOp m = 0x80 → q.use = .probe key → exec (.ack port m) s = .next (State.probeOk { t with dlReqs := t.dlReqs.del (dlTag m) } key)) ∧
      (∀ key uid x b, dlOp m = 0x80 → q.use = .back key uid x b →
        exec (.ack port m) s = .next (State.l1Sent { t with dlReqs := t.dlReqs.del (dlTag m) } key x b false)) ∧
      (∀ w ga bs e ok, (dlOp m = 0x80 ∧ ok = true) ∨ (dlOp m = 0x81 ∧ ok = false) → q.use = .bytes w ga bs e →
        exec (if ok then .ack port m else .nack port m) s = .next { t with dlReqs := t.dlReqs.set (dlTag m) { q with use := .bytes w ga bs (some ok) } })) ∧
    (∀ q op idx r p, t.dlReqs.get (dlTag m) = some q → q.use = .part op idx → t.reqs.get op = some r → r.parts[idx]? = some p →
      p.st = .sent (dlWait (dlTag m)) →
      (∀ va, dlCls m = 2 → dlOp m = 0xC0 → r.kind = .ld → r.ord = .weak → p.place = .global va → q.stale = true →
        exec (.rdata port m) s = .next { t.setPSt op idx .wait with dlReqs := t.dlReqs.del (dlTag m) }) ∧
      (∀ bs, dlCls m = 2 → dlOp m = 0xC0 → r.kind = .ld → (r.ord = .weak → q.stale = false ∧ (t.dlFill m).reqs = t.reqs) →
        t.dlBytes m r p = .data bs →
        ∃ v r', exec (.rdata port m) s = .next v ∧ v.dlReqs.get (dlTag m) = none ∧ v.reqs.get op = some r' ∧
          r'.parts[idx]? = some { p with st := .ready (bs.take p.n) }) ∧
      (dlCls m = 1 → dlOp m = 0x80 → r.kind = .st → ∃ v, exec (.ack port m) s = .next v ∧ v.dlReqs.get (dlTag m) = none ∧
        (r.FinishesStore → r.parts = [p] → v.reqs.get op = none)) ∧
      (∀ c, c = fld (dlArg m) 3 0 → dlCls m = 1 → dlOp m = 0x81 → dlAgain c = true → q.noted = false →
        exec (.nack port m) s = .next { t.setPSt op idx .wait with dlReqs := t.dlReqs.del (dlTag m) }) ∧
      (∀ c, c = fld (dlArg m) 3 0 → dlCls m = 1 → dlOp m = 0x81 → r.kind = .ld → dlAgain c = false →
        ∃ v r', exec (.nack port m) s = .next v ∧ v.dlReqs.get (dlTag m) = none ∧
        v.reqs.get op = some r' ∧ r'.parts[idx]? = some { p with st := .bad 1 } ∧
        ∀ va, p.place = .global va → 1 ≤ c → c ≤ 8 → q.noted = false → v.faultQ = (t.record (t.whoReq r) va c 0 false).1.faultQ)) ∧
    (dlCls m = 3 → dlOp m = 0xE0 → ∃ v, exec (.mfail port m) s = .next v ∧ fld (dlArg m) 3 0 ∉ (v.dlPort k).modok ∧
      ∀ j, j ≠ fld (dlArg m) 3 0 → j ∈ (t.dlPort k).modok → j ∈ (v.dlPort k).modok) ∧
    (dlCls m = 4 →
      (dlOp m = 0xF0 → (t.dlPort k).late t.clock = true ∨ fld (dlArg m) 23 20 ≠ 1 → exec (.ident port m) s = .next (t.updDl k fun p => { p with st := 5 })) ∧
      (∀ role h, dlOp m = 0xF0 → (t.dlPort k).late t.clock = false → fld (dlArg m) 23 20 = 1 → role = fld (dlArg m) 19 16 →
        h = (if role = 1 ∧ k % 3 = 2 then k - 1 else k) →
        ∃ v, exec (.ident port m) s = .next v ∧ (v.dlPort h).part = fld (dlArg m) 15 0 ∧ (v.dlPort h).role = role ∧ (v.dlPort h).ver = 1 ∧
          (v.dlPort h).peer = (if role = 1 then fld (dlSlot m 0) 7 0 else 0) ∧ (v.dlPort h).ident = true ∧
          (role = 1 → k % 3 ≠ 0 → t.dlJoined (dpDie k) = false → (v.dlPort h).modok =
            sortBy id ((t.dlPort (3 * dpDie k + 1)).modok ++ (t.dlPort (3 * dpDie k + 2)).modok))) ∧
      (dlOp m = 0xF1 → (t.dlPort k).late t.clock = false → (t.dlPort k).cap = false → ∃ v, exec (.cap port m) s = .next v ∧
        (v.dlPort k).cred = (List.range 5).map (fun c => fld (dlSlot m 0) (8 * c + 7) (8 * c)) ∧
        (v.dlPort k).caps = fld (dlSlot m 0) 46 40 ∧ (v.dlPort k).memsz = fld (dlSlot m 0) 55 48 ∧ (v.dlPort k).cap = true)))

/-- R426 to R429, R431 and R434: what happens on a port of the die link. A module that trains joins its port, and with the first
the die asks its partner what it is; 10 ms without both answers time it out. A module that fails, or that loses its lanes, leaves
the port, what the port has not had acknowledged goes again in order ahead of later messages, and the partner is told of a failure; one whose failed
lanes leave x32 works on at half width. A flit with a wrong CRC is discarded and NAKed, and the eighth in a row fails its module; a good one in order
gives its messages to the port, out of order it is discarded; a NAK has what was sent go again; a malformed message is dropped alone and fails the
link. A request without an answer for 1 ms fails its part, is withdrawn, and takes out the module that carried it. A message to a flit, and the clock
by which 1 ms and 10 ms are counted, are the model's choice (log entries 73 and 100). -/
def Obligations.DieLinkEvents : Prop :=
  ∀ (s : State) (port : DiePort) (module k : Nat) (p : DlPort), k = s.dlKey (dpKey port) → p = s.dlPort k →
    (k < 6 → module ∈ dpModules (dpKey port) → module ∉ p.modok → p.st < 4 → ∃ v, exec (.moduleTrained port module) s = .next v ∧
      (v.dlPort k).modok = sortBy id (module :: p.modok) ∧ (p.modok = [] → (v.dlPort k).asked = some s.clock ∧
        v.dlOut = s.dlOut ++ [(k, identMsg (dpDie k)), (k, capMsg)])) ∧
    (∀ t, p.asked = some t →
      (p.ident = false ∨ p.cap = false → t + 6000000 ≤ s.clock → ∃ v, exec (.discoveryTimeout port) s = .next v ∧ v.dlPort k = { p with st := 5 }) ∧
      (s.clock < t + 6000000 → exec (.discoveryTimeout port) s = .next s)) ∧
    (module ∈ p.modok →
      (∃ v, exec (.moduleFail port module) s = .next v ∧ (v.dlPort k).modok = p.modok.filter (fun j => j != module) ∧
        ((∃ j ∈ p.modok, j ≠ module) → p.st ≠ 5 → p.ident = true → p.cap = true → 1 ≤ (p.cred[3]?).getD 0 →
          v.dlOut = (p.unack.map (fun x => (k, x.2)) ++ s.dlOut.filter fun x => x.1 != k) ++ [(k, dlMake 3 0xE0 0 0 0 module false [])])) ∧
      (∃ v, exec (.moduleDegrade port module true) s = .next v ∧ (v.dlPort k).modok = p.modok ∧ module ∈ (v.dlPort k).half ∧
        (p.st ≠ 5 → p.ident = true → p.cap = true → (v.dlPort k).st = 3)) ∧
      (∃ v, exec (.moduleDegrade port module false) s = .next v ∧ (v.dlPort k).modok = p.modok.filter fun j => j != module) ∧
      ∀ slots h, p.st ≠ 5 → slots.length = 16 → h = (slots.headD 0).toNat →
        ((flitCrc slots).toNat ≠ fld h 127 96 → ∃ v, exec (.flitReceive port module slots) s = .next v ∧ (v.dlPort k).inbox = p.inbox ∧ (v.dlPort k).rseq = p.rseq ∧
          (v.dlPort k).nak = true ∧
          ((p.naks.get module).getD 0 < 7 → (v.dlPort k).modok = p.modok ∧ (v.dlPort k).naks.get module = some ((p.naks.get module).getD 0 + 1)) ∧
          (7 ≤ (p.naks.get module).getD 0 → (v.dlPort k).modok = p.modok.filter fun j => j != module)) ∧
        ((flitCrc slots).toNat = fld h 127 96 → ∃ v, exec (.flitReceive port module slots) s = .next v ∧
          (bit h 16 = true → v.dlOut = ((p.unack.filter fun x => !seqUpTo x.1 (fld h 15 8)).map fun x => (k, x.2)) ++ s.dlOut.filter fun x => x.1 != k) ∧
          (fld h 7 0 ≠ p.rseq → (v.dlPort k).inbox = p.inbox ∧ (v.dlPort k).rseq = p.rseq) ∧
          (∀ ms bad, fld h 7 0 = p.rseq → flitMsgs 16 (slots.drop 1) = (ms, bad) →
            (v.dlPort k).inbox = p.inbox ++ ms ∧ (v.dlPort k).rseq = (p.rseq + 1) % 256 ∧
            (bad = true → (v.dlPort k).st = 4 ∧ (v.dlPort k).modok = []) ∧ (bad = false → (v.dlPort k).modok = p.modok)))) ∧
    (∀ tag q op idx r y, s.dlReqs.get tag = some q → q.clock + 600000 ≤ s.clock → q.use = .part op idx → s.reqs.get op = some r →
      r.parts[idx]? = some y → y.st = .sent (dlWait tag) → r.kind = .ld → ∃ v r', exec (.dieLinkReqTimeout tag) s = .next v ∧ v.dlReqs.get tag = none ∧
        v.reqs.get op = some r' ∧ r'.parts[idx]? = some { y with st := .bad 1 } ∧
        (v.dlPort q.port).modok = (s.dlPort q.port).modok.filter (fun j => j != q.module) ∧
        ∀ m, (q.port, m) ∈ v.dlOut → ¬(dlCls m = 0 ∧ dlTag m = tag))

/-! ## The host -/

/-- R6, R7, R440, R443 and R451: what the host does through the aperture and the registers. A read inside one line answers with its bytes,
a write changes them at their home, and a FetchAdd, Swap or CAS answers with the old value and leaves the new; a read that fails
is answered as unsupported, and a write that fails is dropped and counted in APERR, which a read returns and clears. From stage 5
on a register write takes effect: a sticky bit of CTXSTAT clears where 1 is written, FAIL of a port likewise, the device index is
taken once, and unmasking an entry whose message is pending sends it. A register then reads the fields that were written to it, and 0 in its
reserved bits; a write-only one reads 0, and so does the management window while firmware keeps it closed. An access waits behind the host's earlier
ones that wait. The size of an access, how an unmasked entry sends its message and the stages in which the package serves are the model's choice
(log entries 103, 105 and 106). -/
def Obligations.HostAccesses : Prop :=
  ∀ (s t : State) (off n va : Nat), va = s.apVa off → s.mgmt.stage ≠ 7 → off + n ≤ 2 ^ 36 → n ≠ 0 → va % 64 + n ≤ 64 →
    (∀ bs, bs.length = n → s.posted ≠ [] → exec (.apertureWrite off bs) s = .next { s with posted := s.posted ++ [.write off bs] }) ∧
    (s.posted ≠ [] → exec (.apertureRead off n) s = .next { s with posted := s.posted ++ [.read off n] }) ∧
    (s.posted = [] →
    (∀ k x, s.logged s.mgmt.apasid (va / 64) = false → s.home s.apWho (va / 64) k = (t, .ok x) → t.mgmt = s.mgmt →
      (k = .read → exec (.apertureRead off n) s = .next { t with pcieOut := t.pcieOut ++ [.completion (lineSlice x (va % 64) n)] }) ∧
      (∀ bs, k = .write → bs.length = n → exec (.apertureWrite off bs) s =
        .next (t.mcPut s.mgmt.apasid (va / 64) (lineAt (va % 64) n (leNat bs)) (byteSpan (va % 64) n))) ∧
      (∀ op old new v w, k = .write → n = 4 ∨ n = 8 → va % n = 0 → old = leNat (lineSlice x (va % 64) n) →
        (op = .fetchAdd n v ∧ new = (old + v) % 2 ^ (8 * n)) ∨ (op = .swap n v ∧ new = v % 2 ^ (8 * n)) ∨
          (op = .cas n w v ∧ new = (if old = w % 2 ^ (8 * n) then v % 2 ^ (8 * n) else old)) →
        ∃ u, exec (.apertureAtomic off op) s = .next u ∧
          u.mc = (t.mcPut s.mgmt.apasid (va / 64) (lineAt (va % 64) n new) (byteSpan (va % 64) n)).mc ∧
          u.pcieOut = t.pcieOut ++ [.completion (lineSlice x (va % 64) n)])) ∧
    (∀ k cause u, s.logged s.mgmt.apasid (va / 64) = false → s.home s.apWho (va / 64) k = (t, .fail cause) → u = t.apRecord va cause →
      (k = .read → exec (.apertureRead off n) s = .next { u with pcieOut := u.pcieOut ++ [.unsupported] }) ∧
      (∀ bs, k = .write → bs.length = n → exec (.apertureWrite off bs) s = .next { u with mgmt := { u.mgmt with aperr := min 0xFFFFFFFF (u.mgmt.aperr + 1) } }))) ∧
    (s.serves = true → exec .aperrRead s = .next { s with mgmt := { s.mgmt with aperr := 0 }, pcieOut := s.pcieOut ++ [.completion (leBytes 4 s.mgmt.aperr)] }) ∧
    (∀ r v, s.serves = false → exec (.registerWrite r v) s = .next s) ∧
    (∀ v : DWord, s.serves = true →
      (∀ slot < 256, ∃ u, exec (.registerWrite (.ctxstat slot) v) s = .next u ∧ u.ctx slot = { s.ctx slot with
        nosave := (s.ctx slot).nosave && !v.getLsbD 20, cerr := (s.ctx slot).cerr && !v.getLsbD 16, qerr := (s.ctx slot).qerr && !v.getLsbD 15,
        pfull := (s.ctx slot).pfull && !v.getLsbD 14, lpart := (s.ctx slot).lpart && !v.getLsbD 13, lbusy := (s.ctx slot).lbusy && !v.getLsbD 12 }) ∧
      (∀ port < 24, ∃ u, exec (.registerWrite (.portStatus port) v) s = .next u ∧
        u.port port = { s.port port with fail := (s.port port).fail && !v.getLsbD 3 }) ∧
      (∀ slot < 256, ∃ u, exec (.registerWrite (.ctxsave slot) v) s = .next u ∧ u.regRead (.ctxsave slot) = fld v.toNat 55 12 * 4096) ∧
      (∀ slot < 256, ∃ u, exec (.registerWrite (.telbase slot) v) s = .next u ∧
        u.regRead (.telbase slot) = fld v.toNat 55 12 * 4096 + fld v.toNat 4 0) ∧
      exec (.registerWrite .ckctl v) s = exec (.checkpointGo v) s ∧
      (∃ u, exec (.registerWrite .ckctl v) s = .next u ∧ (v.getLsbD 0 = false → s.ck.st < 4 → fld (u.regRead .ckctl) 55 12 = fld v.toNat 55 12 ∧ fld (u.regRead .ckctl) 11 8 = fld v.toNat 11 8 ∧ fld (u.regRead .ckctl) 2 2 = fld v.toNat 2 2 ∧
          fld (u.regRead .ckctl) 4 3 = s.ck.st)) ∧
      (∃ u, exec (.registerWrite .devidx v) s = .next u ∧ u.mgmt.devset = true ∧
        u.mgmt.devidx = (if s.mgmt.devset then s.mgmt.devidx else v.toNat % 2048)) ∧
      (∀ i < 264, v.getLsbD 0 = false → i ∈ s.mgmt.pba → ∃ u, exec (.registerWrite (.msixMask i) v) s = .next u ∧
        u.pcieOut = s.pcieOut ++ [.msix i] ∧ i ∉ u.mgmt.pba ∧ i ∉ u.mgmt.msixMask)) ∧
    (∀ slot, s.regRead (.ctxcmd slot) = 0 ∧ s.regRead (.launch slot) = 0) ∧
    (∀ r, r.inWindow = true → s.mgmt.hostmw = false → s.mgmt.stage ≠ 7 → s.hostReads r = some 0)

/-- R14, R442 and R445 to R449: limits, reset, boot and attestation. A throttled core inserts idle slots until its throttle ends,
and a thermal stop halts all issue until it is resumed; each sets EVT when it acts. PWRCTL takes a cap from 300 to 2000 and clears
EVT where 1 is written. A reset leaves the state after reset, but for the image whose boot begins and the leaf counter; the boot then goes
through its stages, each with its check and its message, to the firmware in reduced service, or to stage 7; before stage 5 and in stage 7 no command or write of the host or of firmware does anything; leaving reduced
service reaches stage 6. A report signs the measurement and the nonce with the
next leaf, while one is left. The layout of a report, what a reset keeps beside the counter and that the measurements come by a step of the
outside are the model's choice (log entries 106, 107 and 108). -/
def Obligations.PowerAndBoot : Prop :=
  ∀ (s : State),
    (∀ core < 192, core ∉ s.throttled → ∃ u, exec (.throttle core) s = .next u ∧ u.throttled = s.throttled ++ [core] ∧ u.mgmt.evt = true) ∧
    (∀ core, ∃ u, exec (.throttleEnd core) s = .next u ∧ core ∉ u.throttled ∧ { u with throttled := s.throttled } = s) ∧
    (s.mgmt.stopt = false → ∃ u, exec .thermalStop s = .next u ∧ u.mgmt.stopt = true ∧ u.mgmt.evt = true ∧
      (s.mgmt.msixMask.contains 259 = false → u.pcieOut = s.pcieOut ++ [.msix 259])) ∧
    (s.mgmt.stopt = true → exec .thermalStop s = .next s) ∧
    (∃ u, exec .thermalResume s = .next u ∧ u.mgmt = { s.mgmt with stopt := false } ∧ { u with mgmt := s.mgmt } = s) ∧
    (∀ v : DWord, s.serves = true → ∃ u, exec (.pwrctlWrite v) s = .next u ∧ { u with mgmt := s.mgmt } = s ∧
      u.mgmt = { s.mgmt with pcap := if 300 ≤ fld v.toNat 47 32 ∧ fld v.toNat 47 32 ≤ 2000 then fld v.toNat 47 32 else s.mgmt.pcap,
                             evt := s.mgmt.evt && !v.getLsbD 0 }) ∧
    (s.serves = false → ∀ slot core k d v (w : Word) bs, ∀ i ∈ [Instr.launchPacketWrite slot bs, .quotaWrite slot core v, .intcfgWrite slot w, .preempt slot,
        .stop slot, .restore slot, .release slot, .hostDeal slot d bs, .dropsRead slot d, .fabcfgWrite w, .portStatusRead k, .checkpointGo v, .pwrctlWrite v,
        .aperrRead, .shootdownRequest bs], exec i s = .next s) ∧
    (∀ img good, good = (img.len = img.body.length ∧ Config.sha256 img.key = Config.rootHash ∧ Config.lmsVerify img.key img.sig (Config.sha256 img.body) = true ∧
        Config.minVersion ≤ img.version) →
      exec (.reset img) s = .next { State.reset with mgmt := { Mgmt.reset with leaf := s.mgmt.leaf, image := some img }, free := s.free, agenda := s.agenda } ∧
      ∀ t, t = { State.reset with mgmt := { Mgmt.reset with leaf := s.mgmt.leaf, image := some img } } →
        (good → (bootRun 5 t).mgmt = { Mgmt.reset with stage := 5, reduced := true, leaf := s.mgmt.leaf, measure := some (Config.sha256 img.body) } ∧
          (bootRun 5 t).pcieOut = List.replicate 5 (.msix 261)) ∧
        (¬good → (bootRun 5 t).mgmt = { Mgmt.reset with stage := 7, leaf := s.mgmt.leaf })) ∧
    (∀ img cs, s.agenda = .boot :: cs → s.mgmt.image = some img → s.telPend = [] → s.mgmt.stage < 4 → bootOk img s.mgmt.stage = true →
      ∃ u, step s = .next u ∧ u.mgmt.stage = s.mgmt.stage + 1 ∧ u.mgmt.image = some img ∧ u.agenda = cs ∧
        (s.mgmt.msixMask.contains 261 = false → u.pcieOut = s.pcieOut ++ [.msix 261])) ∧
    (s.mgmt.stage = 5 → s.mgmt.reduced = true → s.anyActive = false → ∃ u, exec .reducedServiceExit s = .next u ∧ u.mgmt.stage = 6 ∧
      u.mgmt.reduced = false ∧ u.hbm = s.hbm ∧ u.plies = s.plies) ∧
    (∀ nonce h body, s.mgmt.measure = some h → nonce.length = 32 → body = leBytes 32 h.toNat ++ Config.deviceId ++ nonce →
      (s.mgmt.leaf < 32768 → exec (.attestationReport nonce) s = .next { s with
        mgmt := { s.mgmt with leaf := s.mgmt.leaf + 1 }, pcieOut := s.pcieOut ++ [.report body (some (Config.lmsSign s.mgmt.leaf body))] }) ∧
      (32768 ≤ s.mgmt.leaf → exec (.attestationReport nonce) s = .next { s with pcieOut := s.pcieOut ++ [.report body none] }))
end

