-- ==== Sys2Proof/Laws/State.lean ====
section
/-! SUPPORT. What a named update leaves unchanged: one lemma for each field and each update that does not change it, and what it makes of the
field that it does change. -/

namespace Sys2Proof.Machine

/-! ## State.setPly -/

@[simp] theorem State.setPly_clock (s : State) (pid : Nat) (p : Ply) : (s.setPly pid p).clock = s.clock := rfl
@[simp] theorem State.setPly_agenda (s : State) (pid : Nat) (p : Ply) : (s.setPly pid p).agenda = s.agenda := rfl
@[simp] theorem State.setPly_sel (s : State) (pid : Nat) (p : Ply) : (s.setPly pid p).sel = s.sel := rfl
@[simp] theorem State.setPly_stall (s : State) (pid : Nat) (p : Ply) : (s.setPly pid p).stall = s.stall := rfl
@[simp] theorem State.setPly_issued (s : State) (pid : Nat) (p : Ply) : (s.setPly pid p).issued = s.issued := rfl
@[simp] theorem State.setPly_throttled (s : State) (pid : Nat) (p : Ply) : (s.setPly pid p).throttled = s.throttled := rfl
@[simp] theorem State.setPly_nextOp (s : State) (pid : Nat) (p : Ply) : (s.setPly pid p).nextOp = s.nextOp := rfl
@[simp] theorem State.setPly_free (s : State) (pid : Nat) (p : Ply) : (s.setPly pid p).free = s.free := rfl
@[simp] theorem State.setPly_gone (s : State) (pid : Nat) (p : Ply) : (s.setPly pid p).gone = s.gone := rfl
@[simp] theorem State.setPly_skeins (s : State) (pid : Nat) (p : Ply) : (s.setPly pid p).skeins = s.skeins := rfl
@[simp] theorem State.setPly_ctxs (s : State) (pid : Nat) (p : Ply) : (s.setPly pid p).ctxs = s.ctxs := rfl
@[simp] theorem State.setPly_parts (s : State) (pid : Nat) (p : Ply) : (s.setPly pid p).parts = s.parts := rfl
@[simp] theorem State.setPly_lent (s : State) (pid : Nat) (p : Ply) : (s.setPly pid p).lent = s.lent := rfl
@[simp] theorem State.setPly_saved (s : State) (pid : Nat) (p : Ply) : (s.setPly pid p).saved = s.saved := rfl
@[simp] theorem State.setPly_quota (s : State) (pid : Nat) (p : Ply) : (s.setPly pid p).quota = s.quota := rfl
@[simp] theorem State.setPly_hbm (s : State) (pid : Nat) (p : Ply) : (s.setPly pid p).hbm = s.hbm := rfl
@[simp] theorem State.setPly_chk (s : State) (pid : Nat) (p : Ply) : (s.setPly pid p).chk = s.chk := rfl
@[simp] theorem State.setPly_stuck (s : State) (pid : Nat) (p : Ply) : (s.setPly pid p).stuck = s.stuck := rfl
@[simp] theorem State.setPly_transit (s : State) (pid : Nat) (p : Ply) : (s.setPly pid p).transit = s.transit := rfl
@[simp] theorem State.setPly_retireReq (s : State) (pid : Nat) (p : Ply) : (s.setPly pid p).retireReq = s.retireReq := rfl
@[simp] theorem State.setPly_tlb (s : State) (pid : Nat) (p : Ply) : (s.setPly pid p).tlb = s.tlb := rfl
@[simp] theorem State.setPly_oldCode (s : State) (pid : Nat) (p : Ply) : (s.setPly pid p).oldCode = s.oldCode := rfl
@[simp] theorem State.setPly_mc (s : State) (pid : Nat) (p : Ply) : (s.setPly pid p).mc = s.mc := rfl
@[simp] theorem State.setPly_slices (s : State) (pid : Nat) (p : Ply) : (s.setPly pid p).slices = s.slices := rfl
@[simp] theorem State.setPly_faultQ (s : State) (pid : Nat) (p : Ply) : (s.setPly pid p).faultQ = s.faultQ := rfl
@[simp] theorem State.setPly_l1 (s : State) (pid : Nat) (p : Ply) : (s.setPly pid p).l1 = s.l1 := rfl
@[simp] theorem State.setPly_ic (s : State) (pid : Nat) (p : Ply) : (s.setPly pid p).ic = s.ic := rfl
@[simp] theorem State.setPly_ls (s : State) (pid : Nat) (p : Ply) : (s.setPly pid p).ls = s.ls := rfl
@[simp] theorem State.setPly_lsPoison (s : State) (pid : Nat) (p : Ply) : (s.setPly pid p).lsPoison = s.lsPoison := rfl
@[simp] theorem State.setPly_segs (s : State) (pid : Nat) (p : Ply) : (s.setPly pid p).segs = s.segs := rfl
@[simp] theorem State.setPly_wcb (s : State) (pid : Nat) (p : Ply) : (s.setPly pid p).wcb = s.wcb := rfl
@[simp] theorem State.setPly_reqs (s : State) (pid : Nat) (p : Ply) : (s.setPly pid p).reqs = s.reqs := rfl
@[simp] theorem State.setPly_acqs (s : State) (pid : Nat) (p : Ply) : (s.setPly pid p).acqs = s.acqs := rfl
@[simp] theorem State.setPly_podEarly (s : State) (pid : Nat) (p : Ply) : (s.setPly pid p).podEarly = s.podEarly := rfl
@[simp] theorem State.setPly_posted (s : State) (pid : Nat) (p : Ply) : (s.setPly pid p).posted = s.posted := rfl
@[simp] theorem State.setPly_remote (s : State) (pid : Nat) (p : Ply) : (s.setPly pid p).remote = s.remote := rfl
@[simp] theorem State.setPly_podHost (s : State) (pid : Nat) (p : Ply) : (s.setPly pid p).podHost = s.podHost := rfl
@[simp] theorem State.setPly_remerr (s : State) (pid : Nat) (p : Ply) : (s.setPly pid p).remerr = s.remerr := rfl
@[simp] theorem State.setPly_relOp (s : State) (pid : Nat) (p : Ply) : (s.setPly pid p).relOp = s.relOp := rfl
@[simp] theorem State.setPly_tbq (s : State) (pid : Nat) (p : Ply) : (s.setPly pid p).tbq = s.tbq := rfl
@[simp] theorem State.setPly_tidc (s : State) (pid : Nat) (p : Ply) : (s.setPly pid p).tidc = s.tidc := rfl
@[simp] theorem State.setPly_copies (s : State) (pid : Nat) (p : Ply) : (s.setPly pid p).copies = s.copies := rfl
@[simp] theorem State.setPly_probes (s : State) (pid : Nat) (p : Ply) : (s.setPly pid p).probes = s.probes := rfl
@[simp] theorem State.setPly_tiles (s : State) (pid : Nat) (p : Ply) : (s.setPly pid p).tiles = s.tiles := rfl
@[simp] theorem State.setPly_mats (s : State) (pid : Nat) (p : Ply) : (s.setPly pid p).mats = s.mats := rfl
@[simp] theorem State.setPly_accWait (s : State) (pid : Nat) (p : Ply) : (s.setPly pid p).accWait = s.accWait := rfl
@[simp] theorem State.setPly_accFree (s : State) (pid : Nat) (p : Ply) : (s.setPly pid p).accFree = s.accFree := rfl
@[simp] theorem State.setPly_accSince (s : State) (pid : Nat) (p : Ply) : (s.setPly pid p).accSince = s.accSince := rfl
@[simp] theorem State.setPly_shadow (s : State) (pid : Nat) (p : Ply) : (s.setPly pid p).shadow = s.shadow := rfl
@[simp] theorem State.setPly_trigs (s : State) (pid : Nat) (p : Ply) : (s.setPly pid p).trigs = s.trigs := rfl
@[simp] theorem State.setPly_decks (s : State) (pid : Nat) (p : Ply) : (s.setPly pid p).decks = s.decks := rfl
@[simp] theorem State.setPly_deckOps (s : State) (pid : Nat) (p : Ply) : (s.setPly pid p).deckOps = s.deckOps := rfl
@[simp] theorem State.setPly_gslots (s : State) (pid : Nat) (p : Ply) : (s.setPly pid p).gslots = s.gslots := rfl
@[simp] theorem State.setPly_groups (s : State) (pid : Nat) (p : Ply) : (s.setPly pid p).groups = s.groups := rfl
@[simp] theorem State.setPly_calls (s : State) (pid : Nat) (p : Ply) : (s.setPly pid p).calls = s.calls := rfl
@[simp] theorem State.setPly_colHeld (s : State) (pid : Nat) (p : Ply) : (s.setPly pid p).colHeld = s.colHeld := rfl
@[simp] theorem State.setPly_images (s : State) (pid : Nat) (p : Ply) : (s.setPly pid p).images = s.images := rfl
@[simp] theorem State.setPly_eps (s : State) (pid : Nat) (p : Ply) : (s.setPly pid p).eps = s.eps := rfl
@[simp] theorem State.setPly_recvs (s : State) (pid : Nat) (p : Ply) : (s.setPly pid p).recvs = s.recvs := rfl
@[simp] theorem State.setPly_sends (s : State) (pid : Nat) (p : Ply) : (s.setPly pid p).sends = s.sends := rfl
@[simp] theorem State.setPly_uetOut (s : State) (pid : Nat) (p : Ply) : (s.setPly pid p).uetOut = s.uetOut := rfl
@[simp] theorem State.setPly_ports (s : State) (pid : Nat) (p : Ply) : (s.setPly pid p).ports = s.ports := rfl
@[simp] theorem State.setPly_away (s : State) (pid : Nat) (p : Ply) : (s.setPly pid p).away = s.away := rfl
@[simp] theorem State.setPly_mgroups (s : State) (pid : Nat) (p : Ply) : (s.setPly pid p).mgroups = s.mgroups := rfl
@[simp] theorem State.setPly_routes (s : State) (pid : Nat) (p : Ply) : (s.setPly pid p).routes = s.routes := rfl
@[simp] theorem State.setPly_detours (s : State) (pid : Nat) (p : Ply) : (s.setPly pid p).detours = s.detours := rfl
@[simp] theorem State.setPly_port23 (s : State) (pid : Nat) (p : Ply) : (s.setPly pid p).port23 = s.port23 := rfl
@[simp] theorem State.setPly_port23Ctx (s : State) (pid : Nat) (p : Ply) : (s.setPly pid p).port23Ctx = s.port23Ctx := rfl
@[simp] theorem State.setPly_merges (s : State) (pid : Nat) (p : Ply) : (s.setPly pid p).merges = s.merges := rfl
@[simp] theorem State.setPly_flowIn (s : State) (pid : Nat) (p : Ply) : (s.setPly pid p).flowIn = s.flowIn := rfl
@[simp] theorem State.setPly_flowHeld (s : State) (pid : Nat) (p : Ply) : (s.setPly pid p).flowHeld = s.flowHeld := rfl
@[simp] theorem State.setPly_dl (s : State) (pid : Nat) (p : Ply) : (s.setPly pid p).dl = s.dl := rfl
@[simp] theorem State.setPly_dlOut (s : State) (pid : Nat) (p : Ply) : (s.setPly pid p).dlOut = s.dlOut := rfl
@[simp] theorem State.setPly_dlReqs (s : State) (pid : Nat) (p : Ply) : (s.setPly pid p).dlReqs = s.dlReqs := rfl
@[simp] theorem State.setPly_flitOut (s : State) (pid : Nat) (p : Ply) : (s.setPly pid p).flitOut = s.flitOut := rfl
@[simp] theorem State.setPly_shootAt (s : State) (pid : Nat) (p : Ply) : (s.setPly pid p).shootAt = s.shootAt := rfl
@[simp] theorem State.setPly_ck (s : State) (pid : Nat) (p : Ply) : (s.setPly pid p).ck = s.ck := rfl
@[simp] theorem State.setPly_flowOut (s : State) (pid : Nat) (p : Ply) : (s.setPly pid p).flowOut = s.flowOut := rfl
@[simp] theorem State.setPly_fabOut (s : State) (pid : Nat) (p : Ply) : (s.setPly pid p).fabOut = s.fabOut := rfl
@[simp] theorem State.setPly_pcieOut (s : State) (pid : Nat) (p : Ply) : (s.setPly pid p).pcieOut = s.pcieOut := rfl
@[simp] theorem State.setPly_shoot (s : State) (pid : Nat) (p : Ply) : (s.setPly pid p).shoot = s.shoot := rfl
@[simp] theorem State.setPly_telPend (s : State) (pid : Nat) (p : Ply) : (s.setPly pid p).telPend = s.telPend := rfl
@[simp] theorem State.setPly_telLog (s : State) (pid : Nat) (p : Ply) : (s.setPly pid p).telLog = s.telLog := rfl
@[simp] theorem State.setPly_mgmt (s : State) (pid : Nat) (p : Ply) : (s.setPly pid p).mgmt = s.mgmt := rfl

/-! ## State.updPly -/

@[simp] theorem State.updPly_clock (s : State) (pid : Nat) (f : Ply → Ply) : (s.updPly pid f).clock = s.clock := rfl
@[simp] theorem State.updPly_agenda (s : State) (pid : Nat) (f : Ply → Ply) : (s.updPly pid f).agenda = s.agenda := rfl
@[simp] theorem State.updPly_sel (s : State) (pid : Nat) (f : Ply → Ply) : (s.updPly pid f).sel = s.sel := rfl
@[simp] theorem State.updPly_stall (s : State) (pid : Nat) (f : Ply → Ply) : (s.updPly pid f).stall = s.stall := rfl
@[simp] theorem State.updPly_issued (s : State) (pid : Nat) (f : Ply → Ply) : (s.updPly pid f).issued = s.issued := rfl
@[simp] theorem State.updPly_throttled (s : State) (pid : Nat) (f : Ply → Ply) : (s.updPly pid f).throttled = s.throttled := rfl
@[simp] theorem State.updPly_nextOp (s : State) (pid : Nat) (f : Ply → Ply) : (s.updPly pid f).nextOp = s.nextOp := rfl
@[simp] theorem State.updPly_free (s : State) (pid : Nat) (f : Ply → Ply) : (s.updPly pid f).free = s.free := rfl
@[simp] theorem State.updPly_gone (s : State) (pid : Nat) (f : Ply → Ply) : (s.updPly pid f).gone = s.gone := rfl
@[simp] theorem State.updPly_skeins (s : State) (pid : Nat) (f : Ply → Ply) : (s.updPly pid f).skeins = s.skeins := rfl
@[simp] theorem State.updPly_ctxs (s : State) (pid : Nat) (f : Ply → Ply) : (s.updPly pid f).ctxs = s.ctxs := rfl
@[simp] theorem State.updPly_parts (s : State) (pid : Nat) (f : Ply → Ply) : (s.updPly pid f).parts = s.parts := rfl
@[simp] theorem State.updPly_lent (s : State) (pid : Nat) (f : Ply → Ply) : (s.updPly pid f).lent = s.lent := rfl
@[simp] theorem State.updPly_saved (s : State) (pid : Nat) (f : Ply → Ply) : (s.updPly pid f).saved = s.saved := rfl
@[simp] theorem State.updPly_quota (s : State) (pid : Nat) (f : Ply → Ply) : (s.updPly pid f).quota = s.quota := rfl
@[simp] theorem State.updPly_hbm (s : State) (pid : Nat) (f : Ply → Ply) : (s.updPly pid f).hbm = s.hbm := rfl
@[simp] theorem State.updPly_chk (s : State) (pid : Nat) (f : Ply → Ply) : (s.updPly pid f).chk = s.chk := rfl
@[simp] theorem State.updPly_stuck (s : State) (pid : Nat) (f : Ply → Ply) : (s.updPly pid f).stuck = s.stuck := rfl
@[simp] theorem State.updPly_transit (s : State) (pid : Nat) (f : Ply → Ply) : (s.updPly pid f).transit = s.transit := rfl
@[simp] theorem State.updPly_retireReq (s : State) (pid : Nat) (f : Ply → Ply) : (s.updPly pid f).retireReq = s.retireReq := rfl
@[simp] theorem State.updPly_tlb (s : State) (pid : Nat) (f : Ply → Ply) : (s.updPly pid f).tlb = s.tlb := rfl
@[simp] theorem State.updPly_oldCode (s : State) (pid : Nat) (f : Ply → Ply) : (s.updPly pid f).oldCode = s.oldCode := rfl
@[simp] theorem State.updPly_mc (s : State) (pid : Nat) (f : Ply → Ply) : (s.updPly pid f).mc = s.mc := rfl
@[simp] theorem State.updPly_slices (s : State) (pid : Nat) (f : Ply → Ply) : (s.updPly pid f).slices = s.slices := rfl
@[simp] theorem State.updPly_faultQ (s : State) (pid : Nat) (f : Ply → Ply) : (s.updPly pid f).faultQ = s.faultQ := rfl
@[simp] theorem State.updPly_l1 (s : State) (pid : Nat) (f : Ply → Ply) : (s.updPly pid f).l1 = s.l1 := rfl
@[simp] theorem State.updPly_ic (s : State) (pid : Nat) (f : Ply → Ply) : (s.updPly pid f).ic = s.ic := rfl
@[simp] theorem State.updPly_ls (s : State) (pid : Nat) (f : Ply → Ply) : (s.updPly pid f).ls = s.ls := rfl
@[simp] theorem State.updPly_lsPoison (s : State) (pid : Nat) (f : Ply → Ply) : (s.updPly pid f).lsPoison = s.lsPoison := rfl
@[simp] theorem State.updPly_segs (s : State) (pid : Nat) (f : Ply → Ply) : (s.updPly pid f).segs = s.segs := rfl
@[simp] theorem State.updPly_wcb (s : State) (pid : Nat) (f : Ply → Ply) : (s.updPly pid f).wcb = s.wcb := rfl
@[simp] theorem State.updPly_reqs (s : State) (pid : Nat) (f : Ply → Ply) : (s.updPly pid f).reqs = s.reqs := rfl
@[simp] theorem State.updPly_acqs (s : State) (pid : Nat) (f : Ply → Ply) : (s.updPly pid f).acqs = s.acqs := rfl
@[simp] theorem State.updPly_podEarly (s : State) (pid : Nat) (f : Ply → Ply) : (s.updPly pid f).podEarly = s.podEarly := rfl
@[simp] theorem State.updPly_posted (s : State) (pid : Nat) (f : Ply → Ply) : (s.updPly pid f).posted = s.posted := rfl
@[simp] theorem State.updPly_remote (s : State) (pid : Nat) (f : Ply → Ply) : (s.updPly pid f).remote = s.remote := rfl
@[simp] theorem State.updPly_podHost (s : State) (pid : Nat) (f : Ply → Ply) : (s.updPly pid f).podHost = s.podHost := rfl
@[simp] theorem State.updPly_remerr (s : State) (pid : Nat) (f : Ply → Ply) : (s.updPly pid f).remerr = s.remerr := rfl
@[simp] theorem State.updPly_relOp (s : State) (pid : Nat) (f : Ply → Ply) : (s.updPly pid f).relOp = s.relOp := rfl
@[simp] theorem State.updPly_tbq (s : State) (pid : Nat) (f : Ply → Ply) : (s.updPly pid f).tbq = s.tbq := rfl
@[simp] theorem State.updPly_tidc (s : State) (pid : Nat) (f : Ply → Ply) : (s.updPly pid f).tidc = s.tidc := rfl
@[simp] theorem State.updPly_copies (s : State) (pid : Nat) (f : Ply → Ply) : (s.updPly pid f).copies = s.copies := rfl
@[simp] theorem State.updPly_probes (s : State) (pid : Nat) (f : Ply → Ply) : (s.updPly pid f).probes = s.probes := rfl
@[simp] theorem State.updPly_tiles (s : State) (pid : Nat) (f : Ply → Ply) : (s.updPly pid f).tiles = s.tiles := rfl
@[simp] theorem State.updPly_mats (s : State) (pid : Nat) (f : Ply → Ply) : (s.updPly pid f).mats = s.mats := rfl
@[simp] theorem State.updPly_accWait (s : State) (pid : Nat) (f : Ply → Ply) : (s.updPly pid f).accWait = s.accWait := rfl
@[simp] theorem State.updPly_accFree (s : State) (pid : Nat) (f : Ply → Ply) : (s.updPly pid f).accFree = s.accFree := rfl
@[simp] theorem State.updPly_accSince (s : State) (pid : Nat) (f : Ply → Ply) : (s.updPly pid f).accSince = s.accSince := rfl
@[simp] theorem State.updPly_shadow (s : State) (pid : Nat) (f : Ply → Ply) : (s.updPly pid f).shadow = s.shadow := rfl
@[simp] theorem State.updPly_trigs (s : State) (pid : Nat) (f : Ply → Ply) : (s.updPly pid f).trigs = s.trigs := rfl
@[simp] theorem State.updPly_decks (s : State) (pid : Nat) (f : Ply → Ply) : (s.updPly pid f).decks = s.decks := rfl
@[simp] theorem State.updPly_deckOps (s : State) (pid : Nat) (f : Ply → Ply) : (s.updPly pid f).deckOps = s.deckOps := rfl
@[simp] theorem State.updPly_gslots (s : State) (pid : Nat) (f : Ply → Ply) : (s.updPly pid f).gslots = s.gslots := rfl
@[simp] theorem State.updPly_groups (s : State) (pid : Nat) (f : Ply → Ply) : (s.updPly pid f).groups = s.groups := rfl
@[simp] theorem State.updPly_calls (s : State) (pid : Nat) (f : Ply → Ply) : (s.updPly pid f).calls = s.calls := rfl
@[simp] theorem State.updPly_colHeld (s : State) (pid : Nat) (f : Ply → Ply) : (s.updPly pid f).colHeld = s.colHeld := rfl
@[simp] theorem State.updPly_images (s : State) (pid : Nat) (f : Ply → Ply) : (s.updPly pid f).images = s.images := rfl
@[simp] theorem State.updPly_eps (s : State) (pid : Nat) (f : Ply → Ply) : (s.updPly pid f).eps = s.eps := rfl
@[simp] theorem State.updPly_recvs (s : State) (pid : Nat) (f : Ply → Ply) : (s.updPly pid f).recvs = s.recvs := rfl
@[simp] theorem State.updPly_sends (s : State) (pid : Nat) (f : Ply → Ply) : (s.updPly pid f).sends = s.sends := rfl
@[simp] theorem State.updPly_uetOut (s : State) (pid : Nat) (f : Ply → Ply) : (s.updPly pid f).uetOut = s.uetOut := rfl
@[simp] theorem State.updPly_ports (s : State) (pid : Nat) (f : Ply → Ply) : (s.updPly pid f).ports = s.ports := rfl
@[simp] theorem State.updPly_away (s : State) (pid : Nat) (f : Ply → Ply) : (s.updPly pid f).away = s.away := rfl
@[simp] theorem State.updPly_mgroups (s : State) (pid : Nat) (f : Ply → Ply) : (s.updPly pid f).mgroups = s.mgroups := rfl
@[simp] theorem State.updPly_routes (s : State) (pid : Nat) (f : Ply → Ply) : (s.updPly pid f).routes = s.routes := rfl
@[simp] theorem State.updPly_detours (s : State) (pid : Nat) (f : Ply → Ply) : (s.updPly pid f).detours = s.detours := rfl
@[simp] theorem State.updPly_port23 (s : State) (pid : Nat) (f : Ply → Ply) : (s.updPly pid f).port23 = s.port23 := rfl
@[simp] theorem State.updPly_port23Ctx (s : State) (pid : Nat) (f : Ply → Ply) : (s.updPly pid f).port23Ctx = s.port23Ctx := rfl
@[simp] theorem State.updPly_merges (s : State) (pid : Nat) (f : Ply → Ply) : (s.updPly pid f).merges = s.merges := rfl
@[simp] theorem State.updPly_flowIn (s : State) (pid : Nat) (f : Ply → Ply) : (s.updPly pid f).flowIn = s.flowIn := rfl
@[simp] theorem State.updPly_flowHeld (s : State) (pid : Nat) (f : Ply → Ply) : (s.updPly pid f).flowHeld = s.flowHeld := rfl
@[simp] theorem State.updPly_dl (s : State) (pid : Nat) (f : Ply → Ply) : (s.updPly pid f).dl = s.dl := rfl
@[simp] theorem State.updPly_dlOut (s : State) (pid : Nat) (f : Ply → Ply) : (s.updPly pid f).dlOut = s.dlOut := rfl
@[simp] theorem State.updPly_dlReqs (s : State) (pid : Nat) (f : Ply → Ply) : (s.updPly pid f).dlReqs = s.dlReqs := rfl
@[simp] theorem State.updPly_flitOut (s : State) (pid : Nat) (f : Ply → Ply) : (s.updPly pid f).flitOut = s.flitOut := rfl
@[simp] theorem State.updPly_shootAt (s : State) (pid : Nat) (f : Ply → Ply) : (s.updPly pid f).shootAt = s.shootAt := rfl
@[simp] theorem State.updPly_ck (s : State) (pid : Nat) (f : Ply → Ply) : (s.updPly pid f).ck = s.ck := rfl
@[simp] theorem State.updPly_flowOut (s : State) (pid : Nat) (f : Ply → Ply) : (s.updPly pid f).flowOut = s.flowOut := rfl
@[simp] theorem State.updPly_fabOut (s : State) (pid : Nat) (f : Ply → Ply) : (s.updPly pid f).fabOut = s.fabOut := rfl
@[simp] theorem State.updPly_pcieOut (s : State) (pid : Nat) (f : Ply → Ply) : (s.updPly pid f).pcieOut = s.pcieOut := rfl
@[simp] theorem State.updPly_shoot (s : State) (pid : Nat) (f : Ply → Ply) : (s.updPly pid f).shoot = s.shoot := rfl
@[simp] theorem State.updPly_telPend (s : State) (pid : Nat) (f : Ply → Ply) : (s.updPly pid f).telPend = s.telPend := rfl
@[simp] theorem State.updPly_telLog (s : State) (pid : Nat) (f : Ply → Ply) : (s.updPly pid f).telLog = s.telLog := rfl
@[simp] theorem State.updPly_mgmt (s : State) (pid : Nat) (f : Ply → Ply) : (s.updPly pid f).mgmt = s.mgmt := rfl

/-! ## State.updSkein -/

@[simp] theorem State.updSkein_clock (s : State) (k : Nat) (f : Skein → Skein) : (s.updSkein k f).clock = s.clock := rfl
@[simp] theorem State.updSkein_agenda (s : State) (k : Nat) (f : Skein → Skein) : (s.updSkein k f).agenda = s.agenda := rfl
@[simp] theorem State.updSkein_sel (s : State) (k : Nat) (f : Skein → Skein) : (s.updSkein k f).sel = s.sel := rfl
@[simp] theorem State.updSkein_stall (s : State) (k : Nat) (f : Skein → Skein) : (s.updSkein k f).stall = s.stall := rfl
@[simp] theorem State.updSkein_issued (s : State) (k : Nat) (f : Skein → Skein) : (s.updSkein k f).issued = s.issued := rfl
@[simp] theorem State.updSkein_throttled (s : State) (k : Nat) (f : Skein → Skein) : (s.updSkein k f).throttled = s.throttled := rfl
@[simp] theorem State.updSkein_nextOp (s : State) (k : Nat) (f : Skein → Skein) : (s.updSkein k f).nextOp = s.nextOp := rfl
@[simp] theorem State.updSkein_free (s : State) (k : Nat) (f : Skein → Skein) : (s.updSkein k f).free = s.free := rfl
@[simp] theorem State.updSkein_plies (s : State) (k : Nat) (f : Skein → Skein) : (s.updSkein k f).plies = s.plies := rfl
@[simp] theorem State.updSkein_gone (s : State) (k : Nat) (f : Skein → Skein) : (s.updSkein k f).gone = s.gone := rfl
@[simp] theorem State.updSkein_ctxs (s : State) (k : Nat) (f : Skein → Skein) : (s.updSkein k f).ctxs = s.ctxs := rfl
@[simp] theorem State.updSkein_parts (s : State) (k : Nat) (f : Skein → Skein) : (s.updSkein k f).parts = s.parts := rfl
@[simp] theorem State.updSkein_lent (s : State) (k : Nat) (f : Skein → Skein) : (s.updSkein k f).lent = s.lent := rfl
@[simp] theorem State.updSkein_saved (s : State) (k : Nat) (f : Skein → Skein) : (s.updSkein k f).saved = s.saved := rfl
@[simp] theorem State.updSkein_quota (s : State) (k : Nat) (f : Skein → Skein) : (s.updSkein k f).quota = s.quota := rfl
@[simp] theorem State.updSkein_hbm (s : State) (k : Nat) (f : Skein → Skein) : (s.updSkein k f).hbm = s.hbm := rfl
@[simp] theorem State.updSkein_chk (s : State) (k : Nat) (f : Skein → Skein) : (s.updSkein k f).chk = s.chk := rfl
@[simp] theorem State.updSkein_stuck (s : State) (k : Nat) (f : Skein → Skein) : (s.updSkein k f).stuck = s.stuck := rfl
@[simp] theorem State.updSkein_transit (s : State) (k : Nat) (f : Skein → Skein) : (s.updSkein k f).transit = s.transit := rfl
@[simp] theorem State.updSkein_retireReq (s : State) (k : Nat) (f : Skein → Skein) : (s.updSkein k f).retireReq = s.retireReq := rfl
@[simp] theorem State.updSkein_tlb (s : State) (k : Nat) (f : Skein → Skein) : (s.updSkein k f).tlb = s.tlb := rfl
@[simp] theorem State.updSkein_oldCode (s : State) (k : Nat) (f : Skein → Skein) : (s.updSkein k f).oldCode = s.oldCode := rfl
@[simp] theorem State.updSkein_mc (s : State) (k : Nat) (f : Skein → Skein) : (s.updSkein k f).mc = s.mc := rfl
@[simp] theorem State.updSkein_slices (s : State) (k : Nat) (f : Skein → Skein) : (s.updSkein k f).slices = s.slices := rfl
@[simp] theorem State.updSkein_faultQ (s : State) (k : Nat) (f : Skein → Skein) : (s.updSkein k f).faultQ = s.faultQ := rfl
@[simp] theorem State.updSkein_l1 (s : State) (k : Nat) (f : Skein → Skein) : (s.updSkein k f).l1 = s.l1 := rfl
@[simp] theorem State.updSkein_ic (s : State) (k : Nat) (f : Skein → Skein) : (s.updSkein k f).ic = s.ic := rfl
@[simp] theorem State.updSkein_ls (s : State) (k : Nat) (f : Skein → Skein) : (s.updSkein k f).ls = s.ls := rfl
@[simp] theorem State.updSkein_lsPoison (s : State) (k : Nat) (f : Skein → Skein) : (s.updSkein k f).lsPoison = s.lsPoison := rfl
@[simp] theorem State.updSkein_segs (s : State) (k : Nat) (f : Skein → Skein) : (s.updSkein k f).segs = s.segs := rfl
@[simp] theorem State.updSkein_wcb (s : State) (k : Nat) (f : Skein → Skein) : (s.updSkein k f).wcb = s.wcb := rfl
@[simp] theorem State.updSkein_reqs (s : State) (k : Nat) (f : Skein → Skein) : (s.updSkein k f).reqs = s.reqs := rfl
@[simp] theorem State.updSkein_acqs (s : State) (k : Nat) (f : Skein → Skein) : (s.updSkein k f).acqs = s.acqs := rfl
@[simp] theorem State.updSkein_podEarly (s : State) (k : Nat) (f : Skein → Skein) : (s.updSkein k f).podEarly = s.podEarly := rfl
@[simp] theorem State.updSkein_posted (s : State) (k : Nat) (f : Skein → Skein) : (s.updSkein k f).posted = s.posted := rfl
@[simp] theorem State.updSkein_remote (s : State) (k : Nat) (f : Skein → Skein) : (s.updSkein k f).remote = s.remote := rfl
@[simp] theorem State.updSkein_podHost (s : State) (k : Nat) (f : Skein → Skein) : (s.updSkein k f).podHost = s.podHost := rfl
@[simp] theorem State.updSkein_remerr (s : State) (k : Nat) (f : Skein → Skein) : (s.updSkein k f).remerr = s.remerr := rfl
@[simp] theorem State.updSkein_relOp (s : State) (k : Nat) (f : Skein → Skein) : (s.updSkein k f).relOp = s.relOp := rfl
@[simp] theorem State.updSkein_tbq (s : State) (k : Nat) (f : Skein → Skein) : (s.updSkein k f).tbq = s.tbq := rfl
@[simp] theorem State.updSkein_tidc (s : State) (k : Nat) (f : Skein → Skein) : (s.updSkein k f).tidc = s.tidc := rfl
@[simp] theorem State.updSkein_copies (s : State) (k : Nat) (f : Skein → Skein) : (s.updSkein k f).copies = s.copies := rfl
@[simp] theorem State.updSkein_probes (s : State) (k : Nat) (f : Skein → Skein) : (s.updSkein k f).probes = s.probes := rfl
@[simp] theorem State.updSkein_tiles (s : State) (k : Nat) (f : Skein → Skein) : (s.updSkein k f).tiles = s.tiles := rfl
@[simp] theorem State.updSkein_mats (s : State) (k : Nat) (f : Skein → Skein) : (s.updSkein k f).mats = s.mats := rfl
@[simp] theorem State.updSkein_accWait (s : State) (k : Nat) (f : Skein → Skein) : (s.updSkein k f).accWait = s.accWait := rfl
@[simp] theorem State.updSkein_accFree (s : State) (k : Nat) (f : Skein → Skein) : (s.updSkein k f).accFree = s.accFree := rfl
@[simp] theorem State.updSkein_accSince (s : State) (k : Nat) (f : Skein → Skein) : (s.updSkein k f).accSince = s.accSince := rfl
@[simp] theorem State.updSkein_shadow (s : State) (k : Nat) (f : Skein → Skein) : (s.updSkein k f).shadow = s.shadow := rfl
@[simp] theorem State.updSkein_trigs (s : State) (k : Nat) (f : Skein → Skein) : (s.updSkein k f).trigs = s.trigs := rfl
@[simp] theorem State.updSkein_decks (s : State) (k : Nat) (f : Skein → Skein) : (s.updSkein k f).decks = s.decks := rfl
@[simp] theorem State.updSkein_deckOps (s : State) (k : Nat) (f : Skein → Skein) : (s.updSkein k f).deckOps = s.deckOps := rfl
@[simp] theorem State.updSkein_gslots (s : State) (k : Nat) (f : Skein → Skein) : (s.updSkein k f).gslots = s.gslots := rfl
@[simp] theorem State.updSkein_groups (s : State) (k : Nat) (f : Skein → Skein) : (s.updSkein k f).groups = s.groups := rfl
@[simp] theorem State.updSkein_calls (s : State) (k : Nat) (f : Skein → Skein) : (s.updSkein k f).calls = s.calls := rfl
@[simp] theorem State.updSkein_colHeld (s : State) (k : Nat) (f : Skein → Skein) : (s.updSkein k f).colHeld = s.colHeld := rfl
@[simp] theorem State.updSkein_images (s : State) (k : Nat) (f : Skein → Skein) : (s.updSkein k f).images = s.images := rfl
@[simp] theorem State.updSkein_eps (s : State) (k : Nat) (f : Skein → Skein) : (s.updSkein k f).eps = s.eps := rfl
@[simp] theorem State.updSkein_recvs (s : State) (k : Nat) (f : Skein → Skein) : (s.updSkein k f).recvs = s.recvs := rfl
@[simp] theorem State.updSkein_sends (s : State) (k : Nat) (f : Skein → Skein) : (s.updSkein k f).sends = s.sends := rfl
@[simp] theorem State.updSkein_uetOut (s : State) (k : Nat) (f : Skein → Skein) : (s.updSkein k f).uetOut = s.uetOut := rfl
@[simp] theorem State.updSkein_ports (s : State) (k : Nat) (f : Skein → Skein) : (s.updSkein k f).ports = s.ports := rfl
@[simp] theorem State.updSkein_away (s : State) (k : Nat) (f : Skein → Skein) : (s.updSkein k f).away = s.away := rfl
@[simp] theorem State.updSkein_mgroups (s : State) (k : Nat) (f : Skein → Skein) : (s.updSkein k f).mgroups = s.mgroups := rfl
@[simp] theorem State.updSkein_routes (s : State) (k : Nat) (f : Skein → Skein) : (s.updSkein k f).routes = s.routes := rfl
@[simp] theorem State.updSkein_detours (s : State) (k : Nat) (f : Skein → Skein) : (s.updSkein k f).detours = s.detours := rfl
@[simp] theorem State.updSkein_port23 (s : State) (k : Nat) (f : Skein → Skein) : (s.updSkein k f).port23 = s.port23 := rfl
@[simp] theorem State.updSkein_port23Ctx (s : State) (k : Nat) (f : Skein → Skein) : (s.updSkein k f).port23Ctx = s.port23Ctx := rfl
@[simp] theorem State.updSkein_merges (s : State) (k : Nat) (f : Skein → Skein) : (s.updSkein k f).merges = s.merges := rfl
@[simp] theorem State.updSkein_flowIn (s : State) (k : Nat) (f : Skein → Skein) : (s.updSkein k f).flowIn = s.flowIn := rfl
@[simp] theorem State.updSkein_flowHeld (s : State) (k : Nat) (f : Skein → Skein) : (s.updSkein k f).flowHeld = s.flowHeld := rfl
@[simp] theorem State.updSkein_dl (s : State) (k : Nat) (f : Skein → Skein) : (s.updSkein k f).dl = s.dl := rfl
@[simp] theorem State.updSkein_dlOut (s : State) (k : Nat) (f : Skein → Skein) : (s.updSkein k f).dlOut = s.dlOut := rfl
@[simp] theorem State.updSkein_dlReqs (s : State) (k : Nat) (f : Skein → Skein) : (s.updSkein k f).dlReqs = s.dlReqs := rfl
@[simp] theorem State.updSkein_flitOut (s : State) (k : Nat) (f : Skein → Skein) : (s.updSkein k f).flitOut = s.flitOut := rfl
@[simp] theorem State.updSkein_shootAt (s : State) (k : Nat) (f : Skein → Skein) : (s.updSkein k f).shootAt = s.shootAt := rfl
@[simp] theorem State.updSkein_ck (s : State) (k : Nat) (f : Skein → Skein) : (s.updSkein k f).ck = s.ck := rfl
@[simp] theorem State.updSkein_flowOut (s : State) (k : Nat) (f : Skein → Skein) : (s.updSkein k f).flowOut = s.flowOut := rfl
@[simp] theorem State.updSkein_fabOut (s : State) (k : Nat) (f : Skein → Skein) : (s.updSkein k f).fabOut = s.fabOut := rfl
@[simp] theorem State.updSkein_pcieOut (s : State) (k : Nat) (f : Skein → Skein) : (s.updSkein k f).pcieOut = s.pcieOut := rfl
@[simp] theorem State.updSkein_shoot (s : State) (k : Nat) (f : Skein → Skein) : (s.updSkein k f).shoot = s.shoot := rfl
@[simp] theorem State.updSkein_telPend (s : State) (k : Nat) (f : Skein → Skein) : (s.updSkein k f).telPend = s.telPend := rfl
@[simp] theorem State.updSkein_telLog (s : State) (k : Nat) (f : Skein → Skein) : (s.updSkein k f).telLog = s.telLog := rfl
@[simp] theorem State.updSkein_mgmt (s : State) (k : Nat) (f : Skein → Skein) : (s.updSkein k f).mgmt = s.mgmt := rfl

/-! ## State.updThread -/

@[simp] theorem State.updThread_clock (s : State) (k tid : Nat) (f : Thread → Thread) : (s.updThread k tid f).clock = s.clock := rfl
@[simp] theorem State.updThread_agenda (s : State) (k tid : Nat) (f : Thread → Thread) : (s.updThread k tid f).agenda = s.agenda := rfl
@[simp] theorem State.updThread_sel (s : State) (k tid : Nat) (f : Thread → Thread) : (s.updThread k tid f).sel = s.sel := rfl
@[simp] theorem State.updThread_stall (s : State) (k tid : Nat) (f : Thread → Thread) : (s.updThread k tid f).stall = s.stall := rfl
@[simp] theorem State.updThread_issued (s : State) (k tid : Nat) (f : Thread → Thread) : (s.updThread k tid f).issued = s.issued := rfl
@[simp] theorem State.updThread_throttled (s : State) (k tid : Nat) (f : Thread → Thread) : (s.updThread k tid f).throttled = s.throttled := rfl
@[simp] theorem State.updThread_nextOp (s : State) (k tid : Nat) (f : Thread → Thread) : (s.updThread k tid f).nextOp = s.nextOp := rfl
@[simp] theorem State.updThread_free (s : State) (k tid : Nat) (f : Thread → Thread) : (s.updThread k tid f).free = s.free := rfl
@[simp] theorem State.updThread_plies (s : State) (k tid : Nat) (f : Thread → Thread) : (s.updThread k tid f).plies = s.plies := rfl
@[simp] theorem State.updThread_gone (s : State) (k tid : Nat) (f : Thread → Thread) : (s.updThread k tid f).gone = s.gone := rfl
@[simp] theorem State.updThread_ctxs (s : State) (k tid : Nat) (f : Thread → Thread) : (s.updThread k tid f).ctxs = s.ctxs := rfl
@[simp] theorem State.updThread_parts (s : State) (k tid : Nat) (f : Thread → Thread) : (s.updThread k tid f).parts = s.parts := rfl
@[simp] theorem State.updThread_lent (s : State) (k tid : Nat) (f : Thread → Thread) : (s.updThread k tid f).lent = s.lent := rfl
@[simp] theorem State.updThread_saved (s : State) (k tid : Nat) (f : Thread → Thread) : (s.updThread k tid f).saved = s.saved := rfl
@[simp] theorem State.updThread_quota (s : State) (k tid : Nat) (f : Thread → Thread) : (s.updThread k tid f).quota = s.quota := rfl
@[simp] theorem State.updThread_hbm (s : State) (k tid : Nat) (f : Thread → Thread) : (s.updThread k tid f).hbm = s.hbm := rfl
@[simp] theorem State.updThread_chk (s : State) (k tid : Nat) (f : Thread → Thread) : (s.updThread k tid f).chk = s.chk := rfl
@[simp] theorem State.updThread_stuck (s : State) (k tid : Nat) (f : Thread → Thread) : (s.updThread k tid f).stuck = s.stuck := rfl
@[simp] theorem State.updThread_transit (s : State) (k tid : Nat) (f : Thread → Thread) : (s.updThread k tid f).transit = s.transit := rfl
@[simp] theorem State.updThread_retireReq (s : State) (k tid : Nat) (f : Thread → Thread) : (s.updThread k tid f).retireReq = s.retireReq := rfl
@[simp] theorem State.updThread_tlb (s : State) (k tid : Nat) (f : Thread → Thread) : (s.updThread k tid f).tlb = s.tlb := rfl
@[simp] theorem State.updThread_oldCode (s : State) (k tid : Nat) (f : Thread → Thread) : (s.updThread k tid f).oldCode = s.oldCode := rfl
@[simp] theorem State.updThread_mc (s : State) (k tid : Nat) (f : Thread → Thread) : (s.updThread k tid f).mc = s.mc := rfl
@[simp] theorem State.updThread_slices (s : State) (k tid : Nat) (f : Thread → Thread) : (s.updThread k tid f).slices = s.slices := rfl
@[simp] theorem State.updThread_faultQ (s : State) (k tid : Nat) (f : Thread → Thread) : (s.updThread k tid f).faultQ = s.faultQ := rfl
@[simp] theorem State.updThread_l1 (s : State) (k tid : Nat) (f : Thread → Thread) : (s.updThread k tid f).l1 = s.l1 := rfl
@[simp] theorem State.updThread_ic (s : State) (k tid : Nat) (f : Thread → Thread) : (s.updThread k tid f).ic = s.ic := rfl
@[simp] theorem State.updThread_ls (s : State) (k tid : Nat) (f : Thread → Thread) : (s.updThread k tid f).ls = s.ls := rfl
@[simp] theorem State.updThread_lsPoison (s : State) (k tid : Nat) (f : Thread → Thread) : (s.updThread k tid f).lsPoison = s.lsPoison := rfl
@[simp] theorem State.updThread_segs (s : State) (k tid : Nat) (f : Thread → Thread) : (s.updThread k tid f).segs = s.segs := rfl
@[simp] theorem State.updThread_wcb (s : State) (k tid : Nat) (f : Thread → Thread) : (s.updThread k tid f).wcb = s.wcb := rfl
@[simp] theorem State.updThread_reqs (s : State) (k tid : Nat) (f : Thread → Thread) : (s.updThread k tid f).reqs = s.reqs := rfl
@[simp] theorem State.updThread_acqs (s : State) (k tid : Nat) (f : Thread → Thread) : (s.updThread k tid f).acqs = s.acqs := rfl
@[simp] theorem State.updThread_podEarly (s : State) (k tid : Nat) (f : Thread → Thread) : (s.updThread k tid f).podEarly = s.podEarly := rfl
@[simp] theorem State.updThread_posted (s : State) (k tid : Nat) (f : Thread → Thread) : (s.updThread k tid f).posted = s.posted := rfl
@[simp] theorem State.updThread_remote (s : State) (k tid : Nat) (f : Thread → Thread) : (s.updThread k tid f).remote = s.remote := rfl
@[simp] theorem State.updThread_podHost (s : State) (k tid : Nat) (f : Thread → Thread) : (s.updThread k tid f).podHost = s.podHost := rfl
@[simp] theorem State.updThread_remerr (s : State) (k tid : Nat) (f : Thread → Thread) : (s.updThread k tid f).remerr = s.remerr := rfl
@[simp] theorem State.updThread_relOp (s : State) (k tid : Nat) (f : Thread → Thread) : (s.updThread k tid f).relOp = s.relOp := rfl
@[simp] theorem State.updThread_tbq (s : State) (k tid : Nat) (f : Thread → Thread) : (s.updThread k tid f).tbq = s.tbq := rfl
@[simp] theorem State.updThread_tidc (s : State) (k tid : Nat) (f : Thread → Thread) : (s.updThread k tid f).tidc = s.tidc := rfl
@[simp] theorem State.updThread_copies (s : State) (k tid : Nat) (f : Thread → Thread) : (s.updThread k tid f).copies = s.copies := rfl
@[simp] theorem State.updThread_probes (s : State) (k tid : Nat) (f : Thread → Thread) : (s.updThread k tid f).probes = s.probes := rfl
@[simp] theorem State.updThread_tiles (s : State) (k tid : Nat) (f : Thread → Thread) : (s.updThread k tid f).tiles = s.tiles := rfl
@[simp] theorem State.updThread_mats (s : State) (k tid : Nat) (f : Thread → Thread) : (s.updThread k tid f).mats = s.mats := rfl
@[simp] theorem State.updThread_accWait (s : State) (k tid : Nat) (f : Thread → Thread) : (s.updThread k tid f).accWait = s.accWait := rfl
@[simp] theorem State.updThread_accFree (s : State) (k tid : Nat) (f : Thread → Thread) : (s.updThread k tid f).accFree = s.accFree := rfl
@[simp] theorem State.updThread_accSince (s : State) (k tid : Nat) (f : Thread → Thread) : (s.updThread k tid f).accSince = s.accSince := rfl
@[simp] theorem State.updThread_shadow (s : State) (k tid : Nat) (f : Thread → Thread) : (s.updThread k tid f).shadow = s.shadow := rfl
@[simp] theorem State.updThread_trigs (s : State) (k tid : Nat) (f : Thread → Thread) : (s.updThread k tid f).trigs = s.trigs := rfl
@[simp] theorem State.updThread_decks (s : State) (k tid : Nat) (f : Thread → Thread) : (s.updThread k tid f).decks = s.decks := rfl
@[simp] theorem State.updThread_deckOps (s : State) (k tid : Nat) (f : Thread → Thread) : (s.updThread k tid f).deckOps = s.deckOps := rfl
@[simp] theorem State.updThread_gslots (s : State) (k tid : Nat) (f : Thread → Thread) : (s.updThread k tid f).gslots = s.gslots := rfl
@[simp] theorem State.updThread_groups (s : State) (k tid : Nat) (f : Thread → Thread) : (s.updThread k tid f).groups = s.groups := rfl
@[simp] theorem State.updThread_calls (s : State) (k tid : Nat) (f : Thread → Thread) : (s.updThread k tid f).calls = s.calls := rfl
@[simp] theorem State.updThread_colHeld (s : State) (k tid : Nat) (f : Thread → Thread) : (s.updThread k tid f).colHeld = s.colHeld := rfl
@[simp] theorem State.updThread_images (s : State) (k tid : Nat) (f : Thread → Thread) : (s.updThread k tid f).images = s.images := rfl
@[simp] theorem State.updThread_eps (s : State) (k tid : Nat) (f : Thread → Thread) : (s.updThread k tid f).eps = s.eps := rfl
@[simp] theorem State.updThread_recvs (s : State) (k tid : Nat) (f : Thread → Thread) : (s.updThread k tid f).recvs = s.recvs := rfl
@[simp] theorem State.updThread_sends (s : State) (k tid : Nat) (f : Thread → Thread) : (s.updThread k tid f).sends = s.sends := rfl
@[simp] theorem State.updThread_uetOut (s : State) (k tid : Nat) (f : Thread → Thread) : (s.updThread k tid f).uetOut = s.uetOut := rfl
@[simp] theorem State.updThread_ports (s : State) (k tid : Nat) (f : Thread → Thread) : (s.updThread k tid f).ports = s.ports := rfl
@[simp] theorem State.updThread_away (s : State) (k tid : Nat) (f : Thread → Thread) : (s.updThread k tid f).away = s.away := rfl
@[simp] theorem State.updThread_mgroups (s : State) (k tid : Nat) (f : Thread → Thread) : (s.updThread k tid f).mgroups = s.mgroups := rfl
@[simp] theorem State.updThread_routes (s : State) (k tid : Nat) (f : Thread → Thread) : (s.updThread k tid f).routes = s.routes := rfl
@[simp] theorem State.updThread_detours (s : State) (k tid : Nat) (f : Thread → Thread) : (s.updThread k tid f).detours = s.detours := rfl
@[simp] theorem State.updThread_port23 (s : State) (k tid : Nat) (f : Thread → Thread) : (s.updThread k tid f).port23 = s.port23 := rfl
@[simp] theorem State.updThread_port23Ctx (s : State) (k tid : Nat) (f : Thread → Thread) : (s.updThread k tid f).port23Ctx = s.port23Ctx := rfl
@[simp] theorem State.updThread_merges (s : State) (k tid : Nat) (f : Thread → Thread) : (s.updThread k tid f).merges = s.merges := rfl
@[simp] theorem State.updThread_flowIn (s : State) (k tid : Nat) (f : Thread → Thread) : (s.updThread k tid f).flowIn = s.flowIn := rfl
@[simp] theorem State.updThread_flowHeld (s : State) (k tid : Nat) (f : Thread → Thread) : (s.updThread k tid f).flowHeld = s.flowHeld := rfl
@[simp] theorem State.updThread_dl (s : State) (k tid : Nat) (f : Thread → Thread) : (s.updThread k tid f).dl = s.dl := rfl
@[simp] theorem State.updThread_dlOut (s : State) (k tid : Nat) (f : Thread → Thread) : (s.updThread k tid f).dlOut = s.dlOut := rfl
@[simp] theorem State.updThread_dlReqs (s : State) (k tid : Nat) (f : Thread → Thread) : (s.updThread k tid f).dlReqs = s.dlReqs := rfl
@[simp] theorem State.updThread_flitOut (s : State) (k tid : Nat) (f : Thread → Thread) : (s.updThread k tid f).flitOut = s.flitOut := rfl
@[simp] theorem State.updThread_shootAt (s : State) (k tid : Nat) (f : Thread → Thread) : (s.updThread k tid f).shootAt = s.shootAt := rfl
@[simp] theorem State.updThread_ck (s : State) (k tid : Nat) (f : Thread → Thread) : (s.updThread k tid f).ck = s.ck := rfl
@[simp] theorem State.updThread_flowOut (s : State) (k tid : Nat) (f : Thread → Thread) : (s.updThread k tid f).flowOut = s.flowOut := rfl
@[simp] theorem State.updThread_fabOut (s : State) (k tid : Nat) (f : Thread → Thread) : (s.updThread k tid f).fabOut = s.fabOut := rfl
@[simp] theorem State.updThread_pcieOut (s : State) (k tid : Nat) (f : Thread → Thread) : (s.updThread k tid f).pcieOut = s.pcieOut := rfl
@[simp] theorem State.updThread_shoot (s : State) (k tid : Nat) (f : Thread → Thread) : (s.updThread k tid f).shoot = s.shoot := rfl
@[simp] theorem State.updThread_telPend (s : State) (k tid : Nat) (f : Thread → Thread) : (s.updThread k tid f).telPend = s.telPend := rfl
@[simp] theorem State.updThread_telLog (s : State) (k tid : Nat) (f : Thread → Thread) : (s.updThread k tid f).telLog = s.telLog := rfl
@[simp] theorem State.updThread_mgmt (s : State) (k tid : Nat) (f : Thread → Thread) : (s.updThread k tid f).mgmt = s.mgmt := rfl

/-! ## State.updThreads -/

@[simp] theorem State.updThreads_clock (s : State) (k : Nat) (tids : List Nat) (f : Nat → Thread → Thread) : (s.updThreads k tids f).clock = s.clock := rfl
@[simp] theorem State.updThreads_agenda (s : State) (k : Nat) (tids : List Nat) (f : Nat → Thread → Thread) : (s.updThreads k tids f).agenda = s.agenda := rfl
@[simp] theorem State.updThreads_sel (s : State) (k : Nat) (tids : List Nat) (f : Nat → Thread → Thread) : (s.updThreads k tids f).sel = s.sel := rfl
@[simp] theorem State.updThreads_stall (s : State) (k : Nat) (tids : List Nat) (f : Nat → Thread → Thread) : (s.updThreads k tids f).stall = s.stall := rfl
@[simp] theorem State.updThreads_issued (s : State) (k : Nat) (tids : List Nat) (f : Nat → Thread → Thread) : (s.updThreads k tids f).issued = s.issued := rfl
@[simp] theorem State.updThreads_throttled (s : State) (k : Nat) (tids : List Nat) (f : Nat → Thread → Thread) : (s.updThreads k tids f).throttled = s.throttled := rfl
@[simp] theorem State.updThreads_nextOp (s : State) (k : Nat) (tids : List Nat) (f : Nat → Thread → Thread) : (s.updThreads k tids f).nextOp = s.nextOp := rfl
@[simp] theorem State.updThreads_free (s : State) (k : Nat) (tids : List Nat) (f : Nat → Thread → Thread) : (s.updThreads k tids f).free = s.free := rfl
@[simp] theorem State.updThreads_plies (s : State) (k : Nat) (tids : List Nat) (f : Nat → Thread → Thread) : (s.updThreads k tids f).plies = s.plies := rfl
@[simp] theorem State.updThreads_gone (s : State) (k : Nat) (tids : List Nat) (f : Nat → Thread → Thread) : (s.updThreads k tids f).gone = s.gone := rfl
@[simp] theorem State.updThreads_ctxs (s : State) (k : Nat) (tids : List Nat) (f : Nat → Thread → Thread) : (s.updThreads k tids f).ctxs = s.ctxs := rfl
@[simp] theorem State.updThreads_parts (s : State) (k : Nat) (tids : List Nat) (f : Nat → Thread → Thread) : (s.updThreads k tids f).parts = s.parts := rfl
@[simp] theorem State.updThreads_lent (s : State) (k : Nat) (tids : List Nat) (f : Nat → Thread → Thread) : (s.updThreads k tids f).lent = s.lent := rfl
@[simp] theorem State.updThreads_saved (s : State) (k : Nat) (tids : List Nat) (f : Nat → Thread → Thread) : (s.updThreads k tids f).saved = s.saved := rfl
@[simp] theorem State.updThreads_quota (s : State) (k : Nat) (tids : List Nat) (f : Nat → Thread → Thread) : (s.updThreads k tids f).quota = s.quota := rfl
@[simp] theorem State.updThreads_hbm (s : State) (k : Nat) (tids : List Nat) (f : Nat → Thread → Thread) : (s.updThreads k tids f).hbm = s.hbm := rfl
@[simp] theorem State.updThreads_chk (s : State) (k : Nat) (tids : List Nat) (f : Nat → Thread → Thread) : (s.updThreads k tids f).chk = s.chk := rfl
@[simp] theorem State.updThreads_stuck (s : State) (k : Nat) (tids : List Nat) (f : Nat → Thread → Thread) : (s.updThreads k tids f).stuck = s.stuck := rfl
@[simp] theorem State.updThreads_transit (s : State) (k : Nat) (tids : List Nat) (f : Nat → Thread → Thread) : (s.updThreads k tids f).transit = s.transit := rfl
@[simp] theorem State.updThreads_retireReq (s : State) (k : Nat) (tids : List Nat) (f : Nat → Thread → Thread) : (s.updThreads k tids f).retireReq = s.retireReq := rfl
@[simp] theorem State.updThreads_tlb (s : State) (k : Nat) (tids : List Nat) (f : Nat → Thread → Thread) : (s.updThreads k tids f).tlb = s.tlb := rfl
@[simp] theorem State.updThreads_oldCode (s : State) (k : Nat) (tids : List Nat) (f : Nat → Thread → Thread) : (s.updThreads k tids f).oldCode = s.oldCode := rfl
@[simp] theorem State.updThreads_mc (s : State) (k : Nat) (tids : List Nat) (f : Nat → Thread → Thread) : (s.updThreads k tids f).mc = s.mc := rfl
@[simp] theorem State.updThreads_slices (s : State) (k : Nat) (tids : List Nat) (f : Nat → Thread → Thread) : (s.updThreads k tids f).slices = s.slices := rfl
@[simp] theorem State.updThreads_faultQ (s : State) (k : Nat) (tids : List Nat) (f : Nat → Thread → Thread) : (s.updThreads k tids f).faultQ = s.faultQ := rfl
@[simp] theorem State.updThreads_l1 (s : State) (k : Nat) (tids : List Nat) (f : Nat → Thread → Thread) : (s.updThreads k tids f).l1 = s.l1 := rfl
@[simp] theorem State.updThreads_ic (s : State) (k : Nat) (tids : List Nat) (f : Nat → Thread → Thread) : (s.updThreads k tids f).ic = s.ic := rfl
@[simp] theorem State.updThreads_ls (s : State) (k : Nat) (tids : List Nat) (f : Nat → Thread → Thread) : (s.updThreads k tids f).ls = s.ls := rfl
@[simp] theorem State.updThreads_lsPoison (s : State) (k : Nat) (tids : List Nat) (f : Nat → Thread → Thread) : (s.updThreads k tids f).lsPoison = s.lsPoison := rfl
@[simp] theorem State.updThreads_segs (s : State) (k : Nat) (tids : List Nat) (f : Nat → Thread → Thread) : (s.updThreads k tids f).segs = s.segs := rfl
@[simp] theorem State.updThreads_wcb (s : State) (k : Nat) (tids : List Nat) (f : Nat → Thread → Thread) : (s.updThreads k tids f).wcb = s.wcb := rfl
@[simp] theorem State.updThreads_reqs (s : State) (k : Nat) (tids : List Nat) (f : Nat → Thread → Thread) : (s.updThreads k tids f).reqs = s.reqs := rfl
@[simp] theorem State.updThreads_acqs (s : State) (k : Nat) (tids : List Nat) (f : Nat → Thread → Thread) : (s.updThreads k tids f).acqs = s.acqs := rfl
@[simp] theorem State.updThreads_podEarly (s : State) (k : Nat) (tids : List Nat) (f : Nat → Thread → Thread) : (s.updThreads k tids f).podEarly = s.podEarly := rfl
@[simp] theorem State.updThreads_posted (s : State) (k : Nat) (tids : List Nat) (f : Nat → Thread → Thread) : (s.updThreads k tids f).posted = s.posted := rfl
@[simp] theorem State.updThreads_remote (s : State) (k : Nat) (tids : List Nat) (f : Nat → Thread → Thread) : (s.updThreads k tids f).remote = s.remote := rfl
@[simp] theorem State.updThreads_podHost (s : State) (k : Nat) (tids : List Nat) (f : Nat → Thread → Thread) : (s.updThreads k tids f).podHost = s.podHost := rfl
@[simp] theorem State.updThreads_remerr (s : State) (k : Nat) (tids : List Nat) (f : Nat → Thread → Thread) : (s.updThreads k tids f).remerr = s.remerr := rfl
@[simp] theorem State.updThreads_relOp (s : State) (k : Nat) (tids : List Nat) (f : Nat → Thread → Thread) : (s.updThreads k tids f).relOp = s.relOp := rfl
@[simp] theorem State.updThreads_tbq (s : State) (k : Nat) (tids : List Nat) (f : Nat → Thread → Thread) : (s.updThreads k tids f).tbq = s.tbq := rfl
@[simp] theorem State.updThreads_tidc (s : State) (k : Nat) (tids : List Nat) (f : Nat → Thread → Thread) : (s.updThreads k tids f).tidc = s.tidc := rfl
@[simp] theorem State.updThreads_copies (s : State) (k : Nat) (tids : List Nat) (f : Nat → Thread → Thread) : (s.updThreads k tids f).copies = s.copies := rfl
@[simp] theorem State.updThreads_probes (s : State) (k : Nat) (tids : List Nat) (f : Nat → Thread → Thread) : (s.updThreads k tids f).probes = s.probes := rfl
@[simp] theorem State.updThreads_tiles (s : State) (k : Nat) (tids : List Nat) (f : Nat → Thread → Thread) : (s.updThreads k tids f).tiles = s.tiles := rfl
@[simp] theorem State.updThreads_mats (s : State) (k : Nat) (tids : List Nat) (f : Nat → Thread → Thread) : (s.updThreads k tids f).mats = s.mats := rfl
@[simp] theorem State.updThreads_accWait (s : State) (k : Nat) (tids : List Nat) (f : Nat → Thread → Thread) : (s.updThreads k tids f).accWait = s.accWait := rfl
@[simp] theorem State.updThreads_accFree (s : State) (k : Nat) (tids : List Nat) (f : Nat → Thread → Thread) : (s.updThreads k tids f).accFree = s.accFree := rfl
@[simp] theorem State.updThreads_accSince (s : State) (k : Nat) (tids : List Nat) (f : Nat → Thread → Thread) : (s.updThreads k tids f).accSince = s.accSince := rfl
@[simp] theorem State.updThreads_shadow (s : State) (k : Nat) (tids : List Nat) (f : Nat → Thread → Thread) : (s.updThreads k tids f).shadow = s.shadow := rfl
@[simp] theorem State.updThreads_trigs (s : State) (k : Nat) (tids : List Nat) (f : Nat → Thread → Thread) : (s.updThreads k tids f).trigs = s.trigs := rfl
@[simp] theorem State.updThreads_decks (s : State) (k : Nat) (tids : List Nat) (f : Nat → Thread → Thread) : (s.updThreads k tids f).decks = s.decks := rfl
@[simp] theorem State.updThreads_deckOps (s : State) (k : Nat) (tids : List Nat) (f : Nat → Thread → Thread) : (s.updThreads k tids f).deckOps = s.deckOps := rfl
@[simp] theorem State.updThreads_gslots (s : State) (k : Nat) (tids : List Nat) (f : Nat → Thread → Thread) : (s.updThreads k tids f).gslots = s.gslots := rfl
@[simp] theorem State.updThreads_groups (s : State) (k : Nat) (tids : List Nat) (f : Nat → Thread → Thread) : (s.updThreads k tids f).groups = s.groups := rfl
@[simp] theorem State.updThreads_calls (s : State) (k : Nat) (tids : List Nat) (f : Nat → Thread → Thread) : (s.updThreads k tids f).calls = s.calls := rfl
@[simp] theorem State.updThreads_colHeld (s : State) (k : Nat) (tids : List Nat) (f : Nat → Thread → Thread) : (s.updThreads k tids f).colHeld = s.colHeld := rfl
@[simp] theorem State.updThreads_images (s : State) (k : Nat) (tids : List Nat) (f : Nat → Thread → Thread) : (s.updThreads k tids f).images = s.images := rfl
@[simp] theorem State.updThreads_eps (s : State) (k : Nat) (tids : List Nat) (f : Nat → Thread → Thread) : (s.updThreads k tids f).eps = s.eps := rfl
@[simp] theorem State.updThreads_recvs (s : State) (k : Nat) (tids : List Nat) (f : Nat → Thread → Thread) : (s.updThreads k tids f).recvs = s.recvs := rfl
@[simp] theorem State.updThreads_sends (s : State) (k : Nat) (tids : List Nat) (f : Nat → Thread → Thread) : (s.updThreads k tids f).sends = s.sends := rfl
@[simp] theorem State.updThreads_uetOut (s : State) (k : Nat) (tids : List Nat) (f : Nat → Thread → Thread) : (s.updThreads k tids f).uetOut = s.uetOut := rfl
@[simp] theorem State.updThreads_ports (s : State) (k : Nat) (tids : List Nat) (f : Nat → Thread → Thread) : (s.updThreads k tids f).ports = s.ports := rfl
@[simp] theorem State.updThreads_away (s : State) (k : Nat) (tids : List Nat) (f : Nat → Thread → Thread) : (s.updThreads k tids f).away = s.away := rfl
@[simp] theorem State.updThreads_mgroups (s : State) (k : Nat) (tids : List Nat) (f : Nat → Thread → Thread) : (s.updThreads k tids f).mgroups = s.mgroups := rfl
@[simp] theorem State.updThreads_routes (s : State) (k : Nat) (tids : List Nat) (f : Nat → Thread → Thread) : (s.updThreads k tids f).routes = s.routes := rfl
@[simp] theorem State.updThreads_detours (s : State) (k : Nat) (tids : List Nat) (f : Nat → Thread → Thread) : (s.updThreads k tids f).detours = s.detours := rfl
@[simp] theorem State.updThreads_port23 (s : State) (k : Nat) (tids : List Nat) (f : Nat → Thread → Thread) : (s.updThreads k tids f).port23 = s.port23 := rfl
@[simp] theorem State.updThreads_port23Ctx (s : State) (k : Nat) (tids : List Nat) (f : Nat → Thread → Thread) : (s.updThreads k tids f).port23Ctx = s.port23Ctx := rfl
@[simp] theorem State.updThreads_merges (s : State) (k : Nat) (tids : List Nat) (f : Nat → Thread → Thread) : (s.updThreads k tids f).merges = s.merges := rfl
@[simp] theorem State.updThreads_flowIn (s : State) (k : Nat) (tids : List Nat) (f : Nat → Thread → Thread) : (s.updThreads k tids f).flowIn = s.flowIn := rfl
@[simp] theorem State.updThreads_flowHeld (s : State) (k : Nat) (tids : List Nat) (f : Nat → Thread → Thread) : (s.updThreads k tids f).flowHeld = s.flowHeld := rfl
@[simp] theorem State.updThreads_dl (s : State) (k : Nat) (tids : List Nat) (f : Nat → Thread → Thread) : (s.updThreads k tids f).dl = s.dl := rfl
@[simp] theorem State.updThreads_dlOut (s : State) (k : Nat) (tids : List Nat) (f : Nat → Thread → Thread) : (s.updThreads k tids f).dlOut = s.dlOut := rfl
@[simp] theorem State.updThreads_dlReqs (s : State) (k : Nat) (tids : List Nat) (f : Nat → Thread → Thread) : (s.updThreads k tids f).dlReqs = s.dlReqs := rfl
@[simp] theorem State.updThreads_flitOut (s : State) (k : Nat) (tids : List Nat) (f : Nat → Thread → Thread) : (s.updThreads k tids f).flitOut = s.flitOut := rfl
@[simp] theorem State.updThreads_shootAt (s : State) (k : Nat) (tids : List Nat) (f : Nat → Thread → Thread) : (s.updThreads k tids f).shootAt = s.shootAt := rfl
@[simp] theorem State.updThreads_ck (s : State) (k : Nat) (tids : List Nat) (f : Nat → Thread → Thread) : (s.updThreads k tids f).ck = s.ck := rfl
@[simp] theorem State.updThreads_flowOut (s : State) (k : Nat) (tids : List Nat) (f : Nat → Thread → Thread) : (s.updThreads k tids f).flowOut = s.flowOut := rfl
@[simp] theorem State.updThreads_fabOut (s : State) (k : Nat) (tids : List Nat) (f : Nat → Thread → Thread) : (s.updThreads k tids f).fabOut = s.fabOut := rfl
@[simp] theorem State.updThreads_pcieOut (s : State) (k : Nat) (tids : List Nat) (f : Nat → Thread → Thread) : (s.updThreads k tids f).pcieOut = s.pcieOut := rfl
@[simp] theorem State.updThreads_shoot (s : State) (k : Nat) (tids : List Nat) (f : Nat → Thread → Thread) : (s.updThreads k tids f).shoot = s.shoot := rfl
@[simp] theorem State.updThreads_telPend (s : State) (k : Nat) (tids : List Nat) (f : Nat → Thread → Thread) : (s.updThreads k tids f).telPend = s.telPend := rfl
@[simp] theorem State.updThreads_telLog (s : State) (k : Nat) (tids : List Nat) (f : Nat → Thread → Thread) : (s.updThreads k tids f).telLog = s.telLog := rfl
@[simp] theorem State.updThreads_mgmt (s : State) (k : Nat) (tids : List Nat) (f : Nat → Thread → Thread) : (s.updThreads k tids f).mgmt = s.mgmt := rfl

/-! ## State.setPc -/

@[simp] theorem State.setPc_clock (s : State) (p : Ply) (m : Mask) (pc : Addr) : (s.setPc p m pc).clock = s.clock := rfl
@[simp] theorem State.setPc_agenda (s : State) (p : Ply) (m : Mask) (pc : Addr) : (s.setPc p m pc).agenda = s.agenda := rfl
@[simp] theorem State.setPc_sel (s : State) (p : Ply) (m : Mask) (pc : Addr) : (s.setPc p m pc).sel = s.sel := rfl
@[simp] theorem State.setPc_stall (s : State) (p : Ply) (m : Mask) (pc : Addr) : (s.setPc p m pc).stall = s.stall := rfl
@[simp] theorem State.setPc_issued (s : State) (p : Ply) (m : Mask) (pc : Addr) : (s.setPc p m pc).issued = s.issued := rfl
@[simp] theorem State.setPc_throttled (s : State) (p : Ply) (m : Mask) (pc : Addr) : (s.setPc p m pc).throttled = s.throttled := rfl
@[simp] theorem State.setPc_nextOp (s : State) (p : Ply) (m : Mask) (pc : Addr) : (s.setPc p m pc).nextOp = s.nextOp := rfl
@[simp] theorem State.setPc_free (s : State) (p : Ply) (m : Mask) (pc : Addr) : (s.setPc p m pc).free = s.free := rfl
@[simp] theorem State.setPc_plies (s : State) (p : Ply) (m : Mask) (pc : Addr) : (s.setPc p m pc).plies = s.plies := rfl
@[simp] theorem State.setPc_gone (s : State) (p : Ply) (m : Mask) (pc : Addr) : (s.setPc p m pc).gone = s.gone := rfl
@[simp] theorem State.setPc_ctxs (s : State) (p : Ply) (m : Mask) (pc : Addr) : (s.setPc p m pc).ctxs = s.ctxs := rfl
@[simp] theorem State.setPc_parts (s : State) (p : Ply) (m : Mask) (pc : Addr) : (s.setPc p m pc).parts = s.parts := rfl
@[simp] theorem State.setPc_lent (s : State) (p : Ply) (m : Mask) (pc : Addr) : (s.setPc p m pc).lent = s.lent := rfl
@[simp] theorem State.setPc_saved (s : State) (p : Ply) (m : Mask) (pc : Addr) : (s.setPc p m pc).saved = s.saved := rfl
@[simp] theorem State.setPc_quota (s : State) (p : Ply) (m : Mask) (pc : Addr) : (s.setPc p m pc).quota = s.quota := rfl
@[simp] theorem State.setPc_hbm (s : State) (p : Ply) (m : Mask) (pc : Addr) : (s.setPc p m pc).hbm = s.hbm := rfl
@[simp] theorem State.setPc_chk (s : State) (p : Ply) (m : Mask) (pc : Addr) : (s.setPc p m pc).chk = s.chk := rfl
@[simp] theorem State.setPc_stuck (s : State) (p : Ply) (m : Mask) (pc : Addr) : (s.setPc p m pc).stuck = s.stuck := rfl
@[simp] theorem State.setPc_transit (s : State) (p : Ply) (m : Mask) (pc : Addr) : (s.setPc p m pc).transit = s.transit := rfl
@[simp] theorem State.setPc_retireReq (s : State) (p : Ply) (m : Mask) (pc : Addr) : (s.setPc p m pc).retireReq = s.retireReq := rfl
@[simp] theorem State.setPc_tlb (s : State) (p : Ply) (m : Mask) (pc : Addr) : (s.setPc p m pc).tlb = s.tlb := rfl
@[simp] theorem State.setPc_oldCode (s : State) (p : Ply) (m : Mask) (pc : Addr) : (s.setPc p m pc).oldCode = s.oldCode := rfl
@[simp] theorem State.setPc_mc (s : State) (p : Ply) (m : Mask) (pc : Addr) : (s.setPc p m pc).mc = s.mc := rfl
@[simp] theorem State.setPc_slices (s : State) (p : Ply) (m : Mask) (pc : Addr) : (s.setPc p m pc).slices = s.slices := rfl
@[simp] theorem State.setPc_faultQ (s : State) (p : Ply) (m : Mask) (pc : Addr) : (s.setPc p m pc).faultQ = s.faultQ := rfl
@[simp] theorem State.setPc_l1 (s : State) (p : Ply) (m : Mask) (pc : Addr) : (s.setPc p m pc).l1 = s.l1 := rfl
@[simp] theorem State.setPc_ic (s : State) (p : Ply) (m : Mask) (pc : Addr) : (s.setPc p m pc).ic = s.ic := rfl
@[simp] theorem State.setPc_ls (s : State) (p : Ply) (m : Mask) (pc : Addr) : (s.setPc p m pc).ls = s.ls := rfl
@[simp] theorem State.setPc_lsPoison (s : State) (p : Ply) (m : Mask) (pc : Addr) : (s.setPc p m pc).lsPoison = s.lsPoison := rfl
@[simp] theorem State.setPc_segs (s : State) (p : Ply) (m : Mask) (pc : Addr) : (s.setPc p m pc).segs = s.segs := rfl
@[simp] theorem State.setPc_wcb (s : State) (p : Ply) (m : Mask) (pc : Addr) : (s.setPc p m pc).wcb = s.wcb := rfl
@[simp] theorem State.setPc_reqs (s : State) (p : Ply) (m : Mask) (pc : Addr) : (s.setPc p m pc).reqs = s.reqs := rfl
@[simp] theorem State.setPc_acqs (s : State) (p : Ply) (m : Mask) (pc : Addr) : (s.setPc p m pc).acqs = s.acqs := rfl
@[simp] theorem State.setPc_podEarly (s : State) (p : Ply) (m : Mask) (pc : Addr) : (s.setPc p m pc).podEarly = s.podEarly := rfl
@[simp] theorem State.setPc_posted (s : State) (p : Ply) (m : Mask) (pc : Addr) : (s.setPc p m pc).posted = s.posted := rfl
@[simp] theorem State.setPc_remote (s : State) (p : Ply) (m : Mask) (pc : Addr) : (s.setPc p m pc).remote = s.remote := rfl
@[simp] theorem State.setPc_podHost (s : State) (p : Ply) (m : Mask) (pc : Addr) : (s.setPc p m pc).podHost = s.podHost := rfl
@[simp] theorem State.setPc_remerr (s : State) (p : Ply) (m : Mask) (pc : Addr) : (s.setPc p m pc).remerr = s.remerr := rfl
@[simp] theorem State.setPc_relOp (s : State) (p : Ply) (m : Mask) (pc : Addr) : (s.setPc p m pc).relOp = s.relOp := rfl
@[simp] theorem State.setPc_tbq (s : State) (p : Ply) (m : Mask) (pc : Addr) : (s.setPc p m pc).tbq = s.tbq := rfl
@[simp] theorem State.setPc_tidc (s : State) (p : Ply) (m : Mask) (pc : Addr) : (s.setPc p m pc).tidc = s.tidc := rfl
@[simp] theorem State.setPc_copies (s : State) (p : Ply) (m : Mask) (pc : Addr) : (s.setPc p m pc).copies = s.copies := rfl
@[simp] theorem State.setPc_probes (s : State) (p : Ply) (m : Mask) (pc : Addr) : (s.setPc p m pc).probes = s.probes := rfl
@[simp] theorem State.setPc_tiles (s : State) (p : Ply) (m : Mask) (pc : Addr) : (s.setPc p m pc).tiles = s.tiles := rfl
@[simp] theorem State.setPc_mats (s : State) (p : Ply) (m : Mask) (pc : Addr) : (s.setPc p m pc).mats = s.mats := rfl
@[simp] theorem State.setPc_accWait (s : State) (p : Ply) (m : Mask) (pc : Addr) : (s.setPc p m pc).accWait = s.accWait := rfl
@[simp] theorem State.setPc_accFree (s : State) (p : Ply) (m : Mask) (pc : Addr) : (s.setPc p m pc).accFree = s.accFree := rfl
@[simp] theorem State.setPc_accSince (s : State) (p : Ply) (m : Mask) (pc : Addr) : (s.setPc p m pc).accSince = s.accSince := rfl
@[simp] theorem State.setPc_shadow (s : State) (p : Ply) (m : Mask) (pc : Addr) : (s.setPc p m pc).shadow = s.shadow := rfl
@[simp] theorem State.setPc_trigs (s : State) (p : Ply) (m : Mask) (pc : Addr) : (s.setPc p m pc).trigs = s.trigs := rfl
@[simp] theorem State.setPc_decks (s : State) (p : Ply) (m : Mask) (pc : Addr) : (s.setPc p m pc).decks = s.decks := rfl
@[simp] theorem State.setPc_deckOps (s : State) (p : Ply) (m : Mask) (pc : Addr) : (s.setPc p m pc).deckOps = s.deckOps := rfl
@[simp] theorem State.setPc_gslots (s : State) (p : Ply) (m : Mask) (pc : Addr) : (s.setPc p m pc).gslots = s.gslots := rfl
@[simp] theorem State.setPc_groups (s : State) (p : Ply) (m : Mask) (pc : Addr) : (s.setPc p m pc).groups = s.groups := rfl
@[simp] theorem State.setPc_calls (s : State) (p : Ply) (m : Mask) (pc : Addr) : (s.setPc p m pc).calls = s.calls := rfl
@[simp] theorem State.setPc_colHeld (s : State) (p : Ply) (m : Mask) (pc : Addr) : (s.setPc p m pc).colHeld = s.colHeld := rfl
@[simp] theorem State.setPc_images (s : State) (p : Ply) (m : Mask) (pc : Addr) : (s.setPc p m pc).images = s.images := rfl
@[simp] theorem State.setPc_eps (s : State) (p : Ply) (m : Mask) (pc : Addr) : (s.setPc p m pc).eps = s.eps := rfl
@[simp] theorem State.setPc_recvs (s : State) (p : Ply) (m : Mask) (pc : Addr) : (s.setPc p m pc).recvs = s.recvs := rfl
@[simp] theorem State.setPc_sends (s : State) (p : Ply) (m : Mask) (pc : Addr) : (s.setPc p m pc).sends = s.sends := rfl
@[simp] theorem State.setPc_uetOut (s : State) (p : Ply) (m : Mask) (pc : Addr) : (s.setPc p m pc).uetOut = s.uetOut := rfl
@[simp] theorem State.setPc_ports (s : State) (p : Ply) (m : Mask) (pc : Addr) : (s.setPc p m pc).ports = s.ports := rfl
@[simp] theorem State.setPc_away (s : State) (p : Ply) (m : Mask) (pc : Addr) : (s.setPc p m pc).away = s.away := rfl
@[simp] theorem State.setPc_mgroups (s : State) (p : Ply) (m : Mask) (pc : Addr) : (s.setPc p m pc).mgroups = s.mgroups := rfl
@[simp] theorem State.setPc_routes (s : State) (p : Ply) (m : Mask) (pc : Addr) : (s.setPc p m pc).routes = s.routes := rfl
@[simp] theorem State.setPc_detours (s : State) (p : Ply) (m : Mask) (pc : Addr) : (s.setPc p m pc).detours = s.detours := rfl
@[simp] theorem State.setPc_port23 (s : State) (p : Ply) (m : Mask) (pc : Addr) : (s.setPc p m pc).port23 = s.port23 := rfl
@[simp] theorem State.setPc_port23Ctx (s : State) (p : Ply) (m : Mask) (pc : Addr) : (s.setPc p m pc).port23Ctx = s.port23Ctx := rfl
@[simp] theorem State.setPc_merges (s : State) (p : Ply) (m : Mask) (pc : Addr) : (s.setPc p m pc).merges = s.merges := rfl
@[simp] theorem State.setPc_flowIn (s : State) (p : Ply) (m : Mask) (pc : Addr) : (s.setPc p m pc).flowIn = s.flowIn := rfl
@[simp] theorem State.setPc_flowHeld (s : State) (p : Ply) (m : Mask) (pc : Addr) : (s.setPc p m pc).flowHeld = s.flowHeld := rfl
@[simp] theorem State.setPc_dl (s : State) (p : Ply) (m : Mask) (pc : Addr) : (s.setPc p m pc).dl = s.dl := rfl
@[simp] theorem State.setPc_dlOut (s : State) (p : Ply) (m : Mask) (pc : Addr) : (s.setPc p m pc).dlOut = s.dlOut := rfl
@[simp] theorem State.setPc_dlReqs (s : State) (p : Ply) (m : Mask) (pc : Addr) : (s.setPc p m pc).dlReqs = s.dlReqs := rfl
@[simp] theorem State.setPc_flitOut (s : State) (p : Ply) (m : Mask) (pc : Addr) : (s.setPc p m pc).flitOut = s.flitOut := rfl
@[simp] theorem State.setPc_shootAt (s : State) (p : Ply) (m : Mask) (pc : Addr) : (s.setPc p m pc).shootAt = s.shootAt := rfl
@[simp] theorem State.setPc_ck (s : State) (p : Ply) (m : Mask) (pc : Addr) : (s.setPc p m pc).ck = s.ck := rfl
@[simp] theorem State.setPc_flowOut (s : State) (p : Ply) (m : Mask) (pc : Addr) : (s.setPc p m pc).flowOut = s.flowOut := rfl
@[simp] theorem State.setPc_fabOut (s : State) (p : Ply) (m : Mask) (pc : Addr) : (s.setPc p m pc).fabOut = s.fabOut := rfl
@[simp] theorem State.setPc_pcieOut (s : State) (p : Ply) (m : Mask) (pc : Addr) : (s.setPc p m pc).pcieOut = s.pcieOut := rfl
@[simp] theorem State.setPc_shoot (s : State) (p : Ply) (m : Mask) (pc : Addr) : (s.setPc p m pc).shoot = s.shoot := rfl
@[simp] theorem State.setPc_telPend (s : State) (p : Ply) (m : Mask) (pc : Addr) : (s.setPc p m pc).telPend = s.telPend := rfl
@[simp] theorem State.setPc_telLog (s : State) (p : Ply) (m : Mask) (pc : Addr) : (s.setPc p m pc).telLog = s.telLog := rfl
@[simp] theorem State.setPc_mgmt (s : State) (p : Ply) (m : Mask) (pc : Addr) : (s.setPc p m pc).mgmt = s.mgmt := rfl

/-! ## State.updCtx -/

@[simp] theorem State.updCtx_clock (s : State) (k : Nat) (f : Ctx → Ctx) : (s.updCtx k f).clock = s.clock := rfl
@[simp] theorem State.updCtx_agenda (s : State) (k : Nat) (f : Ctx → Ctx) : (s.updCtx k f).agenda = s.agenda := rfl
@[simp] theorem State.updCtx_sel (s : State) (k : Nat) (f : Ctx → Ctx) : (s.updCtx k f).sel = s.sel := rfl
@[simp] theorem State.updCtx_stall (s : State) (k : Nat) (f : Ctx → Ctx) : (s.updCtx k f).stall = s.stall := rfl
@[simp] theorem State.updCtx_issued (s : State) (k : Nat) (f : Ctx → Ctx) : (s.updCtx k f).issued = s.issued := rfl
@[simp] theorem State.updCtx_throttled (s : State) (k : Nat) (f : Ctx → Ctx) : (s.updCtx k f).throttled = s.throttled := rfl
@[simp] theorem State.updCtx_nextOp (s : State) (k : Nat) (f : Ctx → Ctx) : (s.updCtx k f).nextOp = s.nextOp := rfl
@[simp] theorem State.updCtx_free (s : State) (k : Nat) (f : Ctx → Ctx) : (s.updCtx k f).free = s.free := rfl
@[simp] theorem State.updCtx_plies (s : State) (k : Nat) (f : Ctx → Ctx) : (s.updCtx k f).plies = s.plies := rfl
@[simp] theorem State.updCtx_gone (s : State) (k : Nat) (f : Ctx → Ctx) : (s.updCtx k f).gone = s.gone := rfl
@[simp] theorem State.updCtx_skeins (s : State) (k : Nat) (f : Ctx → Ctx) : (s.updCtx k f).skeins = s.skeins := rfl
@[simp] theorem State.updCtx_parts (s : State) (k : Nat) (f : Ctx → Ctx) : (s.updCtx k f).parts = s.parts := rfl
@[simp] theorem State.updCtx_lent (s : State) (k : Nat) (f : Ctx → Ctx) : (s.updCtx k f).lent = s.lent := rfl
@[simp] theorem State.updCtx_saved (s : State) (k : Nat) (f : Ctx → Ctx) : (s.updCtx k f).saved = s.saved := rfl
@[simp] theorem State.updCtx_quota (s : State) (k : Nat) (f : Ctx → Ctx) : (s.updCtx k f).quota = s.quota := rfl
@[simp] theorem State.updCtx_hbm (s : State) (k : Nat) (f : Ctx → Ctx) : (s.updCtx k f).hbm = s.hbm := rfl
@[simp] theorem State.updCtx_chk (s : State) (k : Nat) (f : Ctx → Ctx) : (s.updCtx k f).chk = s.chk := rfl
@[simp] theorem State.updCtx_stuck (s : State) (k : Nat) (f : Ctx → Ctx) : (s.updCtx k f).stuck = s.stuck := rfl
@[simp] theorem State.updCtx_transit (s : State) (k : Nat) (f : Ctx → Ctx) : (s.updCtx k f).transit = s.transit := rfl
@[simp] theorem State.updCtx_retireReq (s : State) (k : Nat) (f : Ctx → Ctx) : (s.updCtx k f).retireReq = s.retireReq := rfl
@[simp] theorem State.updCtx_tlb (s : State) (k : Nat) (f : Ctx → Ctx) : (s.updCtx k f).tlb = s.tlb := rfl
@[simp] theorem State.updCtx_oldCode (s : State) (k : Nat) (f : Ctx → Ctx) : (s.updCtx k f).oldCode = s.oldCode := rfl
@[simp] theorem State.updCtx_mc (s : State) (k : Nat) (f : Ctx → Ctx) : (s.updCtx k f).mc = s.mc := rfl
@[simp] theorem State.updCtx_slices (s : State) (k : Nat) (f : Ctx → Ctx) : (s.updCtx k f).slices = s.slices := rfl
@[simp] theorem State.updCtx_faultQ (s : State) (k : Nat) (f : Ctx → Ctx) : (s.updCtx k f).faultQ = s.faultQ := rfl
@[simp] theorem State.updCtx_l1 (s : State) (k : Nat) (f : Ctx → Ctx) : (s.updCtx k f).l1 = s.l1 := rfl
@[simp] theorem State.updCtx_ic (s : State) (k : Nat) (f : Ctx → Ctx) : (s.updCtx k f).ic = s.ic := rfl
@[simp] theorem State.updCtx_ls (s : State) (k : Nat) (f : Ctx → Ctx) : (s.updCtx k f).ls = s.ls := rfl
@[simp] theorem State.updCtx_lsPoison (s : State) (k : Nat) (f : Ctx → Ctx) : (s.updCtx k f).lsPoison = s.lsPoison := rfl
@[simp] theorem State.updCtx_segs (s : State) (k : Nat) (f : Ctx → Ctx) : (s.updCtx k f).segs = s.segs := rfl
@[simp] theorem State.updCtx_wcb (s : State) (k : Nat) (f : Ctx → Ctx) : (s.updCtx k f).wcb = s.wcb := rfl
@[simp] theorem State.updCtx_reqs (s : State) (k : Nat) (f : Ctx → Ctx) : (s.updCtx k f).reqs = s.reqs := rfl
@[simp] theorem State.updCtx_acqs (s : State) (k : Nat) (f : Ctx → Ctx) : (s.updCtx k f).acqs = s.acqs := rfl
@[simp] theorem State.updCtx_podEarly (s : State) (k : Nat) (f : Ctx → Ctx) : (s.updCtx k f).podEarly = s.podEarly := rfl
@[simp] theorem State.updCtx_posted (s : State) (k : Nat) (f : Ctx → Ctx) : (s.updCtx k f).posted = s.posted := rfl
@[simp] theorem State.updCtx_remote (s : State) (k : Nat) (f : Ctx → Ctx) : (s.updCtx k f).remote = s.remote := rfl
@[simp] theorem State.updCtx_podHost (s : State) (k : Nat) (f : Ctx → Ctx) : (s.updCtx k f).podHost = s.podHost := rfl
@[simp] theorem State.updCtx_remerr (s : State) (k : Nat) (f : Ctx → Ctx) : (s.updCtx k f).remerr = s.remerr := rfl
@[simp] theorem State.updCtx_relOp (s : State) (k : Nat) (f : Ctx → Ctx) : (s.updCtx k f).relOp = s.relOp := rfl
@[simp] theorem State.updCtx_tbq (s : State) (k : Nat) (f : Ctx → Ctx) : (s.updCtx k f).tbq = s.tbq := rfl
@[simp] theorem State.updCtx_tidc (s : State) (k : Nat) (f : Ctx → Ctx) : (s.updCtx k f).tidc = s.tidc := rfl
@[simp] theorem State.updCtx_copies (s : State) (k : Nat) (f : Ctx → Ctx) : (s.updCtx k f).copies = s.copies := rfl
@[simp] theorem State.updCtx_probes (s : State) (k : Nat) (f : Ctx → Ctx) : (s.updCtx k f).probes = s.probes := rfl
@[simp] theorem State.updCtx_tiles (s : State) (k : Nat) (f : Ctx → Ctx) : (s.updCtx k f).tiles = s.tiles := rfl
@[simp] theorem State.updCtx_mats (s : State) (k : Nat) (f : Ctx → Ctx) : (s.updCtx k f).mats = s.mats := rfl
@[simp] theorem State.updCtx_accWait (s : State) (k : Nat) (f : Ctx → Ctx) : (s.updCtx k f).accWait = s.accWait := rfl
@[simp] theorem State.updCtx_accFree (s : State) (k : Nat) (f : Ctx → Ctx) : (s.updCtx k f).accFree = s.accFree := rfl
@[simp] theorem State.updCtx_accSince (s : State) (k : Nat) (f : Ctx → Ctx) : (s.updCtx k f).accSince = s.accSince := rfl
@[simp] theorem State.updCtx_shadow (s : State) (k : Nat) (f : Ctx → Ctx) : (s.updCtx k f).shadow = s.shadow := rfl
@[simp] theorem State.updCtx_trigs (s : State) (k : Nat) (f : Ctx → Ctx) : (s.updCtx k f).trigs = s.trigs := rfl
@[simp] theorem State.updCtx_decks (s : State) (k : Nat) (f : Ctx → Ctx) : (s.updCtx k f).decks = s.decks := rfl
@[simp] theorem State.updCtx_deckOps (s : State) (k : Nat) (f : Ctx → Ctx) : (s.updCtx k f).deckOps = s.deckOps := rfl
@[simp] theorem State.updCtx_gslots (s : State) (k : Nat) (f : Ctx → Ctx) : (s.updCtx k f).gslots = s.gslots := rfl
@[simp] theorem State.updCtx_groups (s : State) (k : Nat) (f : Ctx → Ctx) : (s.updCtx k f).groups = s.groups := rfl
@[simp] theorem State.updCtx_calls (s : State) (k : Nat) (f : Ctx → Ctx) : (s.updCtx k f).calls = s.calls := rfl
@[simp] theorem State.updCtx_colHeld (s : State) (k : Nat) (f : Ctx → Ctx) : (s.updCtx k f).colHeld = s.colHeld := rfl
@[simp] theorem State.updCtx_images (s : State) (k : Nat) (f : Ctx → Ctx) : (s.updCtx k f).images = s.images := rfl
@[simp] theorem State.updCtx_eps (s : State) (k : Nat) (f : Ctx → Ctx) : (s.updCtx k f).eps = s.eps := rfl
@[simp] theorem State.updCtx_recvs (s : State) (k : Nat) (f : Ctx → Ctx) : (s.updCtx k f).recvs = s.recvs := rfl
@[simp] theorem State.updCtx_sends (s : State) (k : Nat) (f : Ctx → Ctx) : (s.updCtx k f).sends = s.sends := rfl
@[simp] theorem State.updCtx_uetOut (s : State) (k : Nat) (f : Ctx → Ctx) : (s.updCtx k f).uetOut = s.uetOut := rfl
@[simp] theorem State.updCtx_ports (s : State) (k : Nat) (f : Ctx → Ctx) : (s.updCtx k f).ports = s.ports := rfl
@[simp] theorem State.updCtx_away (s : State) (k : Nat) (f : Ctx → Ctx) : (s.updCtx k f).away = s.away := rfl
@[simp] theorem State.updCtx_mgroups (s : State) (k : Nat) (f : Ctx → Ctx) : (s.updCtx k f).mgroups = s.mgroups := rfl
@[simp] theorem State.updCtx_routes (s : State) (k : Nat) (f : Ctx → Ctx) : (s.updCtx k f).routes = s.routes := rfl
@[simp] theorem State.updCtx_detours (s : State) (k : Nat) (f : Ctx → Ctx) : (s.updCtx k f).detours = s.detours := rfl
@[simp] theorem State.updCtx_port23 (s : State) (k : Nat) (f : Ctx → Ctx) : (s.updCtx k f).port23 = s.port23 := rfl
@[simp] theorem State.updCtx_port23Ctx (s : State) (k : Nat) (f : Ctx → Ctx) : (s.updCtx k f).port23Ctx = s.port23Ctx := rfl
@[simp] theorem State.updCtx_merges (s : State) (k : Nat) (f : Ctx → Ctx) : (s.updCtx k f).merges = s.merges := rfl
@[simp] theorem State.updCtx_flowIn (s : State) (k : Nat) (f : Ctx → Ctx) : (s.updCtx k f).flowIn = s.flowIn := rfl
@[simp] theorem State.updCtx_flowHeld (s : State) (k : Nat) (f : Ctx → Ctx) : (s.updCtx k f).flowHeld = s.flowHeld := rfl
@[simp] theorem State.updCtx_dl (s : State) (k : Nat) (f : Ctx → Ctx) : (s.updCtx k f).dl = s.dl := rfl
@[simp] theorem State.updCtx_dlOut (s : State) (k : Nat) (f : Ctx → Ctx) : (s.updCtx k f).dlOut = s.dlOut := rfl
@[simp] theorem State.updCtx_dlReqs (s : State) (k : Nat) (f : Ctx → Ctx) : (s.updCtx k f).dlReqs = s.dlReqs := rfl
@[simp] theorem State.updCtx_flitOut (s : State) (k : Nat) (f : Ctx → Ctx) : (s.updCtx k f).flitOut = s.flitOut := rfl
@[simp] theorem State.updCtx_shootAt (s : State) (k : Nat) (f : Ctx → Ctx) : (s.updCtx k f).shootAt = s.shootAt := rfl
@[simp] theorem State.updCtx_ck (s : State) (k : Nat) (f : Ctx → Ctx) : (s.updCtx k f).ck = s.ck := rfl
@[simp] theorem State.updCtx_flowOut (s : State) (k : Nat) (f : Ctx → Ctx) : (s.updCtx k f).flowOut = s.flowOut := rfl
@[simp] theorem State.updCtx_fabOut (s : State) (k : Nat) (f : Ctx → Ctx) : (s.updCtx k f).fabOut = s.fabOut := rfl
@[simp] theorem State.updCtx_pcieOut (s : State) (k : Nat) (f : Ctx → Ctx) : (s.updCtx k f).pcieOut = s.pcieOut := rfl
@[simp] theorem State.updCtx_shoot (s : State) (k : Nat) (f : Ctx → Ctx) : (s.updCtx k f).shoot = s.shoot := rfl
@[simp] theorem State.updCtx_telPend (s : State) (k : Nat) (f : Ctx → Ctx) : (s.updCtx k f).telPend = s.telPend := rfl
@[simp] theorem State.updCtx_telLog (s : State) (k : Nat) (f : Ctx → Ctx) : (s.updCtx k f).telLog = s.telLog := rfl
@[simp] theorem State.updCtx_mgmt (s : State) (k : Nat) (f : Ctx → Ctx) : (s.updCtx k f).mgmt = s.mgmt := rfl

/-! ## State.updPart -/

@[simp] theorem State.updPart_clock (s : State) (k : Nat) (f : Part → Part) : (s.updPart k f).clock = s.clock := rfl
@[simp] theorem State.updPart_agenda (s : State) (k : Nat) (f : Part → Part) : (s.updPart k f).agenda = s.agenda := rfl
@[simp] theorem State.updPart_sel (s : State) (k : Nat) (f : Part → Part) : (s.updPart k f).sel = s.sel := rfl
@[simp] theorem State.updPart_stall (s : State) (k : Nat) (f : Part → Part) : (s.updPart k f).stall = s.stall := rfl
@[simp] theorem State.updPart_issued (s : State) (k : Nat) (f : Part → Part) : (s.updPart k f).issued = s.issued := rfl
@[simp] theorem State.updPart_throttled (s : State) (k : Nat) (f : Part → Part) : (s.updPart k f).throttled = s.throttled := rfl
@[simp] theorem State.updPart_nextOp (s : State) (k : Nat) (f : Part → Part) : (s.updPart k f).nextOp = s.nextOp := rfl
@[simp] theorem State.updPart_free (s : State) (k : Nat) (f : Part → Part) : (s.updPart k f).free = s.free := rfl
@[simp] theorem State.updPart_plies (s : State) (k : Nat) (f : Part → Part) : (s.updPart k f).plies = s.plies := rfl
@[simp] theorem State.updPart_gone (s : State) (k : Nat) (f : Part → Part) : (s.updPart k f).gone = s.gone := rfl
@[simp] theorem State.updPart_skeins (s : State) (k : Nat) (f : Part → Part) : (s.updPart k f).skeins = s.skeins := rfl
@[simp] theorem State.updPart_ctxs (s : State) (k : Nat) (f : Part → Part) : (s.updPart k f).ctxs = s.ctxs := rfl
@[simp] theorem State.updPart_lent (s : State) (k : Nat) (f : Part → Part) : (s.updPart k f).lent = s.lent := rfl
@[simp] theorem State.updPart_saved (s : State) (k : Nat) (f : Part → Part) : (s.updPart k f).saved = s.saved := rfl
@[simp] theorem State.updPart_quota (s : State) (k : Nat) (f : Part → Part) : (s.updPart k f).quota = s.quota := rfl
@[simp] theorem State.updPart_hbm (s : State) (k : Nat) (f : Part → Part) : (s.updPart k f).hbm = s.hbm := rfl
@[simp] theorem State.updPart_chk (s : State) (k : Nat) (f : Part → Part) : (s.updPart k f).chk = s.chk := rfl
@[simp] theorem State.updPart_stuck (s : State) (k : Nat) (f : Part → Part) : (s.updPart k f).stuck = s.stuck := rfl
@[simp] theorem State.updPart_transit (s : State) (k : Nat) (f : Part → Part) : (s.updPart k f).transit = s.transit := rfl
@[simp] theorem State.updPart_retireReq (s : State) (k : Nat) (f : Part → Part) : (s.updPart k f).retireReq = s.retireReq := rfl
@[simp] theorem State.updPart_tlb (s : State) (k : Nat) (f : Part → Part) : (s.updPart k f).tlb = s.tlb := rfl
@[simp] theorem State.updPart_oldCode (s : State) (k : Nat) (f : Part → Part) : (s.updPart k f).oldCode = s.oldCode := rfl
@[simp] theorem State.updPart_mc (s : State) (k : Nat) (f : Part → Part) : (s.updPart k f).mc = s.mc := rfl
@[simp] theorem State.updPart_slices (s : State) (k : Nat) (f : Part → Part) : (s.updPart k f).slices = s.slices := rfl
@[simp] theorem State.updPart_faultQ (s : State) (k : Nat) (f : Part → Part) : (s.updPart k f).faultQ = s.faultQ := rfl
@[simp] theorem State.updPart_l1 (s : State) (k : Nat) (f : Part → Part) : (s.updPart k f).l1 = s.l1 := rfl
@[simp] theorem State.updPart_ic (s : State) (k : Nat) (f : Part → Part) : (s.updPart k f).ic = s.ic := rfl
@[simp] theorem State.updPart_ls (s : State) (k : Nat) (f : Part → Part) : (s.updPart k f).ls = s.ls := rfl
@[simp] theorem State.updPart_lsPoison (s : State) (k : Nat) (f : Part → Part) : (s.updPart k f).lsPoison = s.lsPoison := rfl
@[simp] theorem State.updPart_segs (s : State) (k : Nat) (f : Part → Part) : (s.updPart k f).segs = s.segs := rfl
@[simp] theorem State.updPart_wcb (s : State) (k : Nat) (f : Part → Part) : (s.updPart k f).wcb = s.wcb := rfl
@[simp] theorem State.updPart_reqs (s : State) (k : Nat) (f : Part → Part) : (s.updPart k f).reqs = s.reqs := rfl
@[simp] theorem State.updPart_acqs (s : State) (k : Nat) (f : Part → Part) : (s.updPart k f).acqs = s.acqs := rfl
@[simp] theorem State.updPart_podEarly (s : State) (k : Nat) (f : Part → Part) : (s.updPart k f).podEarly = s.podEarly := rfl
@[simp] theorem State.updPart_posted (s : State) (k : Nat) (f : Part → Part) : (s.updPart k f).posted = s.posted := rfl
@[simp] theorem State.updPart_remote (s : State) (k : Nat) (f : Part → Part) : (s.updPart k f).remote = s.remote := rfl
@[simp] theorem State.updPart_podHost (s : State) (k : Nat) (f : Part → Part) : (s.updPart k f).podHost = s.podHost := rfl
@[simp] theorem State.updPart_remerr (s : State) (k : Nat) (f : Part → Part) : (s.updPart k f).remerr = s.remerr := rfl
@[simp] theorem State.updPart_relOp (s : State) (k : Nat) (f : Part → Part) : (s.updPart k f).relOp = s.relOp := rfl
@[simp] theorem State.updPart_tbq (s : State) (k : Nat) (f : Part → Part) : (s.updPart k f).tbq = s.tbq := rfl
@[simp] theorem State.updPart_tidc (s : State) (k : Nat) (f : Part → Part) : (s.updPart k f).tidc = s.tidc := rfl
@[simp] theorem State.updPart_copies (s : State) (k : Nat) (f : Part → Part) : (s.updPart k f).copies = s.copies := rfl
@[simp] theorem State.updPart_probes (s : State) (k : Nat) (f : Part → Part) : (s.updPart k f).probes = s.probes := rfl
@[simp] theorem State.updPart_tiles (s : State) (k : Nat) (f : Part → Part) : (s.updPart k f).tiles = s.tiles := rfl
@[simp] theorem State.updPart_mats (s : State) (k : Nat) (f : Part → Part) : (s.updPart k f).mats = s.mats := rfl
@[simp] theorem State.updPart_accWait (s : State) (k : Nat) (f : Part → Part) : (s.updPart k f).accWait = s.accWait := rfl
@[simp] theorem State.updPart_accFree (s : State) (k : Nat) (f : Part → Part) : (s.updPart k f).accFree = s.accFree := rfl
@[simp] theorem State.updPart_accSince (s : State) (k : Nat) (f : Part → Part) : (s.updPart k f).accSince = s.accSince := rfl
@[simp] theorem State.updPart_shadow (s : State) (k : Nat) (f : Part → Part) : (s.updPart k f).shadow = s.shadow := rfl
@[simp] theorem State.updPart_trigs (s : State) (k : Nat) (f : Part → Part) : (s.updPart k f).trigs = s.trigs := rfl
@[simp] theorem State.updPart_decks (s : State) (k : Nat) (f : Part → Part) : (s.updPart k f).decks = s.decks := rfl
@[simp] theorem State.updPart_deckOps (s : State) (k : Nat) (f : Part → Part) : (s.updPart k f).deckOps = s.deckOps := rfl
@[simp] theorem State.updPart_gslots (s : State) (k : Nat) (f : Part → Part) : (s.updPart k f).gslots = s.gslots := rfl
@[simp] theorem State.updPart_groups (s : State) (k : Nat) (f : Part → Part) : (s.updPart k f).groups = s.groups := rfl
@[simp] theorem State.updPart_calls (s : State) (k : Nat) (f : Part → Part) : (s.updPart k f).calls = s.calls := rfl
@[simp] theorem State.updPart_colHeld (s : State) (k : Nat) (f : Part → Part) : (s.updPart k f).colHeld = s.colHeld := rfl
@[simp] theorem State.updPart_images (s : State) (k : Nat) (f : Part → Part) : (s.updPart k f).images = s.images := rfl
@[simp] theorem State.updPart_eps (s : State) (k : Nat) (f : Part → Part) : (s.updPart k f).eps = s.eps := rfl
@[simp] theorem State.updPart_recvs (s : State) (k : Nat) (f : Part → Part) : (s.updPart k f).recvs = s.recvs := rfl
@[simp] theorem State.updPart_sends (s : State) (k : Nat) (f : Part → Part) : (s.updPart k f).sends = s.sends := rfl
@[simp] theorem State.updPart_uetOut (s : State) (k : Nat) (f : Part → Part) : (s.updPart k f).uetOut = s.uetOut := rfl
@[simp] theorem State.updPart_ports (s : State) (k : Nat) (f : Part → Part) : (s.updPart k f).ports = s.ports := rfl
@[simp] theorem State.updPart_away (s : State) (k : Nat) (f : Part → Part) : (s.updPart k f).away = s.away := rfl
@[simp] theorem State.updPart_mgroups (s : State) (k : Nat) (f : Part → Part) : (s.updPart k f).mgroups = s.mgroups := rfl
@[simp] theorem State.updPart_routes (s : State) (k : Nat) (f : Part → Part) : (s.updPart k f).routes = s.routes := rfl
@[simp] theorem State.updPart_detours (s : State) (k : Nat) (f : Part → Part) : (s.updPart k f).detours = s.detours := rfl
@[simp] theorem State.updPart_port23 (s : State) (k : Nat) (f : Part → Part) : (s.updPart k f).port23 = s.port23 := rfl
@[simp] theorem State.updPart_port23Ctx (s : State) (k : Nat) (f : Part → Part) : (s.updPart k f).port23Ctx = s.port23Ctx := rfl
@[simp] theorem State.updPart_merges (s : State) (k : Nat) (f : Part → Part) : (s.updPart k f).merges = s.merges := rfl
@[simp] theorem State.updPart_flowIn (s : State) (k : Nat) (f : Part → Part) : (s.updPart k f).flowIn = s.flowIn := rfl
@[simp] theorem State.updPart_flowHeld (s : State) (k : Nat) (f : Part → Part) : (s.updPart k f).flowHeld = s.flowHeld := rfl
@[simp] theorem State.updPart_dl (s : State) (k : Nat) (f : Part → Part) : (s.updPart k f).dl = s.dl := rfl
@[simp] theorem State.updPart_dlOut (s : State) (k : Nat) (f : Part → Part) : (s.updPart k f).dlOut = s.dlOut := rfl
@[simp] theorem State.updPart_dlReqs (s : State) (k : Nat) (f : Part → Part) : (s.updPart k f).dlReqs = s.dlReqs := rfl
@[simp] theorem State.updPart_flitOut (s : State) (k : Nat) (f : Part → Part) : (s.updPart k f).flitOut = s.flitOut := rfl
@[simp] theorem State.updPart_shootAt (s : State) (k : Nat) (f : Part → Part) : (s.updPart k f).shootAt = s.shootAt := rfl
@[simp] theorem State.updPart_ck (s : State) (k : Nat) (f : Part → Part) : (s.updPart k f).ck = s.ck := rfl
@[simp] theorem State.updPart_flowOut (s : State) (k : Nat) (f : Part → Part) : (s.updPart k f).flowOut = s.flowOut := rfl
@[simp] theorem State.updPart_fabOut (s : State) (k : Nat) (f : Part → Part) : (s.updPart k f).fabOut = s.fabOut := rfl
@[simp] theorem State.updPart_pcieOut (s : State) (k : Nat) (f : Part → Part) : (s.updPart k f).pcieOut = s.pcieOut := rfl
@[simp] theorem State.updPart_shoot (s : State) (k : Nat) (f : Part → Part) : (s.updPart k f).shoot = s.shoot := rfl
@[simp] theorem State.updPart_telPend (s : State) (k : Nat) (f : Part → Part) : (s.updPart k f).telPend = s.telPend := rfl
@[simp] theorem State.updPart_telLog (s : State) (k : Nat) (f : Part → Part) : (s.updPart k f).telLog = s.telLog := rfl
@[simp] theorem State.updPart_mgmt (s : State) (k : Nat) (f : Part → Part) : (s.updPart k f).mgmt = s.mgmt := rfl

/-! ## State.updSlice -/

@[simp] theorem State.updSlice_clock (s : State) (k : Nat) (f : Slice → Slice) : (s.updSlice k f).clock = s.clock := rfl
@[simp] theorem State.updSlice_agenda (s : State) (k : Nat) (f : Slice → Slice) : (s.updSlice k f).agenda = s.agenda := rfl
@[simp] theorem State.updSlice_sel (s : State) (k : Nat) (f : Slice → Slice) : (s.updSlice k f).sel = s.sel := rfl
@[simp] theorem State.updSlice_stall (s : State) (k : Nat) (f : Slice → Slice) : (s.updSlice k f).stall = s.stall := rfl
@[simp] theorem State.updSlice_issued (s : State) (k : Nat) (f : Slice → Slice) : (s.updSlice k f).issued = s.issued := rfl
@[simp] theorem State.updSlice_throttled (s : State) (k : Nat) (f : Slice → Slice) : (s.updSlice k f).throttled = s.throttled := rfl
@[simp] theorem State.updSlice_nextOp (s : State) (k : Nat) (f : Slice → Slice) : (s.updSlice k f).nextOp = s.nextOp := rfl
@[simp] theorem State.updSlice_free (s : State) (k : Nat) (f : Slice → Slice) : (s.updSlice k f).free = s.free := rfl
@[simp] theorem State.updSlice_plies (s : State) (k : Nat) (f : Slice → Slice) : (s.updSlice k f).plies = s.plies := rfl
@[simp] theorem State.updSlice_gone (s : State) (k : Nat) (f : Slice → Slice) : (s.updSlice k f).gone = s.gone := rfl
@[simp] theorem State.updSlice_skeins (s : State) (k : Nat) (f : Slice → Slice) : (s.updSlice k f).skeins = s.skeins := rfl
@[simp] theorem State.updSlice_ctxs (s : State) (k : Nat) (f : Slice → Slice) : (s.updSlice k f).ctxs = s.ctxs := rfl
@[simp] theorem State.updSlice_parts (s : State) (k : Nat) (f : Slice → Slice) : (s.updSlice k f).parts = s.parts := rfl
@[simp] theorem State.updSlice_lent (s : State) (k : Nat) (f : Slice → Slice) : (s.updSlice k f).lent = s.lent := rfl
@[simp] theorem State.updSlice_saved (s : State) (k : Nat) (f : Slice → Slice) : (s.updSlice k f).saved = s.saved := rfl
@[simp] theorem State.updSlice_quota (s : State) (k : Nat) (f : Slice → Slice) : (s.updSlice k f).quota = s.quota := rfl
@[simp] theorem State.updSlice_hbm (s : State) (k : Nat) (f : Slice → Slice) : (s.updSlice k f).hbm = s.hbm := rfl
@[simp] theorem State.updSlice_chk (s : State) (k : Nat) (f : Slice → Slice) : (s.updSlice k f).chk = s.chk := rfl
@[simp] theorem State.updSlice_stuck (s : State) (k : Nat) (f : Slice → Slice) : (s.updSlice k f).stuck = s.stuck := rfl
@[simp] theorem State.updSlice_transit (s : State) (k : Nat) (f : Slice → Slice) : (s.updSlice k f).transit = s.transit := rfl
@[simp] theorem State.updSlice_retireReq (s : State) (k : Nat) (f : Slice → Slice) : (s.updSlice k f).retireReq = s.retireReq := rfl
@[simp] theorem State.updSlice_tlb (s : State) (k : Nat) (f : Slice → Slice) : (s.updSlice k f).tlb = s.tlb := rfl
@[simp] theorem State.updSlice_oldCode (s : State) (k : Nat) (f : Slice → Slice) : (s.updSlice k f).oldCode = s.oldCode := rfl
@[simp] theorem State.updSlice_mc (s : State) (k : Nat) (f : Slice → Slice) : (s.updSlice k f).mc = s.mc := rfl
@[simp] theorem State.updSlice_faultQ (s : State) (k : Nat) (f : Slice → Slice) : (s.updSlice k f).faultQ = s.faultQ := rfl
@[simp] theorem State.updSlice_l1 (s : State) (k : Nat) (f : Slice → Slice) : (s.updSlice k f).l1 = s.l1 := rfl
@[simp] theorem State.updSlice_ic (s : State) (k : Nat) (f : Slice → Slice) : (s.updSlice k f).ic = s.ic := rfl
@[simp] theorem State.updSlice_ls (s : State) (k : Nat) (f : Slice → Slice) : (s.updSlice k f).ls = s.ls := rfl
@[simp] theorem State.updSlice_lsPoison (s : State) (k : Nat) (f : Slice → Slice) : (s.updSlice k f).lsPoison = s.lsPoison := rfl
@[simp] theorem State.updSlice_segs (s : State) (k : Nat) (f : Slice → Slice) : (s.updSlice k f).segs = s.segs := rfl
@[simp] theorem State.updSlice_wcb (s : State) (k : Nat) (f : Slice → Slice) : (s.updSlice k f).wcb = s.wcb := rfl
@[simp] theorem State.updSlice_reqs (s : State) (k : Nat) (f : Slice → Slice) : (s.updSlice k f).reqs = s.reqs := rfl
@[simp] theorem State.updSlice_acqs (s : State) (k : Nat) (f : Slice → Slice) : (s.updSlice k f).acqs = s.acqs := rfl
@[simp] theorem State.updSlice_podEarly (s : State) (k : Nat) (f : Slice → Slice) : (s.updSlice k f).podEarly = s.podEarly := rfl
@[simp] theorem State.updSlice_posted (s : State) (k : Nat) (f : Slice → Slice) : (s.updSlice k f).posted = s.posted := rfl
@[simp] theorem State.updSlice_remote (s : State) (k : Nat) (f : Slice → Slice) : (s.updSlice k f).remote = s.remote := rfl
@[simp] theorem State.updSlice_podHost (s : State) (k : Nat) (f : Slice → Slice) : (s.updSlice k f).podHost = s.podHost := rfl
@[simp] theorem State.updSlice_remerr (s : State) (k : Nat) (f : Slice → Slice) : (s.updSlice k f).remerr = s.remerr := rfl
@[simp] theorem State.updSlice_relOp (s : State) (k : Nat) (f : Slice → Slice) : (s.updSlice k f).relOp = s.relOp := rfl
@[simp] theorem State.updSlice_tbq (s : State) (k : Nat) (f : Slice → Slice) : (s.updSlice k f).tbq = s.tbq := rfl
@[simp] theorem State.updSlice_tidc (s : State) (k : Nat) (f : Slice → Slice) : (s.updSlice k f).tidc = s.tidc := rfl
@[simp] theorem State.updSlice_copies (s : State) (k : Nat) (f : Slice → Slice) : (s.updSlice k f).copies = s.copies := rfl
@[simp] theorem State.updSlice_probes (s : State) (k : Nat) (f : Slice → Slice) : (s.updSlice k f).probes = s.probes := rfl
@[simp] theorem State.updSlice_tiles (s : State) (k : Nat) (f : Slice → Slice) : (s.updSlice k f).tiles = s.tiles := rfl
@[simp] theorem State.updSlice_mats (s : State) (k : Nat) (f : Slice → Slice) : (s.updSlice k f).mats = s.mats := rfl
@[simp] theorem State.updSlice_accWait (s : State) (k : Nat) (f : Slice → Slice) : (s.updSlice k f).accWait = s.accWait := rfl
@[simp] theorem State.updSlice_accFree (s : State) (k : Nat) (f : Slice → Slice) : (s.updSlice k f).accFree = s.accFree := rfl
@[simp] theorem State.updSlice_accSince (s : State) (k : Nat) (f : Slice → Slice) : (s.updSlice k f).accSince = s.accSince := rfl
@[simp] theorem State.updSlice_shadow (s : State) (k : Nat) (f : Slice → Slice) : (s.updSlice k f).shadow = s.shadow := rfl
@[simp] theorem State.updSlice_trigs (s : State) (k : Nat) (f : Slice → Slice) : (s.updSlice k f).trigs = s.trigs := rfl
@[simp] theorem State.updSlice_decks (s : State) (k : Nat) (f : Slice → Slice) : (s.updSlice k f).decks = s.decks := rfl
@[simp] theorem State.updSlice_deckOps (s : State) (k : Nat) (f : Slice → Slice) : (s.updSlice k f).deckOps = s.deckOps := rfl
@[simp] theorem State.updSlice_gslots (s : State) (k : Nat) (f : Slice → Slice) : (s.updSlice k f).gslots = s.gslots := rfl
@[simp] theorem State.updSlice_groups (s : State) (k : Nat) (f : Slice → Slice) : (s.updSlice k f).groups = s.groups := rfl
@[simp] theorem State.updSlice_calls (s : State) (k : Nat) (f : Slice → Slice) : (s.updSlice k f).calls = s.calls := rfl
@[simp] theorem State.updSlice_colHeld (s : State) (k : Nat) (f : Slice → Slice) : (s.updSlice k f).colHeld = s.colHeld := rfl
@[simp] theorem State.updSlice_images (s : State) (k : Nat) (f : Slice → Slice) : (s.updSlice k f).images = s.images := rfl
@[simp] theorem State.updSlice_eps (s : State) (k : Nat) (f : Slice → Slice) : (s.updSlice k f).eps = s.eps := rfl
@[simp] theorem State.updSlice_recvs (s : State) (k : Nat) (f : Slice → Slice) : (s.updSlice k f).recvs = s.recvs := rfl
@[simp] theorem State.updSlice_sends (s : State) (k : Nat) (f : Slice → Slice) : (s.updSlice k f).sends = s.sends := rfl
@[simp] theorem State.updSlice_uetOut (s : State) (k : Nat) (f : Slice → Slice) : (s.updSlice k f).uetOut = s.uetOut := rfl
@[simp] theorem State.updSlice_ports (s : State) (k : Nat) (f : Slice → Slice) : (s.updSlice k f).ports = s.ports := rfl
@[simp] theorem State.updSlice_away (s : State) (k : Nat) (f : Slice → Slice) : (s.updSlice k f).away = s.away := rfl
@[simp] theorem State.updSlice_mgroups (s : State) (k : Nat) (f : Slice → Slice) : (s.updSlice k f).mgroups = s.mgroups := rfl
@[simp] theorem State.updSlice_routes (s : State) (k : Nat) (f : Slice → Slice) : (s.updSlice k f).routes = s.routes := rfl
@[simp] theorem State.updSlice_detours (s : State) (k : Nat) (f : Slice → Slice) : (s.updSlice k f).detours = s.detours := rfl
@[simp] theorem State.updSlice_port23 (s : State) (k : Nat) (f : Slice → Slice) : (s.updSlice k f).port23 = s.port23 := rfl
@[simp] theorem State.updSlice_port23Ctx (s : State) (k : Nat) (f : Slice → Slice) : (s.updSlice k f).port23Ctx = s.port23Ctx := rfl
@[simp] theorem State.updSlice_merges (s : State) (k : Nat) (f : Slice → Slice) : (s.updSlice k f).merges = s.merges := rfl
@[simp] theorem State.updSlice_flowIn (s : State) (k : Nat) (f : Slice → Slice) : (s.updSlice k f).flowIn = s.flowIn := rfl
@[simp] theorem State.updSlice_flowHeld (s : State) (k : Nat) (f : Slice → Slice) : (s.updSlice k f).flowHeld = s.flowHeld := rfl
@[simp] theorem State.updSlice_dl (s : State) (k : Nat) (f : Slice → Slice) : (s.updSlice k f).dl = s.dl := rfl
@[simp] theorem State.updSlice_dlOut (s : State) (k : Nat) (f : Slice → Slice) : (s.updSlice k f).dlOut = s.dlOut := rfl
@[simp] theorem State.updSlice_dlReqs (s : State) (k : Nat) (f : Slice → Slice) : (s.updSlice k f).dlReqs = s.dlReqs := rfl
@[simp] theorem State.updSlice_flitOut (s : State) (k : Nat) (f : Slice → Slice) : (s.updSlice k f).flitOut = s.flitOut := rfl
@[simp] theorem State.updSlice_shootAt (s : State) (k : Nat) (f : Slice → Slice) : (s.updSlice k f).shootAt = s.shootAt := rfl
@[simp] theorem State.updSlice_ck (s : State) (k : Nat) (f : Slice → Slice) : (s.updSlice k f).ck = s.ck := rfl
@[simp] theorem State.updSlice_flowOut (s : State) (k : Nat) (f : Slice → Slice) : (s.updSlice k f).flowOut = s.flowOut := rfl
@[simp] theorem State.updSlice_fabOut (s : State) (k : Nat) (f : Slice → Slice) : (s.updSlice k f).fabOut = s.fabOut := rfl
@[simp] theorem State.updSlice_pcieOut (s : State) (k : Nat) (f : Slice → Slice) : (s.updSlice k f).pcieOut = s.pcieOut := rfl
@[simp] theorem State.updSlice_shoot (s : State) (k : Nat) (f : Slice → Slice) : (s.updSlice k f).shoot = s.shoot := rfl
@[simp] theorem State.updSlice_telPend (s : State) (k : Nat) (f : Slice → Slice) : (s.updSlice k f).telPend = s.telPend := rfl
@[simp] theorem State.updSlice_telLog (s : State) (k : Nat) (f : Slice → Slice) : (s.updSlice k f).telLog = s.telLog := rfl
@[simp] theorem State.updSlice_mgmt (s : State) (k : Nat) (f : Slice → Slice) : (s.updSlice k f).mgmt = s.mgmt := rfl

/-! ## State.updSeg -/

@[simp] theorem State.updSeg_clock (s : State) (k : Nat) (f : Seg → Seg) : (s.updSeg k f).clock = s.clock := rfl
@[simp] theorem State.updSeg_agenda (s : State) (k : Nat) (f : Seg → Seg) : (s.updSeg k f).agenda = s.agenda := rfl
@[simp] theorem State.updSeg_sel (s : State) (k : Nat) (f : Seg → Seg) : (s.updSeg k f).sel = s.sel := rfl
@[simp] theorem State.updSeg_stall (s : State) (k : Nat) (f : Seg → Seg) : (s.updSeg k f).stall = s.stall := rfl
@[simp] theorem State.updSeg_issued (s : State) (k : Nat) (f : Seg → Seg) : (s.updSeg k f).issued = s.issued := rfl
@[simp] theorem State.updSeg_throttled (s : State) (k : Nat) (f : Seg → Seg) : (s.updSeg k f).throttled = s.throttled := rfl
@[simp] theorem State.updSeg_nextOp (s : State) (k : Nat) (f : Seg → Seg) : (s.updSeg k f).nextOp = s.nextOp := rfl
@[simp] theorem State.updSeg_free (s : State) (k : Nat) (f : Seg → Seg) : (s.updSeg k f).free = s.free := rfl
@[simp] theorem State.updSeg_plies (s : State) (k : Nat) (f : Seg → Seg) : (s.updSeg k f).plies = s.plies := rfl
@[simp] theorem State.updSeg_gone (s : State) (k : Nat) (f : Seg → Seg) : (s.updSeg k f).gone = s.gone := rfl
@[simp] theorem State.updSeg_skeins (s : State) (k : Nat) (f : Seg → Seg) : (s.updSeg k f).skeins = s.skeins := rfl
@[simp] theorem State.updSeg_ctxs (s : State) (k : Nat) (f : Seg → Seg) : (s.updSeg k f).ctxs = s.ctxs := rfl
@[simp] theorem State.updSeg_parts (s : State) (k : Nat) (f : Seg → Seg) : (s.updSeg k f).parts = s.parts := rfl
@[simp] theorem State.updSeg_lent (s : State) (k : Nat) (f : Seg → Seg) : (s.updSeg k f).lent = s.lent := rfl
@[simp] theorem State.updSeg_saved (s : State) (k : Nat) (f : Seg → Seg) : (s.updSeg k f).saved = s.saved := rfl
@[simp] theorem State.updSeg_quota (s : State) (k : Nat) (f : Seg → Seg) : (s.updSeg k f).quota = s.quota := rfl
@[simp] theorem State.updSeg_hbm (s : State) (k : Nat) (f : Seg → Seg) : (s.updSeg k f).hbm = s.hbm := rfl
@[simp] theorem State.updSeg_chk (s : State) (k : Nat) (f : Seg → Seg) : (s.updSeg k f).chk = s.chk := rfl
@[simp] theorem State.updSeg_stuck (s : State) (k : Nat) (f : Seg → Seg) : (s.updSeg k f).stuck = s.stuck := rfl
@[simp] theorem State.updSeg_transit (s : State) (k : Nat) (f : Seg → Seg) : (s.updSeg k f).transit = s.transit := rfl
@[simp] theorem State.updSeg_retireReq (s : State) (k : Nat) (f : Seg → Seg) : (s.updSeg k f).retireReq = s.retireReq := rfl
@[simp] theorem State.updSeg_tlb (s : State) (k : Nat) (f : Seg → Seg) : (s.updSeg k f).tlb = s.tlb := rfl
@[simp] theorem State.updSeg_oldCode (s : State) (k : Nat) (f : Seg → Seg) : (s.updSeg k f).oldCode = s.oldCode := rfl
@[simp] theorem State.updSeg_mc (s : State) (k : Nat) (f : Seg → Seg) : (s.updSeg k f).mc = s.mc := rfl
@[simp] theorem State.updSeg_slices (s : State) (k : Nat) (f : Seg → Seg) : (s.updSeg k f).slices = s.slices := rfl
@[simp] theorem State.updSeg_faultQ (s : State) (k : Nat) (f : Seg → Seg) : (s.updSeg k f).faultQ = s.faultQ := rfl
@[simp] theorem State.updSeg_l1 (s : State) (k : Nat) (f : Seg → Seg) : (s.updSeg k f).l1 = s.l1 := rfl
@[simp] theorem State.updSeg_ic (s : State) (k : Nat) (f : Seg → Seg) : (s.updSeg k f).ic = s.ic := rfl
@[simp] theorem State.updSeg_ls (s : State) (k : Nat) (f : Seg → Seg) : (s.updSeg k f).ls = s.ls := rfl
@[simp] theorem State.updSeg_lsPoison (s : State) (k : Nat) (f : Seg → Seg) : (s.updSeg k f).lsPoison = s.lsPoison := rfl
@[simp] theorem State.updSeg_wcb (s : State) (k : Nat) (f : Seg → Seg) : (s.updSeg k f).wcb = s.wcb := rfl
@[simp] theorem State.updSeg_reqs (s : State) (k : Nat) (f : Seg → Seg) : (s.updSeg k f).reqs = s.reqs := rfl
@[simp] theorem State.updSeg_acqs (s : State) (k : Nat) (f : Seg → Seg) : (s.updSeg k f).acqs = s.acqs := rfl
@[simp] theorem State.updSeg_podEarly (s : State) (k : Nat) (f : Seg → Seg) : (s.updSeg k f).podEarly = s.podEarly := rfl
@[simp] theorem State.updSeg_posted (s : State) (k : Nat) (f : Seg → Seg) : (s.updSeg k f).posted = s.posted := rfl
@[simp] theorem State.updSeg_remote (s : State) (k : Nat) (f : Seg → Seg) : (s.updSeg k f).remote = s.remote := rfl
@[simp] theorem State.updSeg_podHost (s : State) (k : Nat) (f : Seg → Seg) : (s.updSeg k f).podHost = s.podHost := rfl
@[simp] theorem State.updSeg_remerr (s : State) (k : Nat) (f : Seg → Seg) : (s.updSeg k f).remerr = s.remerr := rfl
@[simp] theorem State.updSeg_relOp (s : State) (k : Nat) (f : Seg → Seg) : (s.updSeg k f).relOp = s.relOp := rfl
@[simp] theorem State.updSeg_tbq (s : State) (k : Nat) (f : Seg → Seg) : (s.updSeg k f).tbq = s.tbq := rfl
@[simp] theorem State.updSeg_tidc (s : State) (k : Nat) (f : Seg → Seg) : (s.updSeg k f).tidc = s.tidc := rfl
@[simp] theorem State.updSeg_copies (s : State) (k : Nat) (f : Seg → Seg) : (s.updSeg k f).copies = s.copies := rfl
@[simp] theorem State.updSeg_probes (s : State) (k : Nat) (f : Seg → Seg) : (s.updSeg k f).probes = s.probes := rfl
@[simp] theorem State.updSeg_tiles (s : State) (k : Nat) (f : Seg → Seg) : (s.updSeg k f).tiles = s.tiles := rfl
@[simp] theorem State.updSeg_mats (s : State) (k : Nat) (f : Seg → Seg) : (s.updSeg k f).mats = s.mats := rfl
@[simp] theorem State.updSeg_accWait (s : State) (k : Nat) (f : Seg → Seg) : (s.updSeg k f).accWait = s.accWait := rfl
@[simp] theorem State.updSeg_accFree (s : State) (k : Nat) (f : Seg → Seg) : (s.updSeg k f).accFree = s.accFree := rfl
@[simp] theorem State.updSeg_accSince (s : State) (k : Nat) (f : Seg → Seg) : (s.updSeg k f).accSince = s.accSince := rfl
@[simp] theorem State.updSeg_shadow (s : State) (k : Nat) (f : Seg → Seg) : (s.updSeg k f).shadow = s.shadow := rfl
@[simp] theorem State.updSeg_trigs (s : State) (k : Nat) (f : Seg → Seg) : (s.updSeg k f).trigs = s.trigs := rfl
@[simp] theorem State.updSeg_decks (s : State) (k : Nat) (f : Seg → Seg) : (s.updSeg k f).decks = s.decks := rfl
@[simp] theorem State.updSeg_deckOps (s : State) (k : Nat) (f : Seg → Seg) : (s.updSeg k f).deckOps = s.deckOps := rfl
@[simp] theorem State.updSeg_gslots (s : State) (k : Nat) (f : Seg → Seg) : (s.updSeg k f).gslots = s.gslots := rfl
@[simp] theorem State.updSeg_groups (s : State) (k : Nat) (f : Seg → Seg) : (s.updSeg k f).groups = s.groups := rfl
@[simp] theorem State.updSeg_calls (s : State) (k : Nat) (f : Seg → Seg) : (s.updSeg k f).calls = s.calls := rfl
@[simp] theorem State.updSeg_colHeld (s : State) (k : Nat) (f : Seg → Seg) : (s.updSeg k f).colHeld = s.colHeld := rfl
@[simp] theorem State.updSeg_images (s : State) (k : Nat) (f : Seg → Seg) : (s.updSeg k f).images = s.images := rfl
@[simp] theorem State.updSeg_eps (s : State) (k : Nat) (f : Seg → Seg) : (s.updSeg k f).eps = s.eps := rfl
@[simp] theorem State.updSeg_recvs (s : State) (k : Nat) (f : Seg → Seg) : (s.updSeg k f).recvs = s.recvs := rfl
@[simp] theorem State.updSeg_sends (s : State) (k : Nat) (f : Seg → Seg) : (s.updSeg k f).sends = s.sends := rfl
@[simp] theorem State.updSeg_uetOut (s : State) (k : Nat) (f : Seg → Seg) : (s.updSeg k f).uetOut = s.uetOut := rfl
@[simp] theorem State.updSeg_ports (s : State) (k : Nat) (f : Seg → Seg) : (s.updSeg k f).ports = s.ports := rfl
@[simp] theorem State.updSeg_away (s : State) (k : Nat) (f : Seg → Seg) : (s.updSeg k f).away = s.away := rfl
@[simp] theorem State.updSeg_mgroups (s : State) (k : Nat) (f : Seg → Seg) : (s.updSeg k f).mgroups = s.mgroups := rfl
@[simp] theorem State.updSeg_routes (s : State) (k : Nat) (f : Seg → Seg) : (s.updSeg k f).routes = s.routes := rfl
@[simp] theorem State.updSeg_detours (s : State) (k : Nat) (f : Seg → Seg) : (s.updSeg k f).detours = s.detours := rfl
@[simp] theorem State.updSeg_port23 (s : State) (k : Nat) (f : Seg → Seg) : (s.updSeg k f).port23 = s.port23 := rfl
@[simp] theorem State.updSeg_port23Ctx (s : State) (k : Nat) (f : Seg → Seg) : (s.updSeg k f).port23Ctx = s.port23Ctx := rfl
@[simp] theorem State.updSeg_merges (s : State) (k : Nat) (f : Seg → Seg) : (s.updSeg k f).merges = s.merges := rfl
@[simp] theorem State.updSeg_flowIn (s : State) (k : Nat) (f : Seg → Seg) : (s.updSeg k f).flowIn = s.flowIn := rfl
@[simp] theorem State.updSeg_flowHeld (s : State) (k : Nat) (f : Seg → Seg) : (s.updSeg k f).flowHeld = s.flowHeld := rfl
@[simp] theorem State.updSeg_dl (s : State) (k : Nat) (f : Seg → Seg) : (s.updSeg k f).dl = s.dl := rfl
@[simp] theorem State.updSeg_dlOut (s : State) (k : Nat) (f : Seg → Seg) : (s.updSeg k f).dlOut = s.dlOut := rfl
@[simp] theorem State.updSeg_dlReqs (s : State) (k : Nat) (f : Seg → Seg) : (s.updSeg k f).dlReqs = s.dlReqs := rfl
@[simp] theorem State.updSeg_flitOut (s : State) (k : Nat) (f : Seg → Seg) : (s.updSeg k f).flitOut = s.flitOut := rfl
@[simp] theorem State.updSeg_shootAt (s : State) (k : Nat) (f : Seg → Seg) : (s.updSeg k f).shootAt = s.shootAt := rfl
@[simp] theorem State.updSeg_ck (s : State) (k : Nat) (f : Seg → Seg) : (s.updSeg k f).ck = s.ck := rfl
@[simp] theorem State.updSeg_flowOut (s : State) (k : Nat) (f : Seg → Seg) : (s.updSeg k f).flowOut = s.flowOut := rfl
@[simp] theorem State.updSeg_fabOut (s : State) (k : Nat) (f : Seg → Seg) : (s.updSeg k f).fabOut = s.fabOut := rfl
@[simp] theorem State.updSeg_pcieOut (s : State) (k : Nat) (f : Seg → Seg) : (s.updSeg k f).pcieOut = s.pcieOut := rfl
@[simp] theorem State.updSeg_shoot (s : State) (k : Nat) (f : Seg → Seg) : (s.updSeg k f).shoot = s.shoot := rfl
@[simp] theorem State.updSeg_telPend (s : State) (k : Nat) (f : Seg → Seg) : (s.updSeg k f).telPend = s.telPend := rfl
@[simp] theorem State.updSeg_telLog (s : State) (k : Nat) (f : Seg → Seg) : (s.updSeg k f).telLog = s.telLog := rfl
@[simp] theorem State.updSeg_mgmt (s : State) (k : Nat) (f : Seg → Seg) : (s.updSeg k f).mgmt = s.mgmt := rfl

/-! ## State.select -/

@[simp] theorem State.select_clock (s : State) (pid : Nat) : (s.select pid).clock = s.clock := rfl
@[simp] theorem State.select_agenda (s : State) (pid : Nat) : (s.select pid).agenda = s.agenda := rfl
@[simp] theorem State.select_issued (s : State) (pid : Nat) : (s.select pid).issued = s.issued := rfl
@[simp] theorem State.select_throttled (s : State) (pid : Nat) : (s.select pid).throttled = s.throttled := rfl
@[simp] theorem State.select_nextOp (s : State) (pid : Nat) : (s.select pid).nextOp = s.nextOp := rfl
@[simp] theorem State.select_free (s : State) (pid : Nat) : (s.select pid).free = s.free := rfl
@[simp] theorem State.select_plies (s : State) (pid : Nat) : (s.select pid).plies = s.plies := rfl
@[simp] theorem State.select_gone (s : State) (pid : Nat) : (s.select pid).gone = s.gone := rfl
@[simp] theorem State.select_skeins (s : State) (pid : Nat) : (s.select pid).skeins = s.skeins := rfl
@[simp] theorem State.select_ctxs (s : State) (pid : Nat) : (s.select pid).ctxs = s.ctxs := rfl
@[simp] theorem State.select_parts (s : State) (pid : Nat) : (s.select pid).parts = s.parts := rfl
@[simp] theorem State.select_lent (s : State) (pid : Nat) : (s.select pid).lent = s.lent := rfl
@[simp] theorem State.select_saved (s : State) (pid : Nat) : (s.select pid).saved = s.saved := rfl
@[simp] theorem State.select_quota (s : State) (pid : Nat) : (s.select pid).quota = s.quota := rfl
@[simp] theorem State.select_hbm (s : State) (pid : Nat) : (s.select pid).hbm = s.hbm := rfl
@[simp] theorem State.select_chk (s : State) (pid : Nat) : (s.select pid).chk = s.chk := rfl
@[simp] theorem State.select_stuck (s : State) (pid : Nat) : (s.select pid).stuck = s.stuck := rfl
@[simp] theorem State.select_transit (s : State) (pid : Nat) : (s.select pid).transit = s.transit := rfl
@[simp] theorem State.select_retireReq (s : State) (pid : Nat) : (s.select pid).retireReq = s.retireReq := rfl
@[simp] theorem State.select_tlb (s : State) (pid : Nat) : (s.select pid).tlb = s.tlb := rfl
@[simp] theorem State.select_oldCode (s : State) (pid : Nat) : (s.select pid).oldCode = s.oldCode := rfl
@[simp] theorem State.select_mc (s : State) (pid : Nat) : (s.select pid).mc = s.mc := rfl
@[simp] theorem State.select_slices (s : State) (pid : Nat) : (s.select pid).slices = s.slices := rfl
@[simp] theorem State.select_faultQ (s : State) (pid : Nat) : (s.select pid).faultQ = s.faultQ := rfl
@[simp] theorem State.select_l1 (s : State) (pid : Nat) : (s.select pid).l1 = s.l1 := rfl
@[simp] theorem State.select_ic (s : State) (pid : Nat) : (s.select pid).ic = s.ic := rfl
@[simp] theorem State.select_ls (s : State) (pid : Nat) : (s.select pid).ls = s.ls := rfl
@[simp] theorem State.select_lsPoison (s : State) (pid : Nat) : (s.select pid).lsPoison = s.lsPoison := rfl
@[simp] theorem State.select_segs (s : State) (pid : Nat) : (s.select pid).segs = s.segs := rfl
@[simp] theorem State.select_wcb (s : State) (pid : Nat) : (s.select pid).wcb = s.wcb := rfl
@[simp] theorem State.select_reqs (s : State) (pid : Nat) : (s.select pid).reqs = s.reqs := rfl
@[simp] theorem State.select_acqs (s : State) (pid : Nat) : (s.select pid).acqs = s.acqs := rfl
@[simp] theorem State.select_podEarly (s : State) (pid : Nat) : (s.select pid).podEarly = s.podEarly := rfl
@[simp] theorem State.select_posted (s : State) (pid : Nat) : (s.select pid).posted = s.posted := rfl
@[simp] theorem State.select_remote (s : State) (pid : Nat) : (s.select pid).remote = s.remote := rfl
@[simp] theorem State.select_podHost (s : State) (pid : Nat) : (s.select pid).podHost = s.podHost := rfl
@[simp] theorem State.select_remerr (s : State) (pid : Nat) : (s.select pid).remerr = s.remerr := rfl
@[simp] theorem State.select_relOp (s : State) (pid : Nat) : (s.select pid).relOp = s.relOp := rfl
@[simp] theorem State.select_tbq (s : State) (pid : Nat) : (s.select pid).tbq = s.tbq := rfl
@[simp] theorem State.select_tidc (s : State) (pid : Nat) : (s.select pid).tidc = s.tidc := rfl
@[simp] theorem State.select_copies (s : State) (pid : Nat) : (s.select pid).copies = s.copies := rfl
@[simp] theorem State.select_probes (s : State) (pid : Nat) : (s.select pid).probes = s.probes := rfl
@[simp] theorem State.select_tiles (s : State) (pid : Nat) : (s.select pid).tiles = s.tiles := rfl
@[simp] theorem State.select_mats (s : State) (pid : Nat) : (s.select pid).mats = s.mats := rfl
@[simp] theorem State.select_accWait (s : State) (pid : Nat) : (s.select pid).accWait = s.accWait := rfl
@[simp] theorem State.select_accFree (s : State) (pid : Nat) : (s.select pid).accFree = s.accFree := rfl
@[simp] theorem State.select_accSince (s : State) (pid : Nat) : (s.select pid).accSince = s.accSince := rfl
@[simp] theorem State.select_shadow (s : State) (pid : Nat) : (s.select pid).shadow = s.shadow := rfl
@[simp] theorem State.select_trigs (s : State) (pid : Nat) : (s.select pid).trigs = s.trigs := rfl
@[simp] theorem State.select_decks (s : State) (pid : Nat) : (s.select pid).decks = s.decks := rfl
@[simp] theorem State.select_deckOps (s : State) (pid : Nat) : (s.select pid).deckOps = s.deckOps := rfl
@[simp] theorem State.select_gslots (s : State) (pid : Nat) : (s.select pid).gslots = s.gslots := rfl
@[simp] theorem State.select_groups (s : State) (pid : Nat) : (s.select pid).groups = s.groups := rfl
@[simp] theorem State.select_calls (s : State) (pid : Nat) : (s.select pid).calls = s.calls := rfl
@[simp] theorem State.select_colHeld (s : State) (pid : Nat) : (s.select pid).colHeld = s.colHeld := rfl
@[simp] theorem State.select_images (s : State) (pid : Nat) : (s.select pid).images = s.images := rfl
@[simp] theorem State.select_eps (s : State) (pid : Nat) : (s.select pid).eps = s.eps := rfl
@[simp] theorem State.select_recvs (s : State) (pid : Nat) : (s.select pid).recvs = s.recvs := rfl
@[simp] theorem State.select_sends (s : State) (pid : Nat) : (s.select pid).sends = s.sends := rfl
@[simp] theorem State.select_uetOut (s : State) (pid : Nat) : (s.select pid).uetOut = s.uetOut := rfl
@[simp] theorem State.select_ports (s : State) (pid : Nat) : (s.select pid).ports = s.ports := rfl
@[simp] theorem State.select_away (s : State) (pid : Nat) : (s.select pid).away = s.away := rfl
@[simp] theorem State.select_mgroups (s : State) (pid : Nat) : (s.select pid).mgroups = s.mgroups := rfl
@[simp] theorem State.select_routes (s : State) (pid : Nat) : (s.select pid).routes = s.routes := rfl
@[simp] theorem State.select_detours (s : State) (pid : Nat) : (s.select pid).detours = s.detours := rfl
@[simp] theorem State.select_port23 (s : State) (pid : Nat) : (s.select pid).port23 = s.port23 := rfl
@[simp] theorem State.select_port23Ctx (s : State) (pid : Nat) : (s.select pid).port23Ctx = s.port23Ctx := rfl
@[simp] theorem State.select_merges (s : State) (pid : Nat) : (s.select pid).merges = s.merges := rfl
@[simp] theorem State.select_flowIn (s : State) (pid : Nat) : (s.select pid).flowIn = s.flowIn := rfl
@[simp] theorem State.select_flowHeld (s : State) (pid : Nat) : (s.select pid).flowHeld = s.flowHeld := rfl
@[simp] theorem State.select_dl (s : State) (pid : Nat) : (s.select pid).dl = s.dl := rfl
@[simp] theorem State.select_dlOut (s : State) (pid : Nat) : (s.select pid).dlOut = s.dlOut := rfl
@[simp] theorem State.select_dlReqs (s : State) (pid : Nat) : (s.select pid).dlReqs = s.dlReqs := rfl
@[simp] theorem State.select_flitOut (s : State) (pid : Nat) : (s.select pid).flitOut = s.flitOut := rfl
@[simp] theorem State.select_shootAt (s : State) (pid : Nat) : (s.select pid).shootAt = s.shootAt := rfl
@[simp] theorem State.select_ck (s : State) (pid : Nat) : (s.select pid).ck = s.ck := rfl
@[simp] theorem State.select_flowOut (s : State) (pid : Nat) : (s.select pid).flowOut = s.flowOut := rfl
@[simp] theorem State.select_fabOut (s : State) (pid : Nat) : (s.select pid).fabOut = s.fabOut := rfl
@[simp] theorem State.select_pcieOut (s : State) (pid : Nat) : (s.select pid).pcieOut = s.pcieOut := rfl
@[simp] theorem State.select_shoot (s : State) (pid : Nat) : (s.select pid).shoot = s.shoot := rfl
@[simp] theorem State.select_telPend (s : State) (pid : Nat) : (s.select pid).telPend = s.telPend := rfl
@[simp] theorem State.select_telLog (s : State) (pid : Nat) : (s.select pid).telLog = s.telLog := rfl
@[simp] theorem State.select_mgmt (s : State) (pid : Nat) : (s.select pid).mgmt = s.mgmt := rfl

/-! ## State.deselect -/

@[simp] theorem State.deselect_clock (s : State) : (s.deselect).clock = s.clock := rfl
@[simp] theorem State.deselect_agenda (s : State) : (s.deselect).agenda = s.agenda := rfl
@[simp] theorem State.deselect_issued (s : State) : (s.deselect).issued = s.issued := rfl
@[simp] theorem State.deselect_throttled (s : State) : (s.deselect).throttled = s.throttled := rfl
@[simp] theorem State.deselect_nextOp (s : State) : (s.deselect).nextOp = s.nextOp := rfl
@[simp] theorem State.deselect_free (s : State) : (s.deselect).free = s.free := rfl
@[simp] theorem State.deselect_plies (s : State) : (s.deselect).plies = s.plies := rfl
@[simp] theorem State.deselect_gone (s : State) : (s.deselect).gone = s.gone := rfl
@[simp] theorem State.deselect_skeins (s : State) : (s.deselect).skeins = s.skeins := rfl
@[simp] theorem State.deselect_ctxs (s : State) : (s.deselect).ctxs = s.ctxs := rfl
@[simp] theorem State.deselect_parts (s : State) : (s.deselect).parts = s.parts := rfl
@[simp] theorem State.deselect_lent (s : State) : (s.deselect).lent = s.lent := rfl
@[simp] theorem State.deselect_saved (s : State) : (s.deselect).saved = s.saved := rfl
@[simp] theorem State.deselect_quota (s : State) : (s.deselect).quota = s.quota := rfl
@[simp] theorem State.deselect_hbm (s : State) : (s.deselect).hbm = s.hbm := rfl
@[simp] theorem State.deselect_chk (s : State) : (s.deselect).chk = s.chk := rfl
@[simp] theorem State.deselect_stuck (s : State) : (s.deselect).stuck = s.stuck := rfl
@[simp] theorem State.deselect_transit (s : State) : (s.deselect).transit = s.transit := rfl
@[simp] theorem State.deselect_retireReq (s : State) : (s.deselect).retireReq = s.retireReq := rfl
@[simp] theorem State.deselect_tlb (s : State) : (s.deselect).tlb = s.tlb := rfl
@[simp] theorem State.deselect_oldCode (s : State) : (s.deselect).oldCode = s.oldCode := rfl
@[simp] theorem State.deselect_mc (s : State) : (s.deselect).mc = s.mc := rfl
@[simp] theorem State.deselect_slices (s : State) : (s.deselect).slices = s.slices := rfl
@[simp] theorem State.deselect_faultQ (s : State) : (s.deselect).faultQ = s.faultQ := rfl
@[simp] theorem State.deselect_l1 (s : State) : (s.deselect).l1 = s.l1 := rfl
@[simp] theorem State.deselect_ic (s : State) : (s.deselect).ic = s.ic := rfl
@[simp] theorem State.deselect_ls (s : State) : (s.deselect).ls = s.ls := rfl
@[simp] theorem State.deselect_lsPoison (s : State) : (s.deselect).lsPoison = s.lsPoison := rfl
@[simp] theorem State.deselect_segs (s : State) : (s.deselect).segs = s.segs := rfl
@[simp] theorem State.deselect_wcb (s : State) : (s.deselect).wcb = s.wcb := rfl
@[simp] theorem State.deselect_reqs (s : State) : (s.deselect).reqs = s.reqs := rfl
@[simp] theorem State.deselect_acqs (s : State) : (s.deselect).acqs = s.acqs := rfl
@[simp] theorem State.deselect_podEarly (s : State) : (s.deselect).podEarly = s.podEarly := rfl
@[simp] theorem State.deselect_posted (s : State) : (s.deselect).posted = s.posted := rfl
@[simp] theorem State.deselect_remote (s : State) : (s.deselect).remote = s.remote := rfl
@[simp] theorem State.deselect_podHost (s : State) : (s.deselect).podHost = s.podHost := rfl
@[simp] theorem State.deselect_remerr (s : State) : (s.deselect).remerr = s.remerr := rfl
@[simp] theorem State.deselect_relOp (s : State) : (s.deselect).relOp = s.relOp := rfl
@[simp] theorem State.deselect_tbq (s : State) : (s.deselect).tbq = s.tbq := rfl
@[simp] theorem State.deselect_tidc (s : State) : (s.deselect).tidc = s.tidc := rfl
@[simp] theorem State.deselect_copies (s : State) : (s.deselect).copies = s.copies := rfl
@[simp] theorem State.deselect_probes (s : State) : (s.deselect).probes = s.probes := rfl
@[simp] theorem State.deselect_tiles (s : State) : (s.deselect).tiles = s.tiles := rfl
@[simp] theorem State.deselect_mats (s : State) : (s.deselect).mats = s.mats := rfl
@[simp] theorem State.deselect_accWait (s : State) : (s.deselect).accWait = s.accWait := rfl
@[simp] theorem State.deselect_accFree (s : State) : (s.deselect).accFree = s.accFree := rfl
@[simp] theorem State.deselect_accSince (s : State) : (s.deselect).accSince = s.accSince := rfl
@[simp] theorem State.deselect_shadow (s : State) : (s.deselect).shadow = s.shadow := rfl
@[simp] theorem State.deselect_trigs (s : State) : (s.deselect).trigs = s.trigs := rfl
@[simp] theorem State.deselect_decks (s : State) : (s.deselect).decks = s.decks := rfl
@[simp] theorem State.deselect_deckOps (s : State) : (s.deselect).deckOps = s.deckOps := rfl
@[simp] theorem State.deselect_gslots (s : State) : (s.deselect).gslots = s.gslots := rfl
@[simp] theorem State.deselect_groups (s : State) : (s.deselect).groups = s.groups := rfl
@[simp] theorem State.deselect_calls (s : State) : (s.deselect).calls = s.calls := rfl
@[simp] theorem State.deselect_colHeld (s : State) : (s.deselect).colHeld = s.colHeld := rfl
@[simp] theorem State.deselect_images (s : State) : (s.deselect).images = s.images := rfl
@[simp] theorem State.deselect_eps (s : State) : (s.deselect).eps = s.eps := rfl
@[simp] theorem State.deselect_recvs (s : State) : (s.deselect).recvs = s.recvs := rfl
@[simp] theorem State.deselect_sends (s : State) : (s.deselect).sends = s.sends := rfl
@[simp] theorem State.deselect_uetOut (s : State) : (s.deselect).uetOut = s.uetOut := rfl
@[simp] theorem State.deselect_ports (s : State) : (s.deselect).ports = s.ports := rfl
@[simp] theorem State.deselect_away (s : State) : (s.deselect).away = s.away := rfl
@[simp] theorem State.deselect_mgroups (s : State) : (s.deselect).mgroups = s.mgroups := rfl
@[simp] theorem State.deselect_routes (s : State) : (s.deselect).routes = s.routes := rfl
@[simp] theorem State.deselect_detours (s : State) : (s.deselect).detours = s.detours := rfl
@[simp] theorem State.deselect_port23 (s : State) : (s.deselect).port23 = s.port23 := rfl
@[simp] theorem State.deselect_port23Ctx (s : State) : (s.deselect).port23Ctx = s.port23Ctx := rfl
@[simp] theorem State.deselect_merges (s : State) : (s.deselect).merges = s.merges := rfl
@[simp] theorem State.deselect_flowIn (s : State) : (s.deselect).flowIn = s.flowIn := rfl
@[simp] theorem State.deselect_flowHeld (s : State) : (s.deselect).flowHeld = s.flowHeld := rfl
@[simp] theorem State.deselect_dl (s : State) : (s.deselect).dl = s.dl := rfl
@[simp] theorem State.deselect_dlOut (s : State) : (s.deselect).dlOut = s.dlOut := rfl
@[simp] theorem State.deselect_dlReqs (s : State) : (s.deselect).dlReqs = s.dlReqs := rfl
@[simp] theorem State.deselect_flitOut (s : State) : (s.deselect).flitOut = s.flitOut := rfl
@[simp] theorem State.deselect_shootAt (s : State) : (s.deselect).shootAt = s.shootAt := rfl
@[simp] theorem State.deselect_ck (s : State) : (s.deselect).ck = s.ck := rfl
@[simp] theorem State.deselect_flowOut (s : State) : (s.deselect).flowOut = s.flowOut := rfl
@[simp] theorem State.deselect_fabOut (s : State) : (s.deselect).fabOut = s.fabOut := rfl
@[simp] theorem State.deselect_pcieOut (s : State) : (s.deselect).pcieOut = s.pcieOut := rfl
@[simp] theorem State.deselect_shoot (s : State) : (s.deselect).shoot = s.shoot := rfl
@[simp] theorem State.deselect_telPend (s : State) : (s.deselect).telPend = s.telPend := rfl
@[simp] theorem State.deselect_telLog (s : State) : (s.deselect).telLog = s.telLog := rfl
@[simp] theorem State.deselect_mgmt (s : State) : (s.deselect).mgmt = s.mgmt := rfl

/-! ## The changed field -/

@[simp] theorem State.setPly_plies (s : State) (pid : Nat) (p : Ply) : (s.setPly pid p).plies = s.plies.set pid p := rfl
@[simp] theorem State.updPly_plies (s : State) (pid : Nat) (f : Ply → Ply) : (s.updPly pid f).plies = s.plies.upd pid f := rfl
@[simp] theorem State.updSkein_skeins (s : State) (k : Nat) (f : Skein → Skein) : (s.updSkein k f).skeins = s.skeins.upd k f := rfl
@[simp] theorem State.updPart_parts (s : State) (k : Nat) (f : Part → Part) : (s.updPart k f).parts = s.parts.set k (f (s.part k)) := rfl
@[simp] theorem State.updCtx_ctxs (s : State) (k : Nat) (f : Ctx → Ctx) : (s.updCtx k f).ctxs = s.ctxs.set k (f (s.ctx k)) := rfl
@[simp] theorem State.updSlice_slices (s : State) (k : Nat) (f : Slice → Slice) :
    (s.updSlice k f).slices = s.slices.set k (f (s.slice k)) := rfl
@[simp] theorem State.updSeg_segs (s : State) (k : Nat) (f : Seg → Seg) : (s.updSeg k f).segs = s.segs.set k (f (s.seg k)) := rfl
@[simp] theorem State.select_sel (s : State) (pid : Nat) : (s.select pid).sel = some pid := rfl
@[simp] theorem State.select_stall (s : State) (pid : Nat) : (s.select pid).stall = false := rfl
@[simp] theorem State.deselect_sel (s : State) : s.deselect.sel = none := rfl
@[simp] theorem State.deselect_stall (s : State) : s.deselect.stall = false := rfl

end Sys2Proof.Machine
end

