-- ==== Sys2Proof/Laws/Tbl.lean ====
section
/-! SUPPORT. The laws of tables and byte memories: what a read gives after a change, and that every operation keeps the order of the
keys and the canonical form of a memory. -/

namespace Sys2Proof.Machine

variable {α : Type}

/-! ## Tables -/

theorem Tbl.get_set_same (t : Tbl α) (k : Nat) (x : α) : Tbl.get (Tbl.set t k x) k = some x := by
  induction t with
  | nil => simp [Tbl.set, Tbl.get]
  | cons e t ih =>
    obtain ⟨j, y⟩ := e
    unfold Tbl.set
    split
    · simp [Tbl.get]
    · split
      · simp [Tbl.get]
      · simp [Tbl.get, *]

theorem Tbl.get_set_other (t : Tbl α) {k i : Nat} (x : α) (h : i ≠ k) : Tbl.get (Tbl.set t k x) i = Tbl.get t i := by
  induction t with
  | nil => simp [Tbl.set, Tbl.get, Ne.symm h]
  | cons e t ih =>
    obtain ⟨j, y⟩ := e
    unfold Tbl.set
    split
    · simp [Tbl.get, Ne.symm h]
    · split
      · next hj => subst hj; simp [Tbl.get, Ne.symm h]
      · simp [Tbl.get, ih]

/-- The value at any key after `Tbl.set`. -/
theorem Tbl.get_set (t : Tbl α) (k i : Nat) (x : α) : Tbl.get (Tbl.set t k x) i = if i = k then some x else Tbl.get t i := by
  split
  · next h => subst h; exact get_set_same ..
  · next h => exact get_set_other _ _ h

/-- The value at any key after `Tbl.upd`. -/
theorem Tbl.get_upd (t : Tbl α) (k i : Nat) (f : α → α) :
    Tbl.get (Tbl.upd t k f) i = if i = k then (Tbl.get t k).map f else Tbl.get t i := by
  unfold Tbl.upd
  split
  · next h => split <;> simp_all
  · next x h => rw [get_set]; split <;> simp_all

/-- Changing every value of a table changes what each key reads. -/
theorem Tbl.get_mapVals (t : Tbl α) (f : Nat → α → α) (i : Nat) : Tbl.get (Tbl.mapVals t f) i = (Tbl.get t i).map (f i) := by
  induction t with
  | nil => simp [Tbl.mapVals, Tbl.get]
  | cons e t ih =>
    obtain ⟨j, y⟩ := e
    simp only [Tbl.mapVals, List.map_cons, Tbl.get]
    split
    · next h => simp [h]
    · exact ih

/-- A strictly rising table lists no key below its first. -/
theorem Tbl.rising_tail {e : Nat × α} {t : Tbl α} (h : Tbl.rising (e :: t) = true) : Tbl.rising t = true := by
  cases t with
  | nil => rfl
  | cons d t => obtain ⟨j, x⟩ := e; obtain ⟨k, y⟩ := d; simp only [Tbl.rising, Bool.and_eq_true] at h; exact h.2

theorem Tbl.rising_lt {j : Nat} {x : α} {t : Tbl α} (h : Tbl.rising ((j, x) :: t) = true) : ∀ e ∈ t, j < e.1 := by
  induction t generalizing j x with
  | nil => simp
  | cons d t ih =>
    obtain ⟨k, y⟩ := d
    simp only [Tbl.rising, Bool.and_eq_true, decide_eq_true_eq] at h
    intro e he
    rcases List.mem_cons.mp he with rfl | he
    · exact h.1
    · exact Nat.lt_trans h.1 (ih h.2 e he)

theorem Tbl.rising_cons {j : Nat} {x : α} {t : Tbl α} (h : Tbl.rising t = true) (hj : ∀ e ∈ t, j < e.1) :
    Tbl.rising ((j, x) :: t) = true := by
  cases t with
  | nil => rfl
  | cons d t =>
    obtain ⟨k, y⟩ := d
    simp only [Tbl.rising, Bool.and_eq_true, decide_eq_true_eq]
    exact ⟨hj (k, y) (by simp), h⟩

theorem Tbl.mem_set {t : Tbl α} {k : Nat} {x : α} {e : Nat × α} (h : e ∈ Tbl.set t k x) : e = (k, x) ∨ e ∈ t := by
  induction t with
  | nil => simp_all [Tbl.set]
  | cons d t ih =>
    obtain ⟨j, y⟩ := d
    unfold Tbl.set at h
    split at h
    · simpa using h
    · split at h
      · rcases List.mem_cons.mp h with h | h
        · exact .inl h
        · exact .inr (by simp [h])
      · rcases List.mem_cons.mp h with h | h
        · exact .inr (by simp [h])
        · rcases ih h with h | h
          · exact .inl h
          · exact .inr (by simp [h])

theorem Tbl.mem_del {t : Tbl α} {k : Nat} {e : Nat × α} (h : e ∈ Tbl.del t k) : e ∈ t := by
  induction t with
  | nil => simp_all [Tbl.del]
  | cons d t ih =>
    obtain ⟨j, y⟩ := d
    unfold Tbl.del at h
    split at h
    · simp [ih h]
    · rcases List.mem_cons.mp h with h | h
      · simp [h]
      · simp [ih h]

/-- `Tbl.set` keeps the order of the keys. -/
theorem Tbl.rising_set {t : Tbl α} (k : Nat) (x : α) (h : Tbl.rising t = true) : Tbl.rising (Tbl.set t k x) = true := by
  induction t with
  | nil => rfl
  | cons d t ih =>
    obtain ⟨j, y⟩ := d
    unfold Tbl.set
    split
    · next hk =>
      refine rising_cons h ?_
      intro e he
      rcases List.mem_cons.mp he with rfl | he
      · exact hk
      · exact Nat.lt_trans hk (rising_lt h e he)
    · next hk =>
      split
      · next hj => subst hj; exact rising_cons (rising_tail h) (rising_lt h)
      · next hj =>
        refine rising_cons (ih (rising_tail h)) ?_
        intro e he
        rcases mem_set he with rfl | he
        · show j < k
          omega
        · exact rising_lt h e he

/-- `Tbl.del` keeps the order of the keys. -/
theorem Tbl.rising_del {t : Tbl α} (k : Nat) (h : Tbl.rising t = true) : Tbl.rising (Tbl.del t k) = true := by
  induction t with
  | nil => rfl
  | cons d t ih =>
    obtain ⟨j, y⟩ := d
    unfold Tbl.del
    split
    · exact ih (rising_tail h)
    · exact rising_cons (ih (rising_tail h)) fun e he => rising_lt h e (mem_del he)

/-- The value at any key after `Tbl.del`. -/
theorem Tbl.get_del (t : Tbl α) (k i : Nat) : Tbl.get (Tbl.del t k) i = if i = k then none else Tbl.get t i := by
  induction t with
  | nil => simp [Tbl.del, Tbl.get]
  | cons d t ih =>
    obtain ⟨j, y⟩ := d
    unfold Tbl.del
    split
    · next hj =>
      subst hj
      rw [ih]
      split
      · rfl
      · next hi => simp [Tbl.get, Ne.symm hi]
    · next hj =>
      simp only [Tbl.get, ih]
      split
      · next hi => subst hi; split <;> simp_all
      · rfl

/-! ## Byte memories -/

/-- The canonical form, in its two parts. -/
theorem Mem.wf_iff (m : Mem) : Mem.wf m = true ↔ Tbl.rising m = true ∧ ∀ c ∈ m, c.2 ≠ Mem.unlisted := by
  simp [Mem.wf]

theorem Mem.wf_nil : Mem.wf [] = true := by decide

/-- Writing a byte keeps the canonical form. -/
theorem Mem.wf_set {m : Mem} (a : Nat) (b : Byte) (h : Mem.wf m = true) : Mem.wf (Mem.set m a b) = true := by
  rw [wf_iff] at h ⊢
  unfold Mem.set
  split
  · exact ⟨Tbl.rising_del a h.1, fun c hc => h.2 c (Tbl.mem_del hc)⟩
  · next hb =>
    refine ⟨Tbl.rising_set a b h.1, fun c hc => ?_⟩
    rcases Tbl.mem_set hc with rfl | hc
    · exact hb
    · exact h.2 c hc

/-- Writing bytes keeps the canonical form. -/
theorem Mem.wf_write {m : Mem} (a : Nat) (bs : List Byte) (h : Mem.wf m = true) : Mem.wf (Mem.write m a bs) = true := by
  induction bs generalizing m a with
  | nil => exact h
  | cons b bs ih => exact ih _ (wf_set a b h)

/-- A byte after a byte is written. -/
theorem Mem.get_set (m : Mem) (a i : Nat) (b : Byte) : Mem.get (Mem.set m a b) i = if i = a then b else Mem.get m i := by
  unfold Mem.get Mem.set
  split
  · next hb =>
    rw [Tbl.get_del]
    split <;> simp_all
  · rw [Tbl.get_set]
    split <;> simp

/-- A byte after bytes are written: outside them nothing changes. -/
theorem Mem.get_write (m : Mem) (a i : Nat) (bs : List Byte) :
    Mem.get (Mem.write m a bs) i = if a ≤ i ∧ i < a + bs.length then (bs[i - a]?).getD 0 else Mem.get m i := by
  induction bs generalizing m a with
  | nil => simp only [Mem.write, List.length_nil, Nat.add_zero]; rw [if_neg (by omega)]
  | cons b bs ih =>
    simp only [Mem.write]
    rw [ih, get_set]
    by_cases hi : i = a
    · subst hi
      rw [if_neg (by omega), if_pos rfl, if_pos (by simp)]
      simp
    · rw [if_neg hi]
      simp only [List.length_cons]
      by_cases hc : a + 1 ≤ i ∧ i < a + 1 + bs.length
      · rw [if_pos hc, if_pos (by omega)]
        obtain ⟨n, hn⟩ : ∃ n, i - a = n + 1 := ⟨i - a - 1, by omega⟩
        rw [show i - (a + 1) = n by omega, hn, List.getElem?_cons_succ]
      · rw [if_neg hc, if_neg (by omega)]

/-- Reading back what was written. -/
theorem Mem.read_write (m : Mem) (a : Nat) (bs : List Byte) : Mem.read (Mem.write m a bs) a bs.length = bs := by
  apply List.ext_getElem
  · simp [Mem.read]
  · intro i h1 h2
    simp only [Mem.read, List.getElem_map, List.getElem_range]
    rw [get_write, if_pos (by omega), Nat.add_sub_cancel_left]
    simp [h2]

end Sys2Proof.Machine
end

