-- ==== Sys2Proof/Laws/Ops.lean ====
section
/-! SUPPORT. The laws of the named operations: register files, registers of plies and threads, program counters. -/

namespace Sys2Proof.Machine

/-! ## Register files -/

/-- A register after another is put. -/
theorem Regs.reg_put (r : Regs) (n i : Nat) (x : Reg) : Regs.reg (Regs.put r n x) i = if i = n then x else Regs.reg r i := by
  unfold Regs.reg Regs.put
  split
  · next h => rw [Tbl.get_del]; split <;> simp_all
  · rw [Tbl.get_set]; split <;> simp

/-- A register after words are written to consecutive registers (R33). -/
theorem Regs.reg_write (r : Regs) (n i : Nat) (ws : List Word) :
    Regs.reg (Regs.write r n ws) i = if n ≤ i ∧ i < n + ws.length then Reg.write ((ws[i - n]?).getD 0) else Regs.reg r i := by
  induction ws generalizing r n with
  | nil => simp only [Regs.write, List.length_nil, Nat.add_zero]; rw [if_neg (by omega)]
  | cons w ws ih =>
    simp only [Regs.write]
    rw [ih, reg_put]
    by_cases hi : i = n
    · subst hi
      rw [if_neg (by omega), if_pos rfl, if_pos (by simp)]
      simp
    · rw [if_neg hi]
      simp only [List.length_cons]
      by_cases hc : n + 1 ≤ i ∧ i < n + 1 + ws.length
      · rw [if_pos hc, if_pos (by omega)]
        obtain ⟨m, hm⟩ : ∃ m, i - n = m + 1 := ⟨i - n - 1, by omega⟩
        rw [show i - (n + 1) = m by omega, hm, List.getElem?_cons_succ]
      · rw [if_neg hc, if_neg (by omega)]

/-! ## Plies -/

theorem State.ply?_setPly (s : State) (pid q : Nat) (p : Ply) : (s.setPly pid p).ply? q = if q = pid then some p else s.ply? q := by
  simp [State.ply?, Tbl.get_set]

theorem State.ply?_updPly (s : State) (pid q : Nat) (f : Ply → Ply) :
    (s.updPly pid f).ply? q = if q = pid then (s.ply? pid).map f else s.ply? q := by
  simp [State.ply?, Tbl.get_upd]

@[simp] theorem State.ply?_updSkein (s : State) (k q : Nat) (f : Skein → Skein) : (s.updSkein k f).ply? q = s.ply? q := rfl
@[simp] theorem State.ply?_updThreads (s : State) (k q : Nat) (l : List Nat) (f : Nat → Thread → Thread) :
    (s.updThreads k l f).ply? q = s.ply? q := rfl
@[simp] theorem State.ply?_setPc (s : State) (p : Ply) (m : Mask) (pc : Addr) (q : Nat) : (s.setPc p m pc).ply? q = s.ply? q := rfl

/-! ## Threads -/

@[simp] theorem State.thread_setPly (s : State) (pid sk tid : Nat) (p : Ply) : (s.setPly pid p).thread sk tid = s.thread sk tid := rfl
@[simp] theorem State.thread_updPly (s : State) (pid sk tid : Nat) (f : Ply → Ply) : (s.updPly pid f).thread sk tid = s.thread sk tid := rfl

theorem Tbl.get_mapIf {α : Type} (t : Tbl α) (c : Nat → Bool) (f : Nat → α → α) (i : Nat) :
    Tbl.get (t.map fun e => if c e.1 then (e.1, f e.1 e.2) else e) i = (Tbl.get t i).map fun x => if c i then f i x else x := by
  induction t with
  | nil => simp [Tbl.get]
  | cons e t ih =>
    obtain ⟨j, y⟩ := e
    simp only [List.map_cons]
    by_cases hj : j = i
    · subst hj; by_cases hc : c j <;> simp [Tbl.get, hc]
    · by_cases hc : c j <;> simp [Tbl.get, hc, hj, ih]

/-- A thread after the threads of a list are changed. -/
theorem State.thread_updThreads (s : State) (k sk tid : Nat) (l : List Nat) (f : Nat → Thread → Thread) :
    (s.updThreads k l f).thread sk tid = (s.thread sk tid).map fun x => if sk = k ∧ l.contains tid = true then f tid x else x := by
  unfold State.thread State.updThreads
  simp only [State.updSkein_skeins, Tbl.get_upd]
  by_cases hk : sk = k
  · subst hk
    simp only [if_true, true_and]
    cases h : Tbl.get s.skeins sk with
    | none => simp
    | some K => simpa using Tbl.get_mapIf K.threads (fun i => l.contains i) f tid
  · simp only [hk, if_false, false_and]
    cases h : Tbl.get s.skeins sk with
    | none => simp
    | some K => simp

/-- A thread after PCs are set. -/
theorem State.thread_setPc (s : State) (p : Ply) (m : Mask) (pc : Addr) (sk tid : Nat) :
    (s.setPc p m pc).thread sk tid = (s.thread sk tid).map fun x =>
      if sk = p.skein ∧ ((p.threadsOf m).map Prod.snd).contains tid = true then { x with pc := pc } else x := by
  unfold State.setPc
  rw [thread_updThreads]

/-- A skein after the threads of a list are changed. -/
theorem State.skein_updThreads (s : State) (k i : Nat) (l : List Nat) (f : Nat → Thread → Thread) :
    ((s.updThreads k l f).skeins.get i).map (fun x => { x with threads := [] }) =
      (s.skeins.get i).map fun x => { x with threads := [] } := by
  unfold State.updThreads
  simp only [State.updSkein_skeins, Tbl.get_upd]
  split
  · next h => subst h; cases Tbl.get s.skeins i <;> simp
  · rfl

end Sys2Proof.Machine
end

