-- ==== Sys2Proof/Laws/Flow.lean ====
section
/-! SUPPORT. What sequencing can change: popping and switching of parts (R91, R92), the closing of a handler (R227) and retirement move
plies and threads, and change nothing else. -/

namespace Sys2Proof.Machine

theorem Retires.refl (pid : Nat) (s : State) : Retires pid s s := ⟨rfl, fun _ _ => rfl, rfl, fun _ => rfl, fun _ _ => rfl⟩

theorem Retires.trans {pid : Nat} {s t u : State} (h : Retires pid s t) (g : Retires pid t u) : Retires pid s u := by
  obtain ⟨h1, h2, h3, h4, h5⟩ := h
  obtain ⟨g1, g2, g3, g4, g5⟩ := g
  refine ⟨?_, fun q hq => (g2 q hq).trans (h2 q hq), g3.trans h3, fun k => (g4 k).trans (h4 k), fun a b => (g5 a b).trans (h5 a b)⟩
  rw [← h1, ← g1]

/-- Setting the PCs of threads moves the ply. -/
theorem Retires.updThreads {pid : Nat} (s : State) (k : Nat) (l : List Nat) (f : Nat → Thread → Thread)
    (hf : ∀ i x, (f i x).still = x.still) : Retires pid s (s.updThreads k l f) := by
  refine ⟨rfl, fun _ _ => rfl, rfl, fun i => State.skein_updThreads .., fun a b => ?_⟩
  rw [State.thread_updThreads]
  cases s.thread a b with
  | none => rfl
  | some x => simp only [Option.map_some]; split <;> simp [hf]

theorem Retires.setPc {pid : Nat} (s : State) (p : Ply) (m : Mask) (pc : Addr) : Retires pid s (s.setPc p m pc) :=
  .updThreads _ _ _ _ fun _ _ => rfl

/-- Changing what `Ply.still` leaves out moves the ply. -/
theorem Retires.updPly (pid : Nat) (s : State) (f : Ply → Ply) (hf : ∀ p, (f p).still = p.still) : Retires pid s (s.updPly pid f) := by
  refine ⟨rfl, fun q hq => ?_, ?_, fun _ => rfl, fun _ _ => rfl⟩
  · simp [State.ply?_updPly, hq]
  · rw [State.ply?_updPly]
    cases s.ply? pid <;> simp [hf]

theorem Retires.setPly {pid : Nat} {s : State} {p q : Ply} (h : s.ply? pid = some p) (hq : q.still = p.still) :
    Retires pid s (s.setPly pid q) := by
  refine ⟨rfl, fun i hi => ?_, ?_, fun _ => rfl, fun _ _ => rfl⟩
  · simp [State.ply?_setPly, hi]
  · simp [State.ply?_setPly, h, hq]

theorem Ply.still_setEnts (p : Ply) (es : List DEntry) : (p.setEnts es).still = p.still := by
  unfold Ply.setEnts; split <;> rfl

/-- ERET's return moves the ply. -/
theorem Retires.returnTrap (pid : Nat) (s : State) : Retires pid s (s.returnTrap pid) := by
  unfold State.returnTrap
  split
  · exact .refl ..
  · next p h =>
    exact Retires.trans (Retires.setPly (q := { p with hnd := none }) h rfl) (Retires.setPc ..)

/-- Parks, pops and the closing of a handler move the ply. -/
theorem Retires.settle (move : Bool) (fuel pid : Nat) (s : State) : Retires pid s (settle move fuel s pid) := by
  induction fuel generalizing s with
  | zero => exact .refl ..
  | succ n ih =>
    unfold Sys2Proof.Machine.settle
    split
    · exact .refl ..
    next p hp =>
    dsimp only
    split
    · split
      · exact (Retires.returnTrap pid s).trans (ih _)
      · exact .refl ..
    next i _ =>
    split
    · exact .refl ..
    next e0 _ =>
    split
    · exact .refl ..
    split
    · exact .refl ..
    next q _ =>
    split
    · split
      · exact .refl ..
      · exact Retires.setPly hp (Ply.still_setEnts ..)
    split
    · exact (Retires.setPly hp (Ply.still_setEnts ..)).trans (ih _)
    split
    · exact .refl ..
    · exact (Retires.setPly hp (Ply.still_setEnts ..)).trans (ih _)

theorem Retires.settlePly (pid : Nat) (s : State) : Retires pid s (s.settlePly pid) := by
  unfold State.settlePly
  split
  · exact .refl ..
  · exact .settle ..

theorem Retires.popPly (pid : Nat) (s : State) : Retires pid s (s.popPly pid) := by
  unfold State.popPly
  split
  · exact .refl ..
  · exact .settle ..

/-- Switching parts moves the ply (R92). -/
theorem Retires.switchPart (pid : Nat) (s : State) : Retires pid s (s.switchPart pid) := by
  unfold State.switchPart
  split
  · exact .refl ..
  next p hp =>
  dsimp only
  split
  · exact .refl ..
  · exact Retires.setPly hp (Ply.still_setEnts ..)

theorem Retires.retired (pid : Nat) (s : State) (sp : Spec) : Retires pid s (retired s pid sp) :=
  Retires.updPly pid s (fun p => { p with
    starve := 0, yld := sp.yld, wait := none, ripe := false, hold := if sp.jw = 0 then none else some (2 * sp.jw) }) fun _ => rfl

/-- Retirement moves the ply (R39, R87). -/
theorem Retires.retire (pid : Nat) (s : State) (sp : Spec) : Retires pid s (retire s pid sp) :=
  (Retires.retired ..).trans (Retires.settlePly ..)

/-! ## Where the lanes stand -/

/-- Sequencing of a ply that runs no handler keeps every PC: it opens no handler, and only closing one sets PCs. -/
theorem settle_keeps_pcs (move : Bool) (fuel pid : Nat) (s : State) (h : ∀ p, s.ply? pid = some p → p.hnd = none) :
    (settle move fuel s pid).skeins = s.skeins := by
  induction fuel generalizing s with
  | zero => rfl
  | succ n ih =>
    unfold settle
    split
    · rfl
    next p hp =>
    have hn := h p hp
    have hset : ∀ es q, (s.setPly pid (p.setEnts es)).ply? pid = some q → q.hnd = none := by
      intro es q hq
      simp only [State.ply?_setPly, if_true, Option.some.injEq] at hq
      subst hq
      simp [Ply.setEnts, hn]
    dsimp only
    split
    · simp [hn]
    next i _ =>
    split
    · rfl
    next e0 _ =>
    split
    · rfl
    split
    · rfl
    next q _ =>
    split
    · split <;> rfl
    split
    · rw [ih _ (hset _)]; rfl
    split
    · rfl
    · rw [ih _ (hset _)]; rfl

theorem settlePly_keeps_pcs (pid : Nat) (s : State) (h : ∀ p, s.ply? pid = some p → p.hnd = none) :
    (s.settlePly pid).skeins = s.skeins := by
  unfold State.settlePly
  split
  · rfl
  · exact settle_keeps_pcs _ _ _ _ h

theorem retire_keeps_pcs (pid : Nat) (s : State) (sp : Spec) (h : ∀ p, s.ply? pid = some p → p.hnd = none) :
    (retire s pid sp).skeins = s.skeins := by
  unfold retire
  rw [settlePly_keeps_pcs]
  · rfl
  · intro p hp
    rw [retired, State.ply?_updPly, if_pos rfl] at hp
    cases hq : s.ply? pid with
    | none => simp [hq] at hp
    | some q => simp [hq] at hp; subst hp; exact h q hq

end Sys2Proof.Machine
end

