-- ==== Sys2Proof/Laws/Issue.lean ====
section
/-! SUPPORT. The laws of issue: when an instruction's effect runs, every way an issue can end, and what retirement makes of an effect. -/

namespace Sys2Proof.Machine

/-- An instruction that issues in s and executes in u has its effect in u (R31, R32, R36, R61, R86). -/
theorem issue_executesFrom {sp : Spec} {early : Env → State → Pre} {s u : State} {e : Env} (body : Env → State → Res)
    (h : ExecutesFrom sp early s u e) : issue sp early body s = .next (finish e sp (body e u)) := by
  obtain ⟨⟨h1, h2, h3, h4, h5⟩, g5, ⟨c1, c2, c3⟩, r1, r2, r3⟩ := h
  obtain ⟨pid, p, pc, act, ex⟩ := e
  dsimp only at *
  subst h3 h4
  unfold issue
  rw [h1]
  dsimp only
  rw [h2]
  dsimp only
  rw [c1]
  dsimp only [minCause]
  rw [c2]
  unfold issueRest
  dsimp only
  rw [← g5, c3, r2, r3]
  simp

/-- An instruction that executes has its effect (R31, R32, R36, R61, R86). -/
theorem issue_executes {sp : Spec} {early : Env → State → Pre} {s : State} {e : Env} (body : Env → State → Res)
    (h : Executes sp early s e) : issue sp early body s = .next (finish e sp (body e s)) := issue_executesFrom body h

/-- Every way an issue ends: a next state that `finish` makes of one of the results, in s or in the state that its early checks leave, or no
ply is issuing. -/
theorem issue_ends (sp : Spec) (early : Env → State → Pre) (body : Env → State → Res) (s : State) :
    issue sp early body s = .fault .noIssuingPly ∧ (s.sel = none ∨ ∃ pid, s.sel = some pid ∧ s.ply? pid = none) ∨
    ∃ pid p, s.sel = some pid ∧ s.ply? pid = some p ∧ ∃ ex r u,
      issue sp early body s = .next (finish { pid := pid, p := p, pc := s.plyPc p, act := p.active, exec := ex } sp r) ∧
      (u = s ∨ early { pid := pid, p := p, pc := s.plyPc p, act := p.active, exec := 0 } s = .go u ∨
        early { pid := pid, p := p, pc := s.plyPc p, act := p.active, exec := 0 } s = .stall u) ∧
      ((∃ t, r = .trap u t) ∨ r = .switch u ∨ r = .stall u ∨
        r = body { pid := pid, p := p, pc := s.plyPc p, act := p.active, exec := ex } u) := by
  unfold issue
  split
  · next h => exact .inl ⟨rfl, .inl h⟩
  next pid hs =>
  split
  · next h => exact .inl ⟨rfl, .inr ⟨pid, hs, h⟩⟩
  next p hp =>
  refine .inr ⟨pid, p, hs, hp, ?_⟩
  dsimp only
  split
  · exact ⟨_, _, s, rfl, .inl rfl, .inl ⟨_, rfl⟩⟩
  split
  · exact ⟨_, _, s, rfl, .inl rfl, .inl ⟨_, rfl⟩⟩
  · next u hu => exact ⟨_, _, u, rfl, .inr (.inr hu), .inr (.inr (.inl rfl))⟩
  · next u hu =>
    unfold issueRest
    dsimp only
    split
    · exact ⟨_, _, u, rfl, .inr (.inl hu), .inl ⟨_, rfl⟩⟩
    · exact ⟨_, _, u, rfl, .inr (.inl hu), .inr (.inl rfl)⟩
    split
    · exact ⟨_, _, u, rfl, .inr (.inl hu), .inr (.inr (.inl rfl))⟩
    · exact ⟨_, _, u, rfl, .inr (.inl hu), .inr (.inr (.inr rfl))⟩

/-- A ply that issues always reaches a next state. -/
theorem issue_next (sp : Spec) (early : Env → State → Pre) (body : Env → State → Res) {s : State} {pid : Nat} {p : Ply}
    (h : s.sel = some pid) (hp : s.ply? pid = some p) : ∃ t, issue sp early body s = .next t := by
  rcases issue_ends sp early body s with ⟨_, h' | ⟨q, hq, hn⟩⟩ | ⟨_, _, _, _, ex, r, u, hr, _⟩
  · simp [h] at h'
  · rw [h] at hq; cases hq; simp [hp] at hn
  · exact ⟨_, hr⟩

/-- Without an issuing ply the instruction stops. -/
theorem issue_none (sp : Spec) (early : Env → State → Pre) (body : Env → State → Res) {s : State} (h : s.sel = none) :
    issue sp early body s = .fault .noIssuingPly := by
  unfold issue; rw [h]

/-! ## Retirement -/

/-- What an effect leaves is kept by retiring at the next instruction. -/
theorem finish_done (e : Env) (sp : Spec) (t : State) : Retires e.pid t (finish e sp (.done t)) :=
  Retires.trans (Retires.setPc t e.p e.act (e.pc + BitVec.ofNat 56 sp.size)) (Retires.retire ..)

theorem finish_moved (e : Env) (sp : Spec) (t : State) : Retires e.pid t (finish e sp (.moved t)) := Retires.retire ..

theorem Retires.yielded (e : Env) (sp : Spec) (t : State) : Retires e.pid t (yielded e sp t) :=
  Retires.trans (Retires.setPc t e.p e.act (e.pc + BitVec.ofNat 56 sp.size)) <|
    (Retires.retired ..).trans (Retires.popPly ..)

/-- A YIELD retires, unless it waits for an entry to come back on chip (R92, R94). -/
theorem finish_yield (e : Env) (sp : Spec) (t : State) (h : (yielded e sp t).switchDue e.pid = none ∨ e.p.wait.isSome = true) :
    Retires e.pid t (finish e sp (.yield t)) := by
  have g := Retires.trans (Retires.yielded e sp t) (Retires.trans (Retires.switchPart e.pid _) (Retires.settlePly ..))
  unfold finish
  dsimp only
  split
  · next h1 h2 => simp [h1, h2] at h
  · exact g

theorem finish_hold (e : Env) (sp : Spec) (t : State) : Retires e.pid t (finish e sp (.hold t)) :=
  Retires.updPly e.pid t _ fun _ => rfl

/-- A nap retires at the next instruction, and the ply then waits out its slots (R126). -/
theorem finish_nap (e : Env) (sp : Spec) (t : State) (n : Nat) :
    finish e sp (.nap t n) = (finish e sp (.done t)).updPly e.pid fun p => { p with wait := some (.sleep n) } := rfl

/-- The active lanes stand at the next instruction. -/
theorem setPc_standAt (s : State) (p : Ply) (m : Mask) (pc : Addr) : StandAt p m pc (s.setPc p m pc) := by
  intro x hx th hth
  rw [State.thread_setPc] at hth
  cases h : s.thread p.skein x.2 with
  | none => simp [h] at hth
  | some y =>
    rw [h, Option.map_some, Option.some.injEq, if_pos] at hth
    · subst hth; rfl
    · refine ⟨rfl, ?_⟩
      rw [List.contains_iff_mem]
      exact List.mem_map_of_mem hx

/-- An effect that runs no handler and retires goes on to the next instruction. -/
theorem finish_done_advances (e : Env) (sp : Spec) (t : State) (h : ∀ p, t.ply? e.pid = some p → p.hnd = e.p.hnd) :
    Advances e sp.size (finish e sp (.done t)) := by
  intro hn x hx th hth
  have hk : (finish e sp (.done t)).skeins = (t.setPc e.p e.act (e.pc + BitVec.ofNat 56 sp.size)).skeins :=
    retire_keeps_pcs _ _ _ fun p hp => (h p hp).trans hn
  unfold State.thread at hth
  rw [hk] at hth
  exact setPc_standAt t e.p e.act _ x hx th hth

end Sys2Proof.Machine
end

