-- ==== Sys2Proof/Laws/Operands.lean ====
section
/-! SUPPORT. The laws of destinations (R33, R112): what `writeD` leaves in every register of every thread and ply. -/

namespace Sys2Proof.Machine

/-- A fold of changes of single entries, at one key: the changes that name it, in order. -/
theorem Tbl.get_foldl_upd {α β : Type} (xs : List β) (key : β → Nat) (g : β → α → α) (t : Tbl α) (i : Nat) :
    Tbl.get (xs.foldl (fun t x => Tbl.upd t (key x) (g x)) t) i =
      (Tbl.get t i).map fun a => (xs.filter fun x => key x == i).foldl (fun a x => g x a) a := by
  induction xs generalizing t with
  | nil => simp
  | cons x xs ih =>
    rw [List.foldl_cons, ih, get_upd]
    by_cases h : i = key x
    · subst h; cases Tbl.get t (key x) <;> simp
    · rw [if_neg h, List.filter_cons_of_neg (by simpa using Ne.symm h)]

/-- Writing several times to one range of registers leaves the last words; other registers stay. -/
theorem reg_foldl_write {β : Type} (xs : List β) (n m : Nat) (w : β → List Word) (hw : ∀ x ∈ xs, (w x).length = m) (t : Thread) (i : Nat) :
    Regs.reg (xs.foldl (fun (t : Thread) x => { t with regs := t.regs.write n (w x) }) t).regs i =
      match xs.getLast? with
      | some x => if n ≤ i ∧ i < n + m then Reg.write (((w x)[i - n]?).getD 0) else Regs.reg t.regs i
      | none => Regs.reg t.regs i := by
  induction xs generalizing t with
  | nil => simp
  | cons x xs ih =>
    rw [List.foldl_cons, ih (fun y hy => hw y (by simp [hy]))]
    cases xs with
    | nil => simp [Regs.reg_write, hw x (by simp)]
    | cons y ys =>
      rw [List.getLast?_cons_cons]
      cases h : (y :: ys).getLast? with
      | none => simp at h
      | some z =>
        dsimp only
        split
        · rfl
        · next hr => rw [Regs.reg_write, hw x (by simp), if_neg hr]

/-- The other fields of a thread that is written. -/
theorem still_foldl_write {β : Type} (xs : List β) (n : Nat) (w : β → List Word) (t : Thread) :
    { (xs.foldl (fun (t : Thread) x => { t with regs := t.regs.write n (w x) }) t) with regs := t.regs } = t := by
  induction xs generalizing t with
  | nil => rfl
  | cons x xs ih =>
    rw [List.foldl_cons]
    have := ih { t with regs := t.regs.write n (w x) }
    generalize xs.foldl _ _ = u at this ⊢
    obtain ⟨a, b, c, d⟩ := u
    obtain ⟨a', b', c', d'⟩ := t
    simp_all

theorem lanesOf_sorted (m : Mask) : (lanesOf m).Pairwise (· < ·) := List.Pairwise.filter _ List.pairwise_lt_range

theorem threadsOf_sorted (p : Ply) (m : Mask) : (p.threadsOf m).Pairwise fun a b => a.1 < b.1 := by
  unfold Ply.threadsOf
  refine List.Pairwise.filterMap _ ?_ (lanesOf_sorted m)
  intro a a' h b hb c hc
  cases ha : p.tidAt a <;> simp_all
  cases ha' : p.tidAt a' <;> simp_all
  subst hb hc; exact h

theorem mem_threadsOf {p : Ply} {m : Mask} {l tid : Nat} : (l, tid) ∈ p.threadsOf m ↔ l ∈ lanesOf m ∧ p.tidAt l = some tid := by
  unfold Ply.threadsOf
  rw [List.mem_filterMap]
  constructor
  · rintro ⟨a, ha, h⟩
    cases hp : p.tidAt a <;> simp_all
  · rintro ⟨ha, h⟩
    exact ⟨l, ha, by simp [h]⟩

/-- The last pair of a thread in a mask is that of its highest lane. -/
theorem last_of_lane {p : Ply} {m : Mask} {l tid : Nat} (h : LaneOf p m l tid) :
    ((p.threadsOf m).filter fun x => x.2 == tid).getLast? = some (l, tid) := by
  have hs := List.Pairwise.filter (fun x : Nat × Nat => x.2 == tid) (threadsOf_sorted p m)
  have hm : (l, tid) ∈ (p.threadsOf m).filter fun x => x.2 == tid := by simp [h.1]
  generalize hq : (p.threadsOf m).filter (fun x => x.2 == tid) = xs at hs hm ⊢
  have hall : ∀ x ∈ xs, x.2 = tid ∧ x.1 ≤ l := by
    intro x hx
    rw [← hq, List.mem_filter] at hx
    have h2 : x.2 = tid := by simpa using hx.2
    exact ⟨h2, h.2 x.1 (by rw [← h2]; exact hx.1)⟩
  cases hl : xs.getLast? with
  | none => simp [List.getLast?_eq_none_iff] at hl; subst hl; simp at hm
  | some y =>
    have hy : y ∈ xs := List.mem_of_getLast? hl
    obtain ⟨hy2, hy1⟩ := hall y hy
    obtain ⟨init, hi⟩ : ∃ i, xs = i ++ [y] := by
      rw [List.getLast?_eq_some_iff] at hl; exact hl
    subst hi
    rw [List.pairwise_append] at hs
    rcases List.mem_append.mp hm with hm | hm
    · have := hs.2.2 _ hm y (by simp)
      dsimp only at this
      omega
    · simp at hm; rw [hm]

/-- A thread that no executing lane holds is not among those written. -/
theorem none_of_no_lane {p : Ply} {m : Mask} {tid : Nat} (h : ∀ l, (l, tid) ∉ p.threadsOf m) :
    ((p.threadsOf m).filter fun x => x.2 == tid) = [] := by
  rw [List.filter_eq_nil_iff]
  intro x hx hc
  have : x.2 = tid := by simpa using hc
  exact h x.1 (by rw [← this]; exact hx)

/-! ## writeD -/

theorem writeD_v (s : State) (e : Env) (n : Nat) (sc : List Word) (lane : Nat → List Word) (sk tid : Nat) :
    (writeD s e (.v n) sc lane).thread sk tid = (s.thread sk tid).map fun t =>
      if sk = e.p.skein then ((e.p.threadsOf e.exec).filter fun x => x.2 == tid).foldl
        (fun (t : Thread) x => { t with regs := t.regs.write n (lane x.1) }) t else t := by
  unfold writeD State.thread
  simp only [State.updSkein_skeins, Tbl.get_upd]
  by_cases h : sk = e.p.skein
  · subst h
    simp only [if_true]
    cases hk : Tbl.get s.skeins e.p.skein with
    | none => simp
    | some K =>
      simp only [Option.map_some, Option.bind_some]
      exact Tbl.get_foldl_upd (e.p.threadsOf e.exec) Prod.snd (fun x (t : Thread) => { t with regs := t.regs.write n (lane x.1) }) K.threads tid
  · simp only [if_neg h]
    cases Tbl.get s.skeins sk <;> simp

/-- A v destination (R33, R112): in each executing lane's thread the destination registers hold the lane's words. -/
theorem vReg_writeD {s : State} {e : Env} {n m l tid : Nat} {sc : List Word} {lane : Nat → List Word}
    (hw : ∀ x ∈ e.p.threadsOf e.exec, (lane x.1).length = m) (h : LaneOf e.p e.exec l tid) {th : Thread}
    (ht : s.thread e.p.skein tid = some th) (i : Nat) :
    (writeD s e (.v n) sc lane).vReg e.p.skein tid i =
      if n ≤ i ∧ i < n + m then Reg.write (((lane l)[i - n]?).getD 0) else s.vReg e.p.skein tid i := by
  unfold State.vReg
  rw [writeD_v, ht]
  simp only [Option.map_some, if_true]
  rw [reg_foldl_write _ n m (fun x => lane x.1) (fun x hx => hw x (List.mem_filter.mp hx |>.1)), last_of_lane h]

/-- Every other v register of every thread stays (R33, R112). -/
theorem vReg_writeD_other {s : State} {e : Env} {n m sk tid i : Nat} {sc : List Word} {lane : Nat → List Word}
    (hw : ∀ x ∈ e.p.threadsOf e.exec, (lane x.1).length = m)
    (h : sk ≠ e.p.skein ∨ (∀ l, (l, tid) ∉ e.p.threadsOf e.exec) ∨ ¬(n ≤ i ∧ i < n + m)) :
    (writeD s e (.v n) sc lane).vReg sk tid i = s.vReg sk tid i := by
  unfold State.vReg
  rw [writeD_v]
  cases ht : s.thread sk tid with
  | none => rfl
  | some th =>
    simp only [Option.map_some]
    split
    · next hk =>
      rw [reg_foldl_write _ n m (fun x => lane x.1) (fun x hx => hw x (List.mem_filter.mp hx |>.1))]
      rcases h with h | h | h
      · exact absurd hk h
      · rw [none_of_no_lane h]; rfl
      · split
        · rw [if_neg h]
        · rfl
    · rfl

end Sys2Proof.Machine
end

