-- ==== Sys2Proof/Laws/Alu.lean ====
section
/-! SUPPORT. The laws of instructions that compute: what writing s registers leaves, what retirement keeps of registers, and the whole
effect of the arithmetic classes (R111, R112, R74, R80). -/

namespace Sys2Proof.Machine

/-! ## What retirement keeps -/

theorem Retires.vReg {pid : Nat} {s t : State} (h : Retires pid s t) (sk tid n : Nat) : t.vReg sk tid n = s.vReg sk tid n := by
  have h5 := h.2.2.2.2 sk tid
  unfold State.vReg
  cases hs : s.thread sk tid <;> cases ht : t.thread sk tid <;> simp [hs, ht] at h5 ⊢
  have := congrArg Thread.regs h5
  simp [Thread.still] at this
  rw [this]

theorem Retires.stacks {pid : Nat} {s t : State} (h : Retires pid s t) : SameStacks s t := by
  intro sk tid
  have h5 := h.2.2.2.2 sk tid
  cases hs : s.thread sk tid <;> cases ht : t.thread sk tid <;> simp [hs, ht] at h5 ⊢
  have := congrArg Thread.ra h5
  have h6 := congrArg Thread.rsn h5
  simp [Thread.still] at this h6
  simp [this, h6]

/-- A ply's s registers depend on its own file, its skein's and which skein it is. -/
theorem sRegOf_congr {s t : State} {q : Nat}
    (hp : (t.ply? q).map (fun p => (p.skein, p.sregs)) = (s.ply? q).map fun p => (p.skein, p.sregs))
    (hk : ∀ k, (t.skeins.get k).map Skein.sregs = (s.skeins.get k).map Skein.sregs) (n : Nat) : t.sRegOf q n = s.sRegOf q n := by
  unfold State.sRegOf
  cases hs : s.ply? q <;> cases ht : t.ply? q <;> simp [hs, ht] at hp ⊢
  next p p' =>
  obtain ⟨h1, h2⟩ := hp
  unfold State.sReg
  rw [h1, h2]
  have := hk p.skein
  cases h3 : s.skeins.get p.skein <;> cases h4 : t.skeins.get p.skein <;> simp [h3, h4] at this ⊢
  rw [this]

theorem Retires.plyPart {pid : Nat} {s t : State} {α : Type} (h : Retires pid s t) (f : Ply → α) (hf : ∀ p, f p.still = f p) (q : Nat) :
    (t.ply? q).map f = (s.ply? q).map f := by
  by_cases hq : q = pid
  · subst hq
    have h3 := h.2.2.1
    cases hs : s.ply? q <;> cases ht : t.ply? q <;> simp [hs, ht] at h3 ⊢
    rw [← hf, h3, hf]
  · rw [h.2.1 q hq]

theorem Retires.sRegOf {pid : Nat} {s t : State} (h : Retires pid s t) (q n : Nat) : t.sRegOf q n = s.sRegOf q n := by
  refine sRegOf_congr (h.plyPart (fun p => (p.skein, p.sregs)) (fun _ => rfl) q) (fun k => ?_) n
  have h4 := h.2.2.2.1 k
  cases hs : s.skeins.get k <;> cases ht : t.skeins.get k <;> simp [hs, ht] at h4 ⊢
  exact h4.2.2.2.1

theorem KeepsPly.still {p q r : Ply} (h : KeepsPly p q) (hr : r.still = q.still) : KeepsPly p r := by
  unfold KeepsPly at *
  have g (f : Ply → Nat) (hf : ∀ p : Ply, f p.still = f p) : f r = f q := by rw [← hf, hr, hf]
  obtain ⟨h1, h2, h3, h4, h5, h6, h7, h8, h9, h10, h11, h12, h13⟩ := h
  simp only [Ply.still, Ply.mk.injEq] at hr
  obtain ⟨a1, a2, a3, a4, a5, a6, a7, a8, a9, a10, a11, a12, a13, a14, a15, a16, a17, a18, a19, a20, a21, a22, a23⟩ := hr
  simp_all

/-- What retirement keeps of the state and the memory. -/
theorem OnlyPlies.of_eq {s t : State} (h : { t with plies := s.plies, skeins := s.skeins } = s) : OnlyPlies s t := by
  refine ⟨h, ?_⟩
  have e : ∀ {α : Type} (f : State → α), (∀ u p k, f { u with plies := p, skeins := k } = f u) → f t = f s := by
    intro α f hf
    rw [← hf t s.plies s.skeins, h]
  refine ⟨fun a => ?_, fun a => ?_, ?_, ?_, ?_, ?_, ?_, ?_⟩
  · rw [e State.hbm fun _ _ _ => rfl]
  · rw [e State.ls fun _ _ _ => rfl]
  · exact e State.chk fun _ _ _ => rfl
  · exact e State.lsPoison fun _ _ _ => rfl
  · exact e State.mc fun _ _ _ => rfl
  · exact e State.l1 fun _ _ _ => rfl
  · exact e State.wcb fun _ _ _ => rfl
  · exact e State.slices fun _ _ _ => rfl

/-! ## s registers -/

/-- What a write of s registers keeps besides them. -/
def SameButS (pid : Nat) (s t : State) : Prop :=
  { t with plies := s.plies, skeins := s.skeins } = s ∧ OtherPlies pid s t ∧
  (t.ply? pid).map (fun p => { p with sregs := [] }) = (s.ply? pid).map (fun p => { p with sregs := [] }) ∧
  ∀ k, (t.skeins.get k).map (fun x => { x with sregs := [] }) = (s.skeins.get k).map fun x => { x with sregs := [] }

theorem SameButS.refl (pid : Nat) (s : State) : SameButS pid s s := ⟨rfl, fun _ _ => rfl, rfl, fun _ => rfl⟩

theorem SameButS.trans {pid : Nat} {s t u : State} (h : SameButS pid s t) (g : SameButS pid t u) : SameButS pid s u := by
  obtain ⟨h1, h2, h3, h4⟩ := h
  obtain ⟨g1, g2, g3, g4⟩ := g
  refine ⟨by rw [← h1, ← g1], fun q hq => (g2 q hq).trans (h2 q hq), g3.trans h3, fun k => (g4 k).trans (h4 k)⟩

theorem SameButS.updS (pid n : Nat) (f : Regs → Regs) (s : State) : SameButS pid s (s.updS pid n f) := by
  unfold State.updS
  split
  · exact .refl ..
  next p hp =>
  split
  · refine ⟨rfl, fun _ _ => rfl, rfl, fun k => ?_⟩
    simp only [State.updSkein_skeins, Tbl.get_upd]
    split
    · next h => subst h; cases Tbl.get s.skeins p.skein <;> simp
    · rfl
  · refine ⟨rfl, fun q hq => ?_, ?_, fun _ => rfl⟩
    · simp [State.ply?_setPly, hq]
    · simp [State.ply?_setPly, hp]

theorem SameButS.writeS (pid : Nat) (ws : List Word) (n : Nat) (s : State) : SameButS pid s (s.writeS pid n ws) := by
  induction ws generalizing n s with
  | nil => exact .refl ..
  | cons w ws ih => exact (SameButS.updS ..).trans (ih ..)

theorem SameButS.thread {pid : Nat} {s t : State} (h : SameButS pid s t) (sk tid : Nat) : t.thread sk tid = s.thread sk tid := by
  unfold State.thread
  have := h.2.2.2 sk
  cases hs : s.skeins.get sk <;> cases ht : t.skeins.get sk <;> simp [hs, ht] at this ⊢
  rw [this.2.2.2.1]

theorem SameButS.skein {pid : Nat} {s t : State} (h : SameButS pid s t) (k : Nat) : (t.skeins.get k).isSome = (s.skeins.get k).isSome := by
  have := h.2.2.2 k
  cases hs : s.skeins.get k <;> cases ht : t.skeins.get k <;> simp [hs, ht] at this ⊢

theorem SameButS.ply {pid : Nat} {s t : State} (h : SameButS pid s t) {q : Nat} {p : Ply} (hp : s.ply? q = some p) :
    ∃ p', t.ply? q = some p' ∧ { p' with sregs := p.sregs } = p := by
  by_cases hq : q = pid
  · subst hq
    have := h.2.2.1
    rw [hp] at this
    cases ht : t.ply? q with
    | none => simp [ht] at this
    | some p' =>
      refine ⟨p', rfl, ?_⟩
      rw [ht] at this
      simp only [Option.map_some, Option.some.injEq] at this
      obtain ⟨⟩ := p
      obtain ⟨⟩ := p'
      simp_all
  · exact ⟨p, by rw [h.2.1 q hq, hp], rfl⟩

theorem sRegOf_updS_other {pid n q i : Nat} {x : Reg} (s : State) (h : i ≠ n) :
    (s.updS pid n fun r => r.put n x).sRegOf q i = s.sRegOf q i := by
  unfold State.updS
  split
  · rfl
  next p hp =>
  split
  · unfold State.sRegOf State.sReg
    simp only [State.ply?_updSkein, State.updSkein_skeins, Tbl.get_upd]
    cases hq : s.ply? q with
    | none => rfl
    | some p' =>
      dsimp only
      by_cases hk : p'.skein = p.skein
      · rw [if_pos hk, ← hk]; cases Tbl.get s.skeins p'.skein <;> simp [Regs.reg_put, h]
      · rw [if_neg hk]
  · unfold State.sRegOf State.sReg
    simp only [State.ply?_setPly, State.setPly_skeins]
    by_cases hq : q = pid
    · subst hq; simp [hp, Regs.reg_put, h]
    · simp [hq]

theorem sRegOf_updS_same {pid n : Nat} {x : Reg} {s : State} {p : Ply} (hp : s.ply? pid = some p)
    (hk : (s.skeins.get p.skein).isSome = true) : (s.updS pid n fun r => r.put n x).sRegOf pid n = x := by
  unfold State.updS
  rw [hp]
  dsimp only
  split
  · next h =>
    unfold State.sRegOf State.sReg
    simp only [State.ply?_updSkein, hp, if_pos h, State.updSkein_skeins, Tbl.get_upd, if_true]
    cases hs : Tbl.get s.skeins p.skein with
    | none => simp [hs] at hk
    | some K => simp [Regs.reg_put]
  · next h =>
    unfold State.sRegOf State.sReg
    simp [State.ply?_setPly, if_neg h, Regs.reg_put]

theorem sRegOf_updS_elsewhere {pid n q i : Nat} {x : Reg} {s : State} {p p' : Ply} (hp : s.ply? pid = some p) (hq : s.ply? q = some p')
    (hne : q ≠ pid) (h : 32 ≤ i ∨ p'.skein ≠ p.skein) : (s.updS pid n fun r => r.put n x).sRegOf q i = s.sRegOf q i := by
  unfold State.updS
  rw [hp]
  dsimp only
  split
  · unfold State.sRegOf State.sReg
    simp only [State.ply?_updSkein, hq, State.updSkein_skeins, Tbl.get_upd]
    split
    · next h2 => rw [if_neg (h.resolve_left (by omega))]
    · rfl
  · unfold State.sRegOf State.sReg
    simp [State.ply?_setPly, hne]

/-- Writing consecutive s registers (R22, R33). -/
theorem writeS_result {pid : Nat} (ws : List Word) (n : Nat) (s : State) (p : Ply) (hp : s.ply? pid = some p) :
    (∀ i, (s.skeins.get p.skein).isSome = true → (hi : i < ws.length) → (s.writeS pid n ws).sRegOf pid (n + i) = Reg.write ws[i]) ∧
    (∀ q i, i < n ∨ n + ws.length ≤ i → (s.writeS pid n ws).sRegOf q i = s.sRegOf q i) ∧
    (∀ q p' i, s.ply? q = some p' → q ≠ pid → 32 ≤ i ∨ p'.skein ≠ p.skein → (s.writeS pid n ws).sRegOf q i = s.sRegOf q i) := by
  induction ws generalizing n s p with
  | nil => exact ⟨fun i _ hi => absurd hi (by simp), fun _ _ _ => rfl, fun _ _ _ _ _ _ => rfl⟩
  | cons w ws ih =>
    simp only [State.writeS]
    obtain ⟨p1, hp1, e1⟩ := (SameButS.updS pid n (fun r => r.put n (Reg.write w)) s).ply hp
    have hsk : p1.skein = p.skein := by rw [← e1]
    obtain ⟨a, b, c⟩ := ih (n + 1) _ p1 hp1
    refine ⟨fun i hk hi => ?_, fun q i hi => ?_, fun q p' i hq hne h => ?_⟩
    · cases i with
      | zero => exact (b pid n (by omega)).trans (sRegOf_updS_same hp hk)
      | succ i =>
        have := a i (by rw [hsk, (SameButS.updS ..).skein]; exact hk) (by simpa using hi)
        rw [show n + (i + 1) = n + 1 + i by omega, this]; rfl
    · rw [b q i (by simp only [List.length_cons] at hi; omega), sRegOf_updS_other]
      rcases hi with hi | hi
      · omega
      · simp only [List.length_cons] at hi; omega
    · obtain ⟨p2, hp2, e2⟩ := (SameButS.updS pid n (fun r => r.put n (Reg.write w)) s).ply hq
      have : p2.skein = p'.skein := by rw [← e2]
      rw [c q p2 i hp2 hne (by rw [this, hsk]; exact h), sRegOf_updS_elsewhere hp hq hne h]

/-! ## Destinations -/

/-- `WritesD` sees a state through its registers only. -/
theorem WritesD.congr {e : Env} {d : Operand} {k : Nat} {val : Nat → Nat} {s t u : State} (h : WritesD e d k val s t)
    (hv : ∀ a b n, u.vReg a b n = t.vReg a b n) (hs : ∀ q n, u.sRegOf q n = t.sRegOf q n) : WritesD e d k val s u := by
  unfold WritesD SameV SameS WritesV WritesS at *
  split at h <;> simpa only [hv, hs] using h

theorem getElem?_toWords (k x i : Nat) (h : i < k) : (toWords k x)[i]? = some (BitVec.ofNat 32 (x >>> (32 * i))) := by
  simp [toWords, List.getElem?_map, List.getElem?_range h]

theorem toWords_length (k x : Nat) : (toWords k x).length = k := by simp [toWords]

theorem head_lanes_mem {e : Env} (h : e.exec ≠ 0) : e.lanes.headD 0 ∈ e.lanes := by
  unfold Env.lanes
  cases hl : lanesOf e.exec with
  | cons a as => simp
  | nil =>
    exfalso; apply h
    unfold lanesOf at hl
    rw [List.filter_eq_nil_iff] at hl
    apply BitVec.eq_of_getLsbD_eq
    intro i hi
    have := hl i (by simpa using hi)
    simpa using this

theorem onlyPlies_trans {s t u : State} (h : { t with plies := s.plies, skeins := s.skeins } = s)
    (g : { u with plies := t.plies, skeins := t.skeins } = t) : { u with plies := s.plies, skeins := s.skeins } = s := by
  have : { u with plies := s.plies, skeins := s.skeins } = { { u with plies := t.plies, skeins := t.skeins } with
    plies := s.plies, skeins := s.skeins } := rfl
  rw [this, g, h]

/-- What an effect on the registers of one ply must keep for its instruction to compute and no more. -/
def Effected (e : Env) (fl : Flags) (rnd : Bool) (s t : State) : Prop :=
  { t with plies := s.plies, skeins := s.skeins } = s ∧ OtherPlies e.pid s t ∧ SameStacks s t ∧
  ∃ q, t.ply? e.pid = some q ∧ KeepsPly { e.p with csr := csrAfter e.p.csr fl rnd } q ∧ q.hnd = e.p.hnd

/-- Retiring such an effect. -/
theorem finish_computes {e : Env} {sp : Spec} {d : Operand} {k : Nat} {val : Nat → Nat} {fl : Flags} {rnd : Bool} {s u : State}
    (h : Effected e fl rnd s u) (hd : WritesD e d k val s u) : Computes e sp.size d k val fl rnd s (finish e sp (.done u)) := by
  obtain ⟨h1, h2, h3, q, hq, hk, hh⟩ := h
  have r := finish_done e sp u
  refine ⟨finish_done_advances e sp u (fun p hp => by rw [hq] at hp; cases hp; exact hh), .of_eq ?_, fun i hi => (r.2.1 i hi).trans (h2 i hi),
    fun a b => (r.stacks a b).trans (h3 a b), hd.congr (fun a b n => r.vReg a b n) (fun a n => r.sRegOf a n), ?_⟩
  · exact onlyPlies_trans h1 r.1
  · have h3' := r.2.2.1
    rw [hq] at h3'
    cases ht : State.ply? (finish e sp (.done u)) e.pid with
    | none => simp [ht] at h3'
    | some q' =>
      rw [ht] at h3'
      simp only [Option.map_some, Option.some.injEq] at h3'
      exact ⟨q', rfl, hk.still h3'⟩

/-- What raising flags and using the random counter do to the ply. -/
theorem raiseBump_facts (s : State) (pid : Nat) (fl : Flags) (rnd : Bool) {p : Ply} (hp : s.ply? pid = some p) :
    { ((s.raise pid fl).bumpRng pid rnd) with plies := s.plies } = s ∧ OtherPlies pid s ((s.raise pid fl).bumpRng pid rnd) ∧
    ((s.raise pid fl).bumpRng pid rnd).ply? pid = some { p with csr := csrAfter p.csr fl rnd } := by
  have hs : s.plies.get pid = some p := hp
  unfold State.raise State.bumpRng
  by_cases hf : fl = 0
  · cases rnd
    · simp only [hf, if_true, Bool.false_eq_true, if_false]
      exact ⟨trivial, fun q hq => rfl, by simp [hp, csrAfter, orFlags]⟩
    · simp only [hf, if_true]
      exact ⟨rfl, fun q hq => by simp [State.ply?_updPly, hq], by simp [State.ply?_updPly, hp, csrAfter, orFlags]⟩
  · cases rnd
    · simp only [hf, if_false, Bool.false_eq_true]
      exact ⟨rfl, fun q hq => by simp [State.ply?_updPly, hq], by simp [State.ply?_updPly, hp, csrAfter, orFlags]⟩
    · simp only [hf, if_false, if_true]
      exact ⟨rfl, fun q hq => by simp [State.ply?_updPly, hq], by simp [State.ply?_updPly, hp, csrAfter, orFlags]⟩

/-- Writing D, then raising flags and using the random counter: an effect on the registers of one ply (R33, R74, R80, R112). -/
theorem writeD_effected {s : State} {e : Env} (d : Operand) (k : Nat) (val : Nat → Nat) (fl : Flags) (rnd : Bool) (sc : List Word)
    (lane : Nat → List Word) (hp : s.ply? e.pid = some e.p)
    (hs : ∀ n, d = .s n → sc = toWords k (val (e.lanes.headD 0)))
    (hl : ∀ n, d = .v n → ∀ l, l ∈ e.lanes → lane l = toWords k (val l)) :
    Effected e fl rnd s (((writeD s e d sc lane).raise e.pid fl).bumpRng e.pid rnd) ∧
    WritesD e d k val s (((writeD s e d sc lane).raise e.pid fl).bumpRng e.pid rnd) := by
  have key : ∀ u : State, { u with plies := s.plies, skeins := s.skeins } = s → OtherPlies e.pid s u → SameStacks s u →
      (∃ q, u.ply? e.pid = some q ∧ { q with sregs := e.p.sregs } = e.p) →
      Effected e fl rnd s ((u.raise e.pid fl).bumpRng e.pid rnd) ∧
      (∀ a b n, ((u.raise e.pid fl).bumpRng e.pid rnd).vReg a b n = u.vReg a b n) ∧
      (∀ q n, ((u.raise e.pid fl).bumpRng e.pid rnd).sRegOf q n = u.sRegOf q n) := by
    rintro u h1 h2 h3 ⟨q, hq, hqe⟩
    obtain ⟨f1, f2, f3⟩ := raiseBump_facts u e.pid fl rnd hq
    have hsk : ((u.raise e.pid fl).bumpRng e.pid rnd).skeins = u.skeins := by
      have := congrArg State.skeins f1; exact this
    refine ⟨⟨onlyPlies_trans h1 ?_, fun i hi => (f2 i hi).trans (h2 i hi), ?_, _, f3, ?_, ?_⟩, ?_, ?_⟩
    · rw [← hsk] ; exact f1
    · intro a b
      unfold State.thread
      rw [hsk]; exact h3 a b
    · rw [← hqe]; exact ⟨rfl, rfl, rfl, rfl, rfl, rfl, rfl, rfl, rfl, rfl, rfl, rfl, rfl⟩
    · rw [← hqe]
    · intro a b n; unfold State.vReg State.thread; rw [hsk]
    · intro i n
      refine sRegOf_congr ?_ (fun k => by rw [hsk]) n
      by_cases hi : i = e.pid
      · subst hi; rw [f3, hq]; rfl
      · rw [f2 i hi]
  cases d with
  | v n =>
    have hlen : ∀ x ∈ e.p.threadsOf e.exec, (lane x.1).length = k := by
      intro x hx
      rw [hl n rfl x.1 (mem_threadsOf (l := x.1) (tid := x.2) |>.mp hx).1, toWords_length]
    have hsr : ∀ q i, (writeD s e (.v n) sc lane).sRegOf q i = s.sRegOf q i := by
      intro q i
      refine sRegOf_congr (s := s) (t := writeD s e (.v n) sc lane) rfl (fun k => ?_) i
      unfold writeD
      simp only [State.updSkein_skeins, Tbl.get_upd]
      split
      · next h => subst h; cases Tbl.get s.skeins e.p.skein <;> simp
      · rfl
    obtain ⟨g1, g2, g3⟩ := key (writeD s e (.v n) sc lane) rfl (fun _ _ => rfl) (fun a b => by
      rw [writeD_v]
      cases s.thread a b with
      | none => rfl
      | some th =>
        simp only [Option.map_some, Option.some.injEq]
        split
        · have := still_foldl_write ((e.p.threadsOf e.exec).filter fun x => x.2 == b) n (fun x => lane x.1) th
          have a1 := congrArg Thread.ra this
          have a2 := congrArg Thread.rsn this
          simp only at a1 a2
          rw [a1, a2]
        · rfl) ⟨e.p, hp, rfl⟩
    refine ⟨g1, WritesD.congr ?_ g2 g3⟩
    refine ⟨hsr, fun l tid i hlo ht hi => ?_, fun sk tid i h => ?_⟩
    · obtain ⟨th, hth⟩ := Option.isSome_iff_exists.mp ht
      rw [vReg_writeD hlen hlo hth, if_pos (by omega), hl n rfl l (mem_threadsOf.mp hlo.1).1, Nat.add_sub_cancel_left,
        getElem?_toWords _ _ _ hi]
      rfl
    · exact vReg_writeD_other hlen (by
        rcases h with h | h | h | h
        · exact .inl h
        · exact .inr (.inl h)
        · exact .inr (.inr (by omega))
        · exact .inr (.inr (by omega)))
  | s n =>
    have hb := SameButS.writeS e.pid sc n s
    have hsc := hs n rfl
    obtain ⟨a, b, c⟩ := writeS_result sc n s e.p hp
    have hlen : sc.length = k := by rw [hsc, toWords_length]
    obtain ⟨g1, g2, g3⟩ := key (writeD s e (.s n) sc lane) hb.1 hb.2.1 (fun sk tid => by
      show ((s.writeS e.pid n sc).thread sk tid).map _ = _
      rw [hb.thread]) (hb.ply hp)
    refine ⟨g1, WritesD.congr ?_ g2 g3⟩
    refine ⟨fun sk tid i => ?_, fun i hk hi => ?_, fun q i h => b q i (by rw [hlen]; exact h), c⟩
    · show (s.writeS e.pid n sc).vReg sk tid i = _
      unfold State.vReg; rw [hb.thread]
    · have := a i hk (by rw [hlen]; exact hi)
      have hw : sc[i]'(by rw [hlen]; exact hi) = BitVec.ofNat 32 (val (e.lanes.headD 0) >>> (32 * i)) := by
        have h2 := getElem?_toWords k (val (e.lanes.headD 0)) i hi
        rw [← hsc] at h2
        rw [List.getElem?_eq_getElem (by rw [hlen]; exact hi)] at h2
        exact Option.some.inj h2
      rw [hw] at this
      exact this
  | _ =>
    obtain ⟨g1, g2, g3⟩ := key s rfl (fun _ _ => rfl) (fun _ _ => rfl) ⟨e.p, hp, rfl⟩
    exact ⟨g1, WritesD.congr ⟨fun _ _ _ => rfl, fun _ _ => rfl⟩ g2 g3⟩

theorem find?_map_lane {β : Type} (ls : List Nat) (g : Nat → β) (l : Nat) (h : l ∈ ls) :
    (ls.map fun l => (l, g l)).find? (fun r => r.1 == l) = some (l, g l) := by
  induction ls with
  | nil => simp at h
  | cons a as ih =>
    rw [List.map_cons, List.find?_cons]
    by_cases ha : a = l
    · subst ha; simp
    · simp only [beq_eq_false_iff_ne.mpr ha]
      exact ih (by simpa [Ne.symm ha] using h)

/-- The effect of an arithmetic instruction (R112). -/
theorem aluDo_effected {x : Alu} {fn : LaneIn → Nat × Flags} {f : Full} {e : Env} {s : State} (hp : s.ply? e.pid = some e.p)
    (he : e.exec ≠ 0) :
    Effected e (orAll ((aluLanes f e).map fun l => (fn (laneIn s e x f l)).2)) x.sr s (aluDo x fn f e s) ∧
    WritesD e f.d x.n (fun l => (fn (laneIn s e x f l)).1) s (aluDo x fn f e s) := by
  have hm := head_lanes_mem he
  have h := writeD_effected (s := s) (e := e) f.d x.n (fun l => (fn (laneIn s e x f l)).1)
    (orAll ((aluLanes f e).map fun l => (fn (laneIn s e x f l)).2)) x.sr
    (match (aluLanes f e).map fun l => (l, fn (laneIn s e x f l)) with
      | r :: _ => toWords x.n r.2.1
      | [] => [])
    (fun l => match ((aluLanes f e).map fun l => (l, fn (laneIn s e x f l))).find? fun r => r.1 == l with
      | some r => toWords x.n r.2.1
      | none => []) hp ?_ ?_
  · have e1 : aluDo x fn f e s = (((writeD s e f.d
        (match (aluLanes f e).map fun l => (l, fn (laneIn s e x f l)) with
          | r :: _ => toWords x.n r.2.1
          | [] => [])
        (fun l => match ((aluLanes f e).map fun l => (l, fn (laneIn s e x f l))).find? fun r => r.1 == l with
          | some r => toWords x.n r.2.1
          | none => [])).raise e.pid (orAll ((aluLanes f e).map fun l => (fn (laneIn s e x f l)).2))).bumpRng e.pid x.sr) := by
      unfold aluDo aluLanes
      simp only [List.map_map]
      rfl
    rw [e1]; exact h
  · intro n hd
    have : ∃ as, aluLanes f e = e.lanes.headD 0 :: as := by
      unfold aluLanes
      rw [hd]
      dsimp only
      cases hl : e.lanes with
      | nil => rw [hl] at hm; simp at hm
      | cons a as => split <;> simp
    obtain ⟨as, has⟩ := this
    rw [has]; rfl
  · intro n hd l hl
    have : aluLanes f e = e.lanes := by unfold aluLanes; rw [hd]
    rw [this, find?_map_lane _ _ _ hl]

end Sys2Proof.Machine
end

