-- ==== Sys2Proof/Laws/PerInstr.lean ====
section
/-! SUPPORT. A statement about every row of the opcode table, row by row: the encoder and the decoder's tables agree. -/

/-- What the tables of R49 to R56 say of a row: an instruction with a major opcode and a function is the one that the decoder finds there,
made of the fields that the encoder takes from it, and both numbers fit their fields (R35); a row without them has no full-form fields. -/
def Sys2Proof.Laws.Encoding.Statement (i : Sys2Proof.Instr) : Prop :=
  match Sys2Proof.fullCode i with
  | some (maj, fn, f) => i.splitOk = true →
      ∃ r, Sys2Proof.lookupOp maj fn = .ok r ∧ r.make f = i ∧ i.full? = some f ∧ maj < 256 ∧ fn < 64
  | none => i.full? = none

theorem Sys2Proof.Laws.Encoding.nop (f : Sys2Proof.Full) : Sys2Proof.Laws.Encoding.Statement (.nop f) := fun _ => ⟨_, rfl, rfl, rfl, by decide, by decide⟩
theorem Sys2Proof.Laws.Encoding.bra (f : Sys2Proof.Full) : Sys2Proof.Laws.Encoding.Statement (.bra f) := fun _ => ⟨_, rfl, rfl, rfl, by decide, by decide⟩
theorem Sys2Proof.Laws.Encoding.jmp (f : Sys2Proof.Full) : Sys2Proof.Laws.Encoding.Statement (.jmp f) := fun _ => ⟨_, rfl, rfl, rfl, by decide, by decide⟩
theorem Sys2Proof.Laws.Encoding.jmpr (f : Sys2Proof.Full) : Sys2Proof.Laws.Encoding.Statement (.jmpr f) := fun _ => ⟨_, rfl, rfl, rfl, by decide, by decide⟩
theorem Sys2Proof.Laws.Encoding.call (f : Sys2Proof.Full) : Sys2Proof.Laws.Encoding.Statement (.call f) := fun _ => ⟨_, rfl, rfl, rfl, by decide, by decide⟩
theorem Sys2Proof.Laws.Encoding.calli (f : Sys2Proof.Full) : Sys2Proof.Laws.Encoding.Statement (.calli f) := fun _ => ⟨_, rfl, rfl, rfl, by decide, by decide⟩
theorem Sys2Proof.Laws.Encoding.ret (f : Sys2Proof.Full) : Sys2Proof.Laws.Encoding.Statement (.ret f) := fun _ => ⟨_, rfl, rfl, rfl, by decide, by decide⟩
theorem Sys2Proof.Laws.Encoding.reform (f : Sys2Proof.Full) : Sys2Proof.Laws.Encoding.Statement (.reform f) := fun _ => ⟨_, rfl, rfl, rfl, by decide, by decide⟩
theorem Sys2Proof.Laws.Encoding.exit (f : Sys2Proof.Full) : Sys2Proof.Laws.Encoding.Statement (.exit f) := fun _ => ⟨_, rfl, rfl, rfl, by decide, by decide⟩
theorem Sys2Proof.Laws.Encoding.bar (f : Sys2Proof.Full) : Sys2Proof.Laws.Encoding.Statement (.bar f) := fun _ => ⟨_, rfl, rfl, rfl, by decide, by decide⟩
theorem Sys2Proof.Laws.Encoding.bararr (f : Sys2Proof.Full) : Sys2Proof.Laws.Encoding.Statement (.bararr f) := fun _ => ⟨_, rfl, rfl, rfl, by decide, by decide⟩
theorem Sys2Proof.Laws.Encoding.barwt (f : Sys2Proof.Full) : Sys2Proof.Laws.Encoding.Statement (.barwt f) := fun _ => ⟨_, rfl, rfl, rfl, by decide, by decide⟩
theorem Sys2Proof.Laws.Encoding.waitc (f : Sys2Proof.Full) : Sys2Proof.Laws.Encoding.Statement (.waitc f) := fun _ => ⟨_, rfl, rfl, rfl, by decide, by decide⟩
theorem Sys2Proof.Laws.Encoding.yield (f : Sys2Proof.Full) : Sys2Proof.Laws.Encoding.Statement (.yield f) := fun _ => ⟨_, rfl, rfl, rfl, by decide, by decide⟩
theorem Sys2Proof.Laws.Encoding.sleep (f : Sys2Proof.Full) : Sys2Proof.Laws.Encoding.Statement (.sleep f) := fun _ => ⟨_, rfl, rfl, rfl, by decide, by decide⟩
theorem Sys2Proof.Laws.Encoding.sleepExpiry (ply : Nat) : Sys2Proof.Laws.Encoding.Statement (.sleepExpiry ply) := rfl
theorem Sys2Proof.Laws.Encoding.joinWindowExpiry (ply : Nat) : Sys2Proof.Laws.Encoding.Statement (.joinWindowExpiry ply) := rfl
theorem Sys2Proof.Laws.Encoding.starvationLimit (ply : Nat) : Sys2Proof.Laws.Encoding.Statement (.starvationLimit ply) := rfl
theorem Sys2Proof.Laws.Encoding.trap (f : Sys2Proof.Full) : Sys2Proof.Laws.Encoding.Statement (.trap f) := fun _ => ⟨_, rfl, rfl, rfl, by decide, by decide⟩
theorem Sys2Proof.Laws.Encoding.bkpt (f : Sys2Proof.Full) : Sys2Proof.Laws.Encoding.Statement (.bkpt f) := fun _ => ⟨_, rfl, rfl, rfl, by decide, by decide⟩
theorem Sys2Proof.Laws.Encoding.eret (f : Sys2Proof.Full) : Sys2Proof.Laws.Encoding.Statement (.eret f) := fun _ => ⟨_, rfl, rfl, rfl, by decide, by decide⟩
theorem Sys2Proof.Laws.Encoding.csrr (f : Sys2Proof.Full) : Sys2Proof.Laws.Encoding.Statement (.csrr f) := fun _ => ⟨_, rfl, rfl, rfl, by decide, by decide⟩
theorem Sys2Proof.Laws.Encoding.csrw (f : Sys2Proof.Full) : Sys2Proof.Laws.Encoding.Statement (.csrw f) := fun _ => ⟨_, rfl, rfl, rfl, by decide, by decide⟩
theorem Sys2Proof.Laws.Encoding.pair (p : Sys2Proof.Pair) : Sys2Proof.Laws.Encoding.Statement (.pair p) := rfl
theorem Sys2Proof.Laws.Encoding.iadd (f : Sys2Proof.Full) : Sys2Proof.Laws.Encoding.Statement (.iadd f) := fun _ => ⟨_, rfl, rfl, rfl, by decide, by decide⟩
theorem Sys2Proof.Laws.Encoding.isub (f : Sys2Proof.Full) : Sys2Proof.Laws.Encoding.Statement (.isub f) := fun _ => ⟨_, rfl, rfl, rfl, by decide, by decide⟩
theorem Sys2Proof.Laws.Encoding.iaddw (f : Sys2Proof.Full) : Sys2Proof.Laws.Encoding.Statement (.iaddw f) := fun _ => ⟨_, rfl, rfl, rfl, by decide, by decide⟩
theorem Sys2Proof.Laws.Encoding.isubw (f : Sys2Proof.Full) : Sys2Proof.Laws.Encoding.Statement (.isubw f) := fun _ => ⟨_, rfl, rfl, rfl, by decide, by decide⟩
theorem Sys2Proof.Laws.Encoding.imul (f : Sys2Proof.Full) : Sys2Proof.Laws.Encoding.Statement (.imul f) := fun _ => ⟨_, rfl, rfl, rfl, by decide, by decide⟩
theorem Sys2Proof.Laws.Encoding.imulh (f : Sys2Proof.Full) : Sys2Proof.Laws.Encoding.Statement (.imulh f) := fun _ => ⟨_, rfl, rfl, rfl, by decide, by decide⟩
theorem Sys2Proof.Laws.Encoding.imad (f : Sys2Proof.Full) : Sys2Proof.Laws.Encoding.Statement (.imad f) := fun _ => ⟨_, rfl, rfl, rfl, by decide, by decide⟩
theorem Sys2Proof.Laws.Encoding.imadw (f : Sys2Proof.Full) : Sys2Proof.Laws.Encoding.Statement (.imadw f) := fun _ => ⟨_, rfl, rfl, rfl, by decide, by decide⟩
theorem Sys2Proof.Laws.Encoding.imin (f : Sys2Proof.Full) : Sys2Proof.Laws.Encoding.Statement (.imin f) := fun _ => ⟨_, rfl, rfl, rfl, by decide, by decide⟩
theorem Sys2Proof.Laws.Encoding.imax (f : Sys2Proof.Full) : Sys2Proof.Laws.Encoding.Statement (.imax f) := fun _ => ⟨_, rfl, rfl, rfl, by decide, by decide⟩
theorem Sys2Proof.Laws.Encoding.iabs (f : Sys2Proof.Full) : Sys2Proof.Laws.Encoding.Statement (.iabs f) := fun _ => ⟨_, rfl, rfl, rfl, by decide, by decide⟩
theorem Sys2Proof.Laws.Encoding.icmp (f : Sys2Proof.Full) : Sys2Proof.Laws.Encoding.Statement (.icmp f) := fun _ => ⟨_, rfl, rfl, rfl, by decide, by decide⟩
theorem Sys2Proof.Laws.Encoding.icmpw (f : Sys2Proof.Full) : Sys2Proof.Laws.Encoding.Statement (.icmpw f) := fun _ => ⟨_, rfl, rfl, rfl, by decide, by decide⟩
theorem Sys2Proof.Laws.Encoding.sel (f : Sys2Proof.Full) : Sys2Proof.Laws.Encoding.Statement (.sel f) := fun _ => ⟨_, rfl, rfl, rfl, by decide, by decide⟩
theorem Sys2Proof.Laws.Encoding.and (f : Sys2Proof.Full) : Sys2Proof.Laws.Encoding.Statement (.and f) := fun _ => ⟨_, rfl, rfl, rfl, by decide, by decide⟩
theorem Sys2Proof.Laws.Encoding.or (f : Sys2Proof.Full) : Sys2Proof.Laws.Encoding.Statement (.or f) := fun _ => ⟨_, rfl, rfl, rfl, by decide, by decide⟩
theorem Sys2Proof.Laws.Encoding.xor (f : Sys2Proof.Full) : Sys2Proof.Laws.Encoding.Statement (.xor f) := fun _ => ⟨_, rfl, rfl, rfl, by decide, by decide⟩
theorem Sys2Proof.Laws.Encoding.andn (f : Sys2Proof.Full) : Sys2Proof.Laws.Encoding.Statement (.andn f) := fun _ => ⟨_, rfl, rfl, rfl, by decide, by decide⟩
theorem Sys2Proof.Laws.Encoding.shl (f : Sys2Proof.Full) : Sys2Proof.Laws.Encoding.Statement (.shl f) := fun _ => ⟨_, rfl, rfl, rfl, by decide, by decide⟩
theorem Sys2Proof.Laws.Encoding.shr (f : Sys2Proof.Full) : Sys2Proof.Laws.Encoding.Statement (.shr f) := fun _ => ⟨_, rfl, rfl, rfl, by decide, by decide⟩
theorem Sys2Proof.Laws.Encoding.sar (f : Sys2Proof.Full) : Sys2Proof.Laws.Encoding.Statement (.sar f) := fun _ => ⟨_, rfl, rfl, rfl, by decide, by decide⟩
theorem Sys2Proof.Laws.Encoding.shlw (f : Sys2Proof.Full) : Sys2Proof.Laws.Encoding.Statement (.shlw f) := fun _ => ⟨_, rfl, rfl, rfl, by decide, by decide⟩
theorem Sys2Proof.Laws.Encoding.shrw (f : Sys2Proof.Full) : Sys2Proof.Laws.Encoding.Statement (.shrw f) := fun _ => ⟨_, rfl, rfl, rfl, by decide, by decide⟩
theorem Sys2Proof.Laws.Encoding.rotl (f : Sys2Proof.Full) : Sys2Proof.Laws.Encoding.Statement (.rotl f) := fun _ => ⟨_, rfl, rfl, rfl, by decide, by decide⟩
theorem Sys2Proof.Laws.Encoding.popc (f : Sys2Proof.Full) : Sys2Proof.Laws.Encoding.Statement (.popc f) := fun _ => ⟨_, rfl, rfl, rfl, by decide, by decide⟩
theorem Sys2Proof.Laws.Encoding.clz (f : Sys2Proof.Full) : Sys2Proof.Laws.Encoding.Statement (.clz f) := fun _ => ⟨_, rfl, rfl, rfl, by decide, by decide⟩
theorem Sys2Proof.Laws.Encoding.brev (f : Sys2Proof.Full) : Sys2Proof.Laws.Encoding.Statement (.brev f) := fun _ => ⟨_, rfl, rfl, rfl, by decide, by decide⟩
theorem Sys2Proof.Laws.Encoding.bfx (f : Sys2Proof.Full) : Sys2Proof.Laws.Encoding.Statement (.bfx f) := fun _ => ⟨_, rfl, rfl, rfl, by decide, by decide⟩
theorem Sys2Proof.Laws.Encoding.bfi (f : Sys2Proof.Full) : Sys2Proof.Laws.Encoding.Statement (.bfi f) := fun _ => ⟨_, rfl, rfl, rfl, by decide, by decide⟩
theorem Sys2Proof.Laws.Encoding.bpick (f : Sys2Proof.Full) : Sys2Proof.Laws.Encoding.Statement (.bpick f) := fun _ => ⟨_, rfl, rfl, rfl, by decide, by decide⟩
theorem Sys2Proof.Laws.Encoding.mov (f : Sys2Proof.Full) : Sys2Proof.Laws.Encoding.Statement (.mov f) := fun _ => ⟨_, rfl, rfl, rfl, by decide, by decide⟩
theorem Sys2Proof.Laws.Encoding.movi (f : Sys2Proof.Full) : Sys2Proof.Laws.Encoding.Statement (.movi f) := fun _ => ⟨_, rfl, rfl, rfl, by decide, by decide⟩
theorem Sys2Proof.Laws.Encoding.lea (f : Sys2Proof.Full) : Sys2Proof.Laws.Encoding.Statement (.lea f) := fun _ => ⟨_, rfl, rfl, rfl, by decide, by decide⟩
theorem Sys2Proof.Laws.Encoding.fadd (f : Sys2Proof.Full) : Sys2Proof.Laws.Encoding.Statement (.fadd f) := fun _ => ⟨_, rfl, rfl, rfl, by decide, by decide⟩
theorem Sys2Proof.Laws.Encoding.fmul (f : Sys2Proof.Full) : Sys2Proof.Laws.Encoding.Statement (.fmul f) := fun _ => ⟨_, rfl, rfl, rfl, by decide, by decide⟩
theorem Sys2Proof.Laws.Encoding.ffma (f : Sys2Proof.Full) : Sys2Proof.Laws.Encoding.Statement (.ffma f) := fun _ => ⟨_, rfl, rfl, rfl, by decide, by decide⟩
theorem Sys2Proof.Laws.Encoding.fscale (f : Sys2Proof.Full) : Sys2Proof.Laws.Encoding.Statement (.fscale f) := fun _ => ⟨_, rfl, rfl, rfl, by decide, by decide⟩
theorem Sys2Proof.Laws.Encoding.fmin (f : Sys2Proof.Full) : Sys2Proof.Laws.Encoding.Statement (.fmin f) := fun _ => ⟨_, rfl, rfl, rfl, by decide, by decide⟩
theorem Sys2Proof.Laws.Encoding.fmax (f : Sys2Proof.Full) : Sys2Proof.Laws.Encoding.Statement (.fmax f) := fun _ => ⟨_, rfl, rfl, rfl, by decide, by decide⟩
theorem Sys2Proof.Laws.Encoding.fcmp (f : Sys2Proof.Full) : Sys2Proof.Laws.Encoding.Statement (.fcmp f) := fun _ => ⟨_, rfl, rfl, rfl, by decide, by decide⟩
theorem Sys2Proof.Laws.Encoding.fclass (f : Sys2Proof.Full) : Sys2Proof.Laws.Encoding.Statement (.fclass f) := fun _ => ⟨_, rfl, rfl, rfl, by decide, by decide⟩
theorem Sys2Proof.Laws.Encoding.frnd (f : Sys2Proof.Full) : Sys2Proof.Laws.Encoding.Statement (.frnd f) := fun _ => ⟨_, rfl, rfl, rfl, by decide, by decide⟩
theorem Sys2Proof.Laws.Encoding.frcp (f : Sys2Proof.Full) : Sys2Proof.Laws.Encoding.Statement (.frcp f) := fun _ => ⟨_, rfl, rfl, rfl, by decide, by decide⟩
theorem Sys2Proof.Laws.Encoding.frsq (f : Sys2Proof.Full) : Sys2Proof.Laws.Encoding.Statement (.frsq f) := fun _ => ⟨_, rfl, rfl, rfl, by decide, by decide⟩
theorem Sys2Proof.Laws.Encoding.fsqrt (f : Sys2Proof.Full) : Sys2Proof.Laws.Encoding.Statement (.fsqrt f) := fun _ => ⟨_, rfl, rfl, rfl, by decide, by decide⟩
theorem Sys2Proof.Laws.Encoding.fex2 (f : Sys2Proof.Full) : Sys2Proof.Laws.Encoding.Statement (.fex2 f) := fun _ => ⟨_, rfl, rfl, rfl, by decide, by decide⟩
theorem Sys2Proof.Laws.Encoding.flg2 (f : Sys2Proof.Full) : Sys2Proof.Laws.Encoding.Statement (.flg2 f) := fun _ => ⟨_, rfl, rfl, rfl, by decide, by decide⟩
theorem Sys2Proof.Laws.Encoding.fsin (f : Sys2Proof.Full) : Sys2Proof.Laws.Encoding.Statement (.fsin f) := fun _ => ⟨_, rfl, rfl, rfl, by decide, by decide⟩
theorem Sys2Proof.Laws.Encoding.fcos (f : Sys2Proof.Full) : Sys2Proof.Laws.Encoding.Statement (.fcos f) := fun _ => ⟨_, rfl, rfl, rfl, by decide, by decide⟩
theorem Sys2Proof.Laws.Encoding.ftanh (f : Sys2Proof.Full) : Sys2Proof.Laws.Encoding.Statement (.ftanh f) := fun _ => ⟨_, rfl, rfl, rfl, by decide, by decide⟩
theorem Sys2Proof.Laws.Encoding.hadd2 (f : Sys2Proof.Full) : Sys2Proof.Laws.Encoding.Statement (.hadd2 f) := fun _ => ⟨_, rfl, rfl, rfl, by decide, by decide⟩
theorem Sys2Proof.Laws.Encoding.hmul2 (f : Sys2Proof.Full) : Sys2Proof.Laws.Encoding.Statement (.hmul2 f) := fun _ => ⟨_, rfl, rfl, rfl, by decide, by decide⟩
theorem Sys2Proof.Laws.Encoding.hfma2 (f : Sys2Proof.Full) : Sys2Proof.Laws.Encoding.Statement (.hfma2 f) := fun _ => ⟨_, rfl, rfl, rfl, by decide, by decide⟩
theorem Sys2Proof.Laws.Encoding.hmnmx2 (f : Sys2Proof.Full) : Sys2Proof.Laws.Encoding.Statement (.hmnmx2 f) := fun _ => ⟨_, rfl, rfl, rfl, by decide, by decide⟩
theorem Sys2Proof.Laws.Encoding.cvt (f : Sys2Proof.Full) : Sys2Proof.Laws.Encoding.Statement (.cvt f) := fun _ => ⟨_, rfl, rfl, rfl, by decide, by decide⟩
theorem Sys2Proof.Laws.Encoding.cvts (f : Sys2Proof.Full) : Sys2Proof.Laws.Encoding.Statement (.cvts f) := fun _ => ⟨_, rfl, rfl, rfl, by decide, by decide⟩
theorem Sys2Proof.Laws.Encoding.pack4 (f : Sys2Proof.Full) : Sys2Proof.Laws.Encoding.Statement (.pack4 f) := fun _ => ⟨_, rfl, rfl, rfl, by decide, by decide⟩
theorem Sys2Proof.Laws.Encoding.unpk4 (f : Sys2Proof.Full) : Sys2Proof.Laws.Encoding.Statement (.unpk4 f) := fun _ => ⟨_, rfl, rfl, rfl, by decide, by decide⟩
theorem Sys2Proof.Laws.Encoding.pack8 (f : Sys2Proof.Full) : Sys2Proof.Laws.Encoding.Statement (.pack8 f) := fun _ => ⟨_, rfl, rfl, rfl, by decide, by decide⟩
theorem Sys2Proof.Laws.Encoding.unpk8 (f : Sys2Proof.Full) : Sys2Proof.Laws.Encoding.Statement (.unpk8 f) := fun _ => ⟨_, rfl, rfl, rfl, by decide, by decide⟩
theorem Sys2Proof.Laws.Encoding.rng (f : Sys2Proof.Full) : Sys2Proof.Laws.Encoding.Statement (.rng f) := fun _ => ⟨_, rfl, rfl, rfl, by decide, by decide⟩
theorem Sys2Proof.Laws.Encoding.shfl (f : Sys2Proof.Full) : Sys2Proof.Laws.Encoding.Statement (.shfl f) := fun _ => ⟨_, rfl, rfl, rfl, by decide, by decide⟩
theorem Sys2Proof.Laws.Encoding.bcst (f : Sys2Proof.Full) : Sys2Proof.Laws.Encoding.Statement (.bcst f) := fun _ => ⟨_, rfl, rfl, rfl, by decide, by decide⟩
theorem Sys2Proof.Laws.Encoding.ballot (f : Sys2Proof.Full) : Sys2Proof.Laws.Encoding.Statement (.ballot f) := fun _ => ⟨_, rfl, rfl, rfl, by decide, by decide⟩
theorem Sys2Proof.Laws.Encoding.vote (f : Sys2Proof.Full) : Sys2Proof.Laws.Encoding.Statement (.vote f) := fun _ => ⟨_, rfl, rfl, rfl, by decide, by decide⟩
theorem Sys2Proof.Laws.Encoding.matchLanes (f : Sys2Proof.Full) : Sys2Proof.Laws.Encoding.Statement (.matchLanes f) := fun _ => ⟨_, rfl, rfl, rfl, by decide, by decide⟩
theorem Sys2Proof.Laws.Encoding.actmask (f : Sys2Proof.Full) : Sys2Proof.Laws.Encoding.Statement (.actmask f) := fun _ => ⟨_, rfl, rfl, rfl, by decide, by decide⟩
theorem Sys2Proof.Laws.Encoding.redux (f : Sys2Proof.Full) : Sys2Proof.Laws.Encoding.Statement (.redux f) := fun _ => ⟨_, rfl, rfl, rfl, by decide, by decide⟩
theorem Sys2Proof.Laws.Encoding.scan (f : Sys2Proof.Full) : Sys2Proof.Laws.Encoding.Statement (.scan f) := fun _ => ⟨_, rfl, rfl, rfl, by decide, by decide⟩
theorem Sys2Proof.Laws.Encoding.ld (f : Sys2Proof.Full) : Sys2Proof.Laws.Encoding.Statement (.ld f) := fun _ => ⟨_, rfl, rfl, rfl, by decide, by decide⟩
theorem Sys2Proof.Laws.Encoding.loadDataArrival (op lane : Nat) : Sys2Proof.Laws.Encoding.Statement (.loadDataArrival op lane) := rfl
theorem Sys2Proof.Laws.Encoding.st (f : Sys2Proof.Full) : Sys2Proof.Laws.Encoding.Statement (.st f) := fun _ => ⟨_, rfl, rfl, rfl, by decide, by decide⟩
theorem Sys2Proof.Laws.Encoding.storeCompletion (op : Nat) : Sys2Proof.Laws.Encoding.Statement (.storeCompletion op) := rfl
theorem Sys2Proof.Laws.Encoding.atom (f : Sys2Proof.Full) : Sys2Proof.Laws.Encoding.Statement (.atom f) := fun _ => ⟨_, rfl, rfl, rfl, by decide, by decide⟩
theorem Sys2Proof.Laws.Encoding.atomcas (f : Sys2Proof.Full) : Sys2Proof.Laws.Encoding.Statement (.atomcas f) := fun _ => ⟨_, rfl, rfl, rfl, by decide, by decide⟩
theorem Sys2Proof.Laws.Encoding.red (f : Sys2Proof.Full) : Sys2Proof.Laws.Encoding.Statement (.red f) := fun _ => ⟨_, rfl, rfl, rfl, by decide, by decide⟩
theorem Sys2Proof.Laws.Encoding.atomicAtHome (op loc : Nat) : Sys2Proof.Laws.Encoding.Statement (.atomicAtHome op loc) := rfl
theorem Sys2Proof.Laws.Encoding.pref (f : Sys2Proof.Full) : Sys2Proof.Laws.Encoding.Statement (.pref f) := fun _ => ⟨_, rfl, rfl, rfl, by decide, by decide⟩
theorem Sys2Proof.Laws.Encoding.spill (f : Sys2Proof.Full) : Sys2Proof.Laws.Encoding.Statement (.spill f) := fun _ => ⟨_, rfl, rfl, rfl, by decide, by decide⟩
theorem Sys2Proof.Laws.Encoding.fill (f : Sys2Proof.Full) : Sys2Proof.Laws.Encoding.Statement (.fill f) := fun _ => ⟨_, rfl, rfl, rfl, by decide, by decide⟩
theorem Sys2Proof.Laws.Encoding.fence (f : Sys2Proof.Full) : Sys2Proof.Laws.Encoding.Statement (.fence f) := fun _ => ⟨_, rfl, rfl, rfl, by decide, by decide⟩
theorem Sys2Proof.Laws.Encoding.subs (f : Sys2Proof.Full) : Sys2Proof.Laws.Encoding.Statement (.subs f) := fun _ => ⟨_, rfl, rfl, rfl, by decide, by decide⟩
theorem Sys2Proof.Laws.Encoding.unsubs (f : Sys2Proof.Full) : Sys2Proof.Laws.Encoding.Statement (.unsubs f) := fun _ => ⟨_, rfl, rfl, rfl, by decide, by decide⟩
theorem Sys2Proof.Laws.Encoding.segstat (f : Sys2Proof.Full) : Sys2Proof.Laws.Encoding.Statement (.segstat f) := fun _ => ⟨_, rfl, rfl, rfl, by decide, by decide⟩
theorem Sys2Proof.Laws.Encoding.replicaUpdate (replica : Nat) : Sys2Proof.Laws.Encoding.Statement (.replicaUpdate replica) := rfl
theorem Sys2Proof.Laws.Encoding.syncMarkerReturn (replica : Nat) : Sys2Proof.Laws.Encoding.Statement (.syncMarkerReturn replica) := rfl
theorem Sys2Proof.Laws.Encoding.permissionProbeReply (core line : Nat) : Sys2Proof.Laws.Encoding.Statement (.permissionProbeReply core line) := rfl
theorem Sys2Proof.Laws.Encoding.promotionRequest (op core : Nat) : Sys2Proof.Laws.Encoding.Statement (.promotionRequest op core) := rfl
theorem Sys2Proof.Laws.Encoding.promotionComplete (op : Nat) : Sys2Proof.Laws.Encoding.Statement (.promotionComplete op) := rfl
theorem Sys2Proof.Laws.Encoding.wcAgeingDrain (core : Nat) : Sys2Proof.Laws.Encoding.Statement (.wcAgeingDrain core) := rfl
theorem Sys2Proof.Laws.Encoding.remoteAck (req : Nat) (r : Sys2Proof.RemoteReply) : Sys2Proof.Laws.Encoding.Statement (.remoteAck req r) := rfl
theorem Sys2Proof.Laws.Encoding.fabricTimeout (req : Nat) : Sys2Proof.Laws.Encoding.Statement (.fabricTimeout req) := rfl
theorem Sys2Proof.Laws.Encoding.cpy (f : Sys2Proof.Full) : Sys2Proof.Laws.Encoding.Statement (.cpy f) := fun _ => ⟨_, rfl, rfl, rfl, by decide, by decide⟩
theorem Sys2Proof.Laws.Encoding.tcpy (f : Sys2Proof.Full) : Sys2Proof.Laws.Encoding.Statement (.tcpy f) := fun _ => ⟨_, rfl, rfl, rfl, by decide, by decide⟩
theorem Sys2Proof.Laws.Encoding.tgath (f : Sys2Proof.Full) : Sys2Proof.Laws.Encoding.Statement (.tgath f) := fun _ => ⟨_, rfl, rfl, rfl, by decide, by decide⟩
theorem Sys2Proof.Laws.Encoding.tscat (f : Sys2Proof.Full) : Sys2Proof.Laws.Encoding.Statement (.tscat f) := fun _ => ⟨_, rfl, rfl, rfl, by decide, by decide⟩
theorem Sys2Proof.Laws.Encoding.cpyf (f : Sys2Proof.Full) : Sys2Proof.Laws.Encoding.Statement (.cpyf f) := fun _ => ⟨_, rfl, rfl, rfl, by decide, by decide⟩
theorem Sys2Proof.Laws.Encoding.copyProbeDone (op : Nat) : Sys2Proof.Laws.Encoding.Statement (.copyProbeDone op) := rfl
theorem Sys2Proof.Laws.Encoding.copyDataLands (op sectors : Nat) : Sys2Proof.Laws.Encoding.Statement (.copyDataLands op sectors) := rfl
theorem Sys2Proof.Laws.Encoding.copyComplete (op : Nat) : Sys2Proof.Laws.Encoding.Statement (.copyComplete op) := rfl
theorem Sys2Proof.Laws.Encoding.tidld (f : Sys2Proof.Full) : Sys2Proof.Laws.Encoding.Statement (.tidld f) := fun _ => ⟨_, rfl, rfl, rfl, by decide, by decide⟩
theorem Sys2Proof.Laws.Encoding.tidinv (f : Sys2Proof.Full) : Sys2Proof.Laws.Encoding.Statement (.tidinv f) := fun _ => ⟨_, rfl, rfl, rfl, by decide, by decide⟩
theorem Sys2Proof.Laws.Encoding.tbinit (f : Sys2Proof.Full) : Sys2Proof.Laws.Encoding.Statement (.tbinit f) := fun _ => ⟨_, rfl, rfl, rfl, by decide, by decide⟩
theorem Sys2Proof.Laws.Encoding.tbexp (f : Sys2Proof.Full) : Sys2Proof.Laws.Encoding.Statement (.tbexp f) := fun _ => ⟨_, rfl, rfl, rfl, by decide, by decide⟩
theorem Sys2Proof.Laws.Encoding.tbarr (f : Sys2Proof.Full) : Sys2Proof.Laws.Encoding.Statement (.tbarr f) := fun _ => ⟨_, rfl, rfl, rfl, by decide, by decide⟩
theorem Sys2Proof.Laws.Encoding.tbwait (f : Sys2Proof.Full) : Sys2Proof.Laws.Encoding.Statement (.tbwait f) := fun _ => ⟨_, rfl, rfl, rfl, by decide, by decide⟩
theorem Sys2Proof.Laws.Encoding.tbtest (f : Sys2Proof.Full) : Sys2Proof.Laws.Encoding.Statement (.tbtest f) := fun _ => ⟨_, rfl, rfl, rfl, by decide, by decide⟩
theorem Sys2Proof.Laws.Encoding.barrierUpdate (place count : Nat) : Sys2Proof.Laws.Encoding.Statement (.barrierUpdate place count) := rfl
theorem Sys2Proof.Laws.Encoding.mmaAreg (f : Sys2Proof.Full) : Sys2Proof.Laws.Encoding.Statement (.mmaAreg f) := fun _ => ⟨_, rfl, rfl, rfl, by decide, by decide⟩
theorem Sys2Proof.Laws.Encoding.mmaAls (f : Sys2Proof.Full) : Sys2Proof.Laws.Encoding.Statement (.mmaAls f) := fun _ => ⟨_, rfl, rfl, rfl, by decide, by decide⟩
theorem Sys2Proof.Laws.Encoding.mmaAacc (f : Sys2Proof.Full) : Sys2Proof.Laws.Encoding.Statement (.mmaAacc f) := fun _ => ⟨_, rfl, rfl, rfl, by decide, by decide⟩
theorem Sys2Proof.Laws.Encoding.mmazAreg (f : Sys2Proof.Full) : Sys2Proof.Laws.Encoding.Statement (.mmazAreg f) := fun _ => ⟨_, rfl, rfl, rfl, by decide, by decide⟩
theorem Sys2Proof.Laws.Encoding.mmazAls (f : Sys2Proof.Full) : Sys2Proof.Laws.Encoding.Statement (.mmazAls f) := fun _ => ⟨_, rfl, rfl, rfl, by decide, by decide⟩
theorem Sys2Proof.Laws.Encoding.mmazAacc (f : Sys2Proof.Full) : Sys2Proof.Laws.Encoding.Statement (.mmazAacc f) := fun _ => ⟨_, rfl, rfl, rfl, by decide, by decide⟩
theorem Sys2Proof.Laws.Encoding.accalloc (f : Sys2Proof.Full) : Sys2Proof.Laws.Encoding.Statement (.accalloc f) := fun h => ⟨_, rfl, by simp_all [Sys2Proof.Instr.splitOk], rfl, by decide, by decide⟩
theorem Sys2Proof.Laws.Encoding.accallocTry (f : Sys2Proof.Full) : Sys2Proof.Laws.Encoding.Statement (.accallocTry f) := fun h => ⟨_, rfl, by simp_all [Sys2Proof.Instr.splitOk], rfl, by decide, by decide⟩
theorem Sys2Proof.Laws.Encoding.tileGrant (part : Nat) : Sys2Proof.Laws.Encoding.Statement (.tileGrant part) := rfl
theorem Sys2Proof.Laws.Encoding.accDeadlockTimeout (part : Nat) : Sys2Proof.Laws.Encoding.Statement (.accDeadlockTimeout part) := rfl
theorem Sys2Proof.Laws.Encoding.accfree (f : Sys2Proof.Full) : Sys2Proof.Laws.Encoding.Statement (.accfree f) := fun _ => ⟨_, rfl, rfl, rfl, by decide, by decide⟩
theorem Sys2Proof.Laws.Encoding.acczero (f : Sys2Proof.Full) : Sys2Proof.Laws.Encoding.Statement (.acczero f) := fun _ => ⟨_, rfl, rfl, rfl, by decide, by decide⟩
theorem Sys2Proof.Laws.Encoding.accld (f : Sys2Proof.Full) : Sys2Proof.Laws.Encoding.Statement (.accld f) := fun _ => ⟨_, rfl, rfl, rfl, by decide, by decide⟩
theorem Sys2Proof.Laws.Encoding.accst (f : Sys2Proof.Full) : Sys2Proof.Laws.Encoding.Statement (.accst f) := fun _ => ⟨_, rfl, rfl, rfl, by decide, by decide⟩
theorem Sys2Proof.Laws.Encoding.accmov (f : Sys2Proof.Full) : Sys2Proof.Laws.Encoding.Statement (.accmov f) := fun _ => ⟨_, rfl, rfl, rfl, by decide, by decide⟩
theorem Sys2Proof.Laws.Encoding.accfill (f : Sys2Proof.Full) : Sys2Proof.Laws.Encoding.Statement (.accfill f) := fun _ => ⟨_, rfl, rfl, rfl, by decide, by decide⟩
theorem Sys2Proof.Laws.Encoding.accrmax (f : Sys2Proof.Full) : Sys2Proof.Laws.Encoding.Statement (.accrmax f) := fun _ => ⟨_, rfl, rfl, rfl, by decide, by decide⟩
theorem Sys2Proof.Laws.Encoding.accrsum (f : Sys2Proof.Full) : Sys2Proof.Laws.Encoding.Statement (.accrsum f) := fun _ => ⟨_, rfl, rfl, rfl, by decide, by decide⟩
theorem Sys2Proof.Laws.Encoding.accrscl (f : Sys2Proof.Full) : Sys2Proof.Laws.Encoding.Statement (.accrscl f) := fun _ => ⟨_, rfl, rfl, rfl, by decide, by decide⟩
theorem Sys2Proof.Laws.Encoding.accmapAdd (f : Sys2Proof.Full) : Sys2Proof.Laws.Encoding.Statement (.accmapAdd f) := fun _ => ⟨_, rfl, rfl, rfl, by decide, by decide⟩
theorem Sys2Proof.Laws.Encoding.accmapMul (f : Sys2Proof.Full) : Sys2Proof.Laws.Encoding.Statement (.accmapMul f) := fun _ => ⟨_, rfl, rfl, rfl, by decide, by decide⟩
theorem Sys2Proof.Laws.Encoding.accmapEx2 (f : Sys2Proof.Full) : Sys2Proof.Laws.Encoding.Statement (.accmapEx2 f) := fun _ => ⟨_, rfl, rfl, rfl, by decide, by decide⟩
theorem Sys2Proof.Laws.Encoding.accmapRelu (f : Sys2Proof.Full) : Sys2Proof.Laws.Encoding.Statement (.accmapRelu f) := fun _ => ⟨_, rfl, rfl, rfl, by decide, by decide⟩
theorem Sys2Proof.Laws.Encoding.accmapRnd (f : Sys2Proof.Full) : Sys2Proof.Laws.Encoding.Statement (.accmapRnd f) := fun _ => ⟨_, rfl, rfl, rfl, by decide, by decide⟩
theorem Sys2Proof.Laws.Encoding.matrixOpComplete (op : Nat) : Sys2Proof.Laws.Encoding.Statement (.matrixOpComplete op) := rfl
theorem Sys2Proof.Laws.Encoding.lentRegisterRead (op : Nat) : Sys2Proof.Laws.Encoding.Statement (.lentRegisterRead op) := rfl
theorem Sys2Proof.Laws.Encoding.draw (f : Sys2Proof.Full) : Sys2Proof.Laws.Encoding.Statement (.draw f) := fun _ => ⟨_, rfl, rfl, rfl, by decide, by decide⟩
theorem Sys2Proof.Laws.Encoding.drawt (f : Sys2Proof.Full) : Sys2Proof.Laws.Encoding.Statement (.drawt f) := fun _ => ⟨_, rfl, rfl, rfl, by decide, by decide⟩
theorem Sys2Proof.Laws.Encoding.deal (f : Sys2Proof.Full) : Sys2Proof.Laws.Encoding.Statement (.deal f) := fun h => ⟨_, rfl, by simp_all [Sys2Proof.Instr.splitOk], rfl, by decide, by decide⟩
theorem Sys2Proof.Laws.Encoding.dealTry (f : Sys2Proof.Full) : Sys2Proof.Laws.Encoding.Statement (.dealTry f) := fun h => ⟨_, rfl, by simp_all [Sys2Proof.Instr.splitOk], rfl, by decide, by decide⟩
theorem Sys2Proof.Laws.Encoding.deckst (f : Sys2Proof.Full) : Sys2Proof.Laws.Encoding.Statement (.deckst f) := fun _ => ⟨_, rfl, rfl, rfl, by decide, by decide⟩
theorem Sys2Proof.Laws.Encoding.deckRequest (slot deck : Nat) : Sys2Proof.Laws.Encoding.Statement (.deckRequest slot deck) := rfl
theorem Sys2Proof.Laws.Encoding.deckPayloadArrival (op : Nat) : Sys2Proof.Laws.Encoding.Statement (.deckPayloadArrival op) := rfl
theorem Sys2Proof.Laws.Encoding.gateRetest (slot deck : Nat) : Sys2Proof.Laws.Encoding.Statement (.gateRetest slot deck) := rfl
theorem Sys2Proof.Laws.Encoding.hostDeal (slot deck : Nat) (bytes : List Sys2Proof.Byte) : Sys2Proof.Laws.Encoding.Statement (.hostDeal slot deck bytes) := rfl
theorem Sys2Proof.Laws.Encoding.dropsRead (slot deck : Nat) : Sys2Proof.Laws.Encoding.Statement (.dropsRead slot deck) := rfl
theorem Sys2Proof.Laws.Encoding.mcst (f : Sys2Proof.Full) : Sys2Proof.Laws.Encoding.Statement (.mcst f) := fun _ => ⟨_, rfl, rfl, rfl, by decide, by decide⟩
theorem Sys2Proof.Laws.Encoding.mcstDelivery (p : Sys2Proof.McstPkt) : Sys2Proof.Laws.Encoding.Statement (.mcstDelivery p) := rfl
theorem Sys2Proof.Laws.Encoding.rfence (f : Sys2Proof.Full) : Sys2Proof.Laws.Encoding.Statement (.rfence f) := fun h => ⟨_, rfl, by simp_all [Sys2Proof.Instr.splitOk], rfl, by decide, by decide⟩
theorem Sys2Proof.Laws.Encoding.rfenceOne (f : Sys2Proof.Full) : Sys2Proof.Laws.Encoding.Statement (.rfenceOne f) := fun h => ⟨_, rfl, by simp_all [Sys2Proof.Instr.splitOk], rfl, by decide, by decide⟩
theorem Sys2Proof.Laws.Encoding.cgloadGraph (f : Sys2Proof.Full) : Sys2Proof.Laws.Encoding.Statement (.cgloadGraph f) := fun h => ⟨_, rfl, by simp_all [Sys2Proof.Instr.splitOk], rfl, by decide, by decide⟩
theorem Sys2Proof.Laws.Encoding.cgloadGroup (f : Sys2Proof.Full) : Sys2Proof.Laws.Encoding.Statement (.cgloadGroup f) := fun h => ⟨_, rfl, by simp_all [Sys2Proof.Instr.splitOk], rfl, by decide, by decide⟩
theorem Sys2Proof.Laws.Encoding.cgrun (f : Sys2Proof.Full) : Sys2Proof.Laws.Encoding.Statement (.cgrun f) := fun _ => ⟨_, rfl, rfl, rfl, by decide, by decide⟩
theorem Sys2Proof.Laws.Encoding.cgstat (f : Sys2Proof.Full) : Sys2Proof.Laws.Encoding.Statement (.cgstat f) := fun _ => ⟨_, rfl, rfl, rfl, by decide, by decide⟩
theorem Sys2Proof.Laws.Encoding.cgabort (f : Sys2Proof.Full) : Sys2Proof.Laws.Encoding.Statement (.cgabort f) := fun _ => ⟨_, rfl, rfl, rfl, by decide, by decide⟩
theorem Sys2Proof.Laws.Encoding.cgtrig (f : Sys2Proof.Full) : Sys2Proof.Laws.Encoding.Statement (.cgtrig f) := fun _ => ⟨_, rfl, rfl, rfl, by decide, by decide⟩
theorem Sys2Proof.Laws.Encoding.tileTrigger (op : Nat) : Sys2Proof.Laws.Encoding.Statement (.tileTrigger op) := rfl
theorem Sys2Proof.Laws.Encoding.startPacketArrival (p : Sys2Proof.StartPkt) : Sys2Proof.Laws.Encoding.Statement (.startPacketArrival p) := rfl
theorem Sys2Proof.Laws.Encoding.chunkOpStart (call idx : Nat) : Sys2Proof.Laws.Encoding.Statement (.chunkOpStart call idx) := rfl
theorem Sys2Proof.Laws.Encoding.chunkOpComplete (call idx : Nat) : Sys2Proof.Laws.Encoding.Statement (.chunkOpComplete call idx) := rfl
theorem Sys2Proof.Laws.Encoding.engineDataArrival (p : Sys2Proof.EngPkt) : Sys2Proof.Laws.Encoding.Statement (.engineDataArrival p) := rfl
theorem Sys2Proof.Laws.Encoding.abortPacketArrival (p : Sys2Proof.AbortPkt) : Sys2Proof.Laws.Encoding.Statement (.abortPacketArrival p) := rfl
theorem Sys2Proof.Laws.Encoding.enginePacketTimeout (call : Nat) : Sys2Proof.Laws.Encoding.Statement (.enginePacketTimeout call) := rfl
theorem Sys2Proof.Laws.Encoding.send (f : Sys2Proof.Full) : Sys2Proof.Laws.Encoding.Statement (.send f) := fun _ => ⟨_, rfl, rfl, rfl, by decide, by decide⟩
theorem Sys2Proof.Laws.Encoding.rpost (f : Sys2Proof.Full) : Sys2Proof.Laws.Encoding.Statement (.rpost f) := fun _ => ⟨_, rfl, rfl, rfl, by decide, by decide⟩
theorem Sys2Proof.Laws.Encoding.rcancel (f : Sys2Proof.Full) : Sys2Proof.Laws.Encoding.Statement (.rcancel f) := fun _ => ⟨_, rfl, rfl, rfl, by decide, by decide⟩
theorem Sys2Proof.Laws.Encoding.rprobe (f : Sys2Proof.Full) : Sys2Proof.Laws.Encoding.Statement (.rprobe f) := fun _ => ⟨_, rfl, rfl, rfl, by decide, by decide⟩
theorem Sys2Proof.Laws.Encoding.rclaim (f : Sys2Proof.Full) : Sys2Proof.Laws.Encoding.Statement (.rclaim f) := fun _ => ⟨_, rfl, rfl, rfl, by decide, by decide⟩
theorem Sys2Proof.Laws.Encoding.rstat (f : Sys2Proof.Full) : Sys2Proof.Laws.Encoding.Statement (.rstat f) := fun h => ⟨_, rfl, by simp_all [Sys2Proof.Instr.splitOk], rfl, by decide, by decide⟩
theorem Sys2Proof.Laws.Encoding.rstatOpen (f : Sys2Proof.Full) : Sys2Proof.Laws.Encoding.Statement (.rstatOpen f) := fun h => ⟨_, rfl, by simp_all [Sys2Proof.Instr.splitOk], rfl, by decide, by decide⟩
theorem Sys2Proof.Laws.Encoding.messageArrival (m : Sys2Proof.MsgIn) : Sys2Proof.Laws.Encoding.Statement (.messageArrival m) := rfl
theorem Sys2Proof.Laws.Encoding.payloadPull (recv : Nat) (r : Sys2Proof.PullReply) : Sys2Proof.Laws.Encoding.Statement (.payloadPull recv r) := rfl
theorem Sys2Proof.Laws.Encoding.messageHold (send : Nat) : Sys2Proof.Laws.Encoding.Statement (.messageHold send) := rfl
theorem Sys2Proof.Laws.Encoding.sendComplete (send : Nat) (r : Sys2Proof.SendReply) : Sys2Proof.Laws.Encoding.Statement (.sendComplete send r) := rfl
theorem Sys2Proof.Laws.Encoding.bobbinDraw (part : Nat) : Sys2Proof.Laws.Encoding.Statement (.bobbinDraw part) := rfl
theorem Sys2Proof.Laws.Encoding.launchPacketWrite (slot : Nat) (bytes : List Sys2Proof.Byte) : Sys2Proof.Laws.Encoding.Statement (.launchPacketWrite slot bytes) := rfl
theorem Sys2Proof.Laws.Encoding.skeinPlacement (core : Nat) : Sys2Proof.Laws.Encoding.Statement (.skeinPlacement core) := rfl
theorem Sys2Proof.Laws.Encoding.preempt (slot : Nat) : Sys2Proof.Laws.Encoding.Statement (.preempt slot) := rfl
theorem Sys2Proof.Laws.Encoding.stop (slot : Nat) : Sys2Proof.Laws.Encoding.Statement (.stop slot) := rfl
theorem Sys2Proof.Laws.Encoding.restore (slot : Nat) : Sys2Proof.Laws.Encoding.Statement (.restore slot) := rfl
theorem Sys2Proof.Laws.Encoding.release (slot : Nat) : Sys2Proof.Laws.Encoding.Statement (.release slot) := rfl
theorem Sys2Proof.Laws.Encoding.coreSaveEnd (slot core : Nat) : Sys2Proof.Laws.Encoding.Statement (.coreSaveEnd slot core) := rfl
theorem Sys2Proof.Laws.Encoding.skeinRestore (slot skein : Nat) : Sys2Proof.Laws.Encoding.Statement (.skeinRestore slot skein) := rfl
theorem Sys2Proof.Laws.Encoding.quotaWrite (slot core : Nat) (v : Sys2Proof.DWord) : Sys2Proof.Laws.Encoding.Statement (.quotaWrite slot core v) := rfl
theorem Sys2Proof.Laws.Encoding.intcfgWrite (slot : Nat) (v : Sys2Proof.Word) : Sys2Proof.Laws.Encoding.Statement (.intcfgWrite slot v) := rfl
theorem Sys2Proof.Laws.Encoding.registerWrite (r : Sys2Proof.HostReg) (v : Sys2Proof.DWord) : Sys2Proof.Laws.Encoding.Statement (.registerWrite r v) := rfl
theorem Sys2Proof.Laws.Encoding.resolveRetry (slice rid : Nat) : Sys2Proof.Laws.Encoding.Statement (.resolveRetry slice rid) := rfl
theorem Sys2Proof.Laws.Encoding.resolveFail (slice rid : Nat) : Sys2Proof.Laws.Encoding.Statement (.resolveFail slice rid) := rfl
theorem Sys2Proof.Laws.Encoding.walkComplete (asid page : Nat) (kind : Sys2Proof.AccKind) : Sys2Proof.Laws.Encoding.Statement (.walkComplete asid page kind) := rfl
theorem Sys2Proof.Laws.Encoding.dieLinkReqTimeout (tag : Nat) : Sys2Proof.Laws.Encoding.Statement (.dieLinkReqTimeout tag) := rfl
theorem Sys2Proof.Laws.Encoding.instructionLineArrival (core line : Nat) : Sys2Proof.Laws.Encoding.Statement (.instructionLineArrival core line) := rfl
theorem Sys2Proof.Laws.Encoding.segmentTransitEnd (seg : Nat) : Sys2Proof.Laws.Encoding.Statement (.segmentTransitEnd seg) := rfl
theorem Sys2Proof.Laws.Encoding.inboundPodAccess (p : Sys2Proof.PodAccess) : Sys2Proof.Laws.Encoding.Statement (.inboundPodAccess p) := rfl
theorem Sys2Proof.Laws.Encoding.shootdownRequest (bytes : List Sys2Proof.Byte) : Sys2Proof.Laws.Encoding.Statement (.shootdownRequest bytes) := rfl
theorem Sys2Proof.Laws.Encoding.shootdownExecute : Sys2Proof.Laws.Encoding.Statement .shootdownExecute := rfl
theorem Sys2Proof.Laws.Encoding.flitReplay (port : Sys2Proof.ReplayAt) : Sys2Proof.Laws.Encoding.Statement (.flitReplay port) := rfl
theorem Sys2Proof.Laws.Encoding.portFail (port : Nat) : Sys2Proof.Laws.Encoding.Statement (.portFail port) := rfl
theorem Sys2Proof.Laws.Encoding.laneFail (port lane : Nat) : Sys2Proof.Laws.Encoding.Statement (.laneFail port lane) := rfl
theorem Sys2Proof.Laws.Encoding.laneTurn (port lane : Nat) : Sys2Proof.Laws.Encoding.Statement (.laneTurn port lane) := rfl
theorem Sys2Proof.Laws.Encoding.retrainDone (port : Nat) : Sys2Proof.Laws.Encoding.Statement (.retrainDone port) := rfl
theorem Sys2Proof.Laws.Encoding.portUp (port pdev : Nat) (pport : Sys2Proof.PeerEnd) : Sys2Proof.Laws.Encoding.Statement (.portUp port pdev pport) := rfl
theorem Sys2Proof.Laws.Encoding.packetForward (p : Sys2Proof.FabPkt) : Sys2Proof.Laws.Encoding.Statement (.packetForward p) := rfl
theorem Sys2Proof.Laws.Encoding.fabcfgWrite (v : Sys2Proof.Word) : Sys2Proof.Laws.Encoding.Statement (.fabcfgWrite v) := rfl
theorem Sys2Proof.Laws.Encoding.portStatusRead (port : Nat) : Sys2Proof.Laws.Encoding.Statement (.portStatusRead port) := rfl
theorem Sys2Proof.Laws.Encoding.checkpointGo (v : Sys2Proof.DWord) : Sys2Proof.Laws.Encoding.Statement (.checkpointGo v) := rfl
theorem Sys2Proof.Laws.Encoding.checkpointEnd : Sys2Proof.Laws.Encoding.Statement .checkpointEnd := rfl
theorem Sys2Proof.Laws.Encoding.flitReceive (port : Sys2Proof.DiePort) (module : Nat) (slots : List (BitVec 128)) : Sys2Proof.Laws.Encoding.Statement (.flitReceive port module slots) := rfl
theorem Sys2Proof.Laws.Encoding.rd (port : Sys2Proof.DiePort) (m : Sys2Proof.DlMsg) : Sys2Proof.Laws.Encoding.Statement (.rd port m) := rfl
theorem Sys2Proof.Laws.Encoding.wr (port : Sys2Proof.DiePort) (m : Sys2Proof.DlMsg) : Sys2Proof.Laws.Encoding.Statement (.wr port m) := rfl
theorem Sys2Proof.Laws.Encoding.dlAtom (port : Sys2Proof.DiePort) (m : Sys2Proof.DlMsg) : Sys2Proof.Laws.Encoding.Statement (.dlAtom port m) := rfl
theorem Sys2Proof.Laws.Encoding.probew (port : Sys2Proof.DiePort) (m : Sys2Proof.DlMsg) : Sys2Proof.Laws.Encoding.Statement (.probew port m) := rfl
theorem Sys2Proof.Laws.Encoding.sprd (port : Sys2Proof.DiePort) (m : Sys2Proof.DlMsg) : Sys2Proof.Laws.Encoding.Statement (.sprd port m) := rfl
theorem Sys2Proof.Laws.Encoding.spwr (port : Sys2Proof.DiePort) (m : Sys2Proof.DlMsg) : Sys2Proof.Laws.Encoding.Statement (.spwr port m) := rfl
theorem Sys2Proof.Laws.Encoding.tbupd (port : Sys2Proof.DiePort) (m : Sys2Proof.DlMsg) : Sys2Proof.Laws.Encoding.Statement (.tbupd port m) := rfl
theorem Sys2Proof.Laws.Encoding.promo (port : Sys2Proof.DiePort) (m : Sys2Proof.DlMsg) : Sys2Proof.Laws.Encoding.Statement (.promo port m) := rfl
theorem Sys2Proof.Laws.Encoding.shoot (port : Sys2Proof.DiePort) (m : Sys2Proof.DlMsg) : Sys2Proof.Laws.Encoding.Statement (.shoot port m) := rfl
theorem Sys2Proof.Laws.Encoding.ack (port : Sys2Proof.DiePort) (m : Sys2Proof.DlMsg) : Sys2Proof.Laws.Encoding.Statement (.ack port m) := rfl
theorem Sys2Proof.Laws.Encoding.nack (port : Sys2Proof.DiePort) (m : Sys2Proof.DlMsg) : Sys2Proof.Laws.Encoding.Statement (.nack port m) := rfl
theorem Sys2Proof.Laws.Encoding.pack (port : Sys2Proof.DiePort) (m : Sys2Proof.DlMsg) : Sys2Proof.Laws.Encoding.Statement (.pack port m) := rfl
theorem Sys2Proof.Laws.Encoding.sack (port : Sys2Proof.DiePort) (m : Sys2Proof.DlMsg) : Sys2Proof.Laws.Encoding.Statement (.sack port m) := rfl
theorem Sys2Proof.Laws.Encoding.rdata (port : Sys2Proof.DiePort) (m : Sys2Proof.DlMsg) : Sys2Proof.Laws.Encoding.Statement (.rdata port m) := rfl
theorem Sys2Proof.Laws.Encoding.mfail (port : Sys2Proof.DiePort) (m : Sys2Proof.DlMsg) : Sys2Proof.Laws.Encoding.Statement (.mfail port m) := rfl
theorem Sys2Proof.Laws.Encoding.ident (port : Sys2Proof.DiePort) (m : Sys2Proof.DlMsg) : Sys2Proof.Laws.Encoding.Statement (.ident port m) := rfl
theorem Sys2Proof.Laws.Encoding.cap (port : Sys2Proof.DiePort) (m : Sys2Proof.DlMsg) : Sys2Proof.Laws.Encoding.Statement (.cap port m) := rfl
theorem Sys2Proof.Laws.Encoding.discoveryTimeout (port : Sys2Proof.DiePort) : Sys2Proof.Laws.Encoding.Statement (.discoveryTimeout port) := rfl
theorem Sys2Proof.Laws.Encoding.moduleFail (port : Sys2Proof.DiePort) (module : Nat) : Sys2Proof.Laws.Encoding.Statement (.moduleFail port module) := rfl
theorem Sys2Proof.Laws.Encoding.moduleTrained (port : Sys2Proof.DiePort) (module : Nat) : Sys2Proof.Laws.Encoding.Statement (.moduleTrained port module) := rfl
theorem Sys2Proof.Laws.Encoding.apertureRead (off len : Nat) : Sys2Proof.Laws.Encoding.Statement (.apertureRead off len) := rfl
theorem Sys2Proof.Laws.Encoding.apertureWrite (off : Nat) (bytes : List Sys2Proof.Byte) : Sys2Proof.Laws.Encoding.Statement (.apertureWrite off bytes) := rfl
theorem Sys2Proof.Laws.Encoding.apertureAtomic (off : Nat) (op : Sys2Proof.HostAtomic) : Sys2Proof.Laws.Encoding.Statement (.apertureAtomic off op) := rfl
theorem Sys2Proof.Laws.Encoding.aperrRead : Sys2Proof.Laws.Encoding.Statement .aperrRead := rfl
theorem Sys2Proof.Laws.Encoding.hostCompletion (req : Nat) (r : Sys2Proof.HostReply) : Sys2Proof.Laws.Encoding.Statement (.hostCompletion req r) := rfl
theorem Sys2Proof.Laws.Encoding.throttle (core : Nat) : Sys2Proof.Laws.Encoding.Statement (.throttle core) := rfl
theorem Sys2Proof.Laws.Encoding.thermalStop : Sys2Proof.Laws.Encoding.Statement .thermalStop := rfl
theorem Sys2Proof.Laws.Encoding.thermalResume : Sys2Proof.Laws.Encoding.Statement .thermalResume := rfl
theorem Sys2Proof.Laws.Encoding.pwrctlWrite (v : Sys2Proof.DWord) : Sys2Proof.Laws.Encoding.Statement (.pwrctlWrite v) := rfl
theorem Sys2Proof.Laws.Encoding.reset (img : Sys2Proof.FwImage) : Sys2Proof.Laws.Encoding.Statement (.reset img) := rfl
theorem Sys2Proof.Laws.Encoding.reducedServiceExit : Sys2Proof.Laws.Encoding.Statement .reducedServiceExit := rfl
theorem Sys2Proof.Laws.Encoding.attestationReport (nonce : List Sys2Proof.Byte) : Sys2Proof.Laws.Encoding.Statement (.attestationReport nonce) := rfl
theorem Sys2Proof.Laws.Encoding.hostCompletionTimeout (req : Nat) : Sys2Proof.Laws.Encoding.Statement (.hostCompletionTimeout req) := rfl
theorem Sys2Proof.Laws.Encoding.moduleDegrade (port : Sys2Proof.DiePort) (module : Nat) (trainsX32 : Bool) : Sys2Proof.Laws.Encoding.Statement (.moduleDegrade port module trainsX32) := rfl
theorem Sys2Proof.Laws.Encoding.throttleEnd (core : Nat) : Sys2Proof.Laws.Encoding.Statement (.throttleEnd core) := rfl
end

