-- ==== Sys2Proof/Tests/Slice0.lean ====
section
/-! SUPPORT. Tests: ill-formed terms that the checks refuse, words written out from the encodings, worked examples of the spec, and for
every statement of Certificates/Slice0/Obligations.lean that has hypotheses a concrete state and operands that meet them. -/

namespace Sys2Proof.Tests

set_option Elab.async false

open Sys2Proof Sys2Proof.Machine

/-! ## Helpers -/

/-- An instruction without a guard. -/
def bare : Guard := { en := false, inv := false, reg := 0 }

/-- The fields of a full form without a guard and without mode bits. -/
def ff (d a b : Operand) (m : Word) : Full := { g := bare, d := d, a := a, b := b, wd := false, wa := false, wb := false, h := 0, m := m }

/-- An unused operand. -/
def z : Operand := .v 0

/-- A launch packet: core 0, a handler at 0x100, spill base 0x10000, tensor table at 0x14000, deck table at 0x15000, two shared segments,
eight tiles, 2,048 spill bytes a thread. -/
def pkt : Line := (1 <<< 320) ||| (0x40 <<< 88) ||| (0x10 <<< 128) ||| (0x14 <<< 192) ||| (0x15 <<< 256) ||| (2 <<< 236) ||| (8 <<< 246) ||| (3 <<< 172)

/-- Registers of the thread in lane l: v1 counts lanes from 1, v2 is 10, v4 is an address in the shared window that differs by lane, v6 one
that is the same. -/
def vregs (l : Nat) : Regs :=
  [(1, Reg.write (BitVec.ofNat 32 (l + 1))), (2, Reg.write 10), (4, Reg.write (BitVec.ofNat 32 (4 * l))), (5, Reg.write 0x700000),
   (6, Reg.write 0x40), (7, Reg.write 0x700000)]

/-- The skein's registers: s2 is 5, s4 an address in the shared window, s6 one in global memory, s8 a second one in the shared window, s10
one in the code window, s12 an odd one. -/
def sregs : Regs :=
  [(2, Reg.write 5), (4, Reg.write 0x80), (5, Reg.write 0x700000), (6, Reg.write 0x10040), (8, Reg.write 0x100), (9, Reg.write 0x700000),
   (10, Reg.write 0x200), (12, Reg.write 0x201), (14, Reg.write 0x700000)]

/-- The skein, whose threads stand at pc. -/
def skeinAt (pc : Addr) : Skein :=
  { placedSkein with sregs := sregs, segs := [0, 1], threads := (List.range 8).map fun i => (i, { pc := pc, regs := vregs i, ra := [], rsn := 0 }) }

/-- The page of VA 0x10000, at its own physical address. -/
def leaf0 : Leaf := { fa := 0x10000, size := 16, w := true, x := true, host := false, share := false, exp := true, nl := 0, win := false }

/-- Firmware serves and has written the tables that translation needs: context identifier 0 has ASID 0, which owns frame 1. -/
def mgmt0 : Mgmt := { Mgmt.reset with stage := 6, podMap := 0x1000, owners := 0x20000, asidTable := 0x3000 }

/-- One ply of eight lanes of one skein of a running context, about to issue the instruction at PC 0; its units are present, and a page of
global memory is mapped. -/
def w0 : State :=
  { State.reset with
    sel := some 0, nextOp := 1, plies := [(0, placedPly)], skeins := [(0, skeinAt 0)], ctxs := [(0, { placedCtx with pkt := pkt })],
    segs := [(0, { Seg.reset with cond := .shared 0 }), (1, { Seg.reset with cond := .shared 0 })], dl := [(0, placedPort)], mgmt := mgmt0,
    hbm := [(0x1001, 0x80), (0x20003, 0x80)], tlb := [(144, [{ asid := 0, page := 1, leaf := leaf0 }])] }

/-- w0 with its ply changed. -/
def wp (f : Ply → Ply) : State := { w0 with plies := [(0, f placedPly)] }

/-- R25: `zero` is a legal destination of a lane exchange, of RNG and of FILL, and an s register is none of FILL (R192). -/
theorem test_zero_destination :
    (let f := ff (.special .zero) (.v 1) (.int 1) 0x88000000
     formCauses 16 8 (formShfl f) f = []) ∧
    (let f := ff (.special .zero) z z 0x88000000
     formCauses 16 8 (formRng f) f = []) ∧
    (let f := ff (.special .zero) z z 0
     formCauses 16 8 (formFill f) f = []) ∧
    (let f := ff (.s 2) z z 0
     formCauses 16 8 (formFill f) f = [5]) := by decide

/-- What ply 0 issues with, under a guard. -/
def eg (g : Guard) (s : State) : Env :=
  let p := (s.ply? 0).getD placedPly
  { pid := 0, p := p, pc := s.plyPc p, act := p.active, exec := guardMask s p g p.active }

/-- The same without a guard. -/
def env (s : State) : Env := eg bare s

/-- Checks that no register decides pass and leave u, as a check. -/
def goes (r : Pre) (u : State) : Bool := match r with
  | .go t => decide (t = u)
  | _ => false

/-- The instruction issues in s and executes in u, as a check. -/
def runsFrom (i : Instr) (s u : State) (e : Env) : Bool := match pipe s i with
  | some (sp, early) => decide (Issuing sp.guard s e) && decide (e.exec = guardMask u e.p sp.guard e.act) &&
      decide (issueCauses sp (s.ctx e.p.ctx) e.pc = []) && goes (early { e with exec := 0 } s) u &&
      decide (issueRegs u e.p e.act e.exec sp = .ok) && decide (Ready sp u e)
  | none => false

/-- The instruction issues and executes, as a check. -/
def runs (i : Instr) (s : State) (e : Env) : Bool := runsFrom i s s e

theorem goes_sound {r : Pre} {u : State} (h : goes r u = true) : r = .go u := by
  cases r <;> simp_all [goes]

theorem runsFrom_sound {i : Instr} {s u : State} {e : Env} (h : runsFrom i s u e = true) : ExecutingFrom i s u e := by
  unfold runsFrom at h
  unfold ExecutingFrom
  cases hp : pipe s i with
  | none => simp [hp] at h
  | some x =>
    rw [hp] at h
    simp only [Bool.and_eq_true, decide_eq_true_eq] at h
    obtain ⟨⟨⟨⟨⟨h1, h2⟩, h3⟩, h4⟩, h5⟩, h6⟩ := h
    exact ⟨h1, h2, ⟨h3, goes_sound h4, h5⟩, h6⟩

theorem runs_sound {i : Instr} {s : State} {e : Env} (h : runs i s e = true) : Executing i s e := runsFrom_sound h

/-! ## Well-formed terms and decoding -/

theorem test_wf_refuses : Operand.wf (.v 768) = false ∧ Operand.wf (.s 128) = false ∧ Operand.wf (.int 64) = false ∧
    Operand.wf (.fp 12) = false ∧ Operand.wf (.reserved 971) = false ∧ Operand.wf (.reserved 992) = false ∧
    Operand.wf (.reserved 1023) = false ∧ Guard.wf { bare with reg := 32 } = false ∧
    Full.wf { ff z z z 0 with g := { bare with reg := 32 } } = false ∧ Full.wf (ff (.v 768) z z 0) = false ∧
    Full.wf (ff z (.s 128) z 0) = false ∧ Full.wf (ff z z (.int 64) 0) = false := by decide +kernel

theorem test_wf_accepts : Operand.wf (.v 767) = true ∧ Operand.wf (.s 127) = true ∧ Operand.wf (.int 63) = true ∧
    Operand.wf (.fp 11) = true ∧ Operand.wf (.reserved 972) = true ∧ Full.wf (ff (.v 767) (.s 127) .imm 0xFFFFFFFF) = true := by
  decide +kernel

theorem test_wf_split : Instr.wf (.accalloc (ff (.s 5) z z 0x01000004)) = false ∧ Instr.wf (.accallocTry (ff (.s 5) z z 0x00000004)) = false ∧
    Instr.wf (.rfence (ff z z z 0x01000000)) = false ∧ Instr.wf (.cgloadGroup (ff (.s 1) (.s 4) z 0)) = false ∧
    Instr.wf (.rstat (ff (.s 2) z z 0x01000000)) = false ∧ Instr.wf (.deal (ff (.s 1) (.s 16) z 0x01000000)) = false := by decide +kernel

/-- Parcels as bytes (R34). -/
def word (ps : List Nat) : List Byte := ps.flatMap (leBytes 4)

/-- What the bytes decode to, none where they are refused. -/
def dec (bs : List Byte) : Option (Instr × List Byte) := match decode bs with
  | .ok x => some x
  | .error _ => none

/-- Why the bytes are refused. -/
def refusal (bs : List Byte) : Option DecErr := match decode bs with
  | .ok _ => none
  | .error c => some c

/-- The words that the spec's examples give (02, 03, 06, 08, 09, 10, 11, 12, 14, 15 and 16 of spec/), field by field as they stand there. -/
theorem test_decode_examples :
    dec (word [0xD4808605, 0x01606180, 0]) =
      some (.ffma { g := { en := true, inv := false, reg := 3 }, d := .v 10, a := .v 11, b := .v 12, wd := false, wa := false, wb := true,
                    h := 0x80, m := 0 }, []) ∧
    dec (word [0x8022090C, 0x60A05830]) =
      some (.pair { g := 0, sop := .iaddI, sd := 8, sa := 9, sb := 3, vop := .ffma, vd := 10, va := 11, vb := 12, reuse := false, yld := false }, []) ∧
    dec (word [0xC040C400, 0, 0x00090009]) = some (.bra { (ff z z z 0x00090009) with g := { en := true, inv := true, reg := 2 } }, []) ∧
    dec (word [0xE6000000, 0, 0x04600000]) = some (.fence (ff z z z 0x04600000), []) ∧
    dec (word [0xC1000000, 0, 0xFFFFFFF1]) = some (.call (ff z z z 0xFFFFFFF1), []) ∧
    dec (word [0xC1400000, 0x00C00000, 0]) = some (.calli (ff z (.v 6) z 0), []) ∧
    dec (word [0xC1800000, 0, 0]) = some (.ret (ff z z z 0), []) ∧
    dec (word [0xE480000A, 0x0080A800, 0x88000008]) = some (.atom (ff (.v 20) (.v 4) (.v 21) 0x88000008), []) := by decide +kernel

theorem test_decode_engine_examples :
    dec (word [0xEC400199, 0x68000000, 0x00005006]) = some (.tcpy (ff (.s 50) (.s 64) z 0x5006), []) ∧
    dec (word [0xF0410000, 0x65596000, 3]) = some (.mmazAls (ff z (.s 42) (.s 44) 3), []) ∧
    dec (word [0xF4000198, 0, 0x1000]) = some (.draw (ff (.s 48) z z 0x1000), []) ∧
    dec (word [0xF6000000, 0x65198000, 0x02005000]) = some (.mcst (ff z (.s 40) (.s 48) 0x02005000), []) ∧
    dec (word [0xF8400199, 0x68000000, 0x01000000]) = some (.cgrun (ff (.s 50) (.s 64) z 0x01000000), []) ∧
    dec (word [0xFA400194, 0x68000000, 2]) = some (.rpost (ff (.s 40) (.s 64) z 2), []) := by decide +kernel

/-- DecodedWords' words of IADD, BCST, LD and ACCALLOC `.try`, which no example of the spec gives (R35, R41, R42). -/
theorem test_decode_words :
    dec (word [0b11_00100000_000000_1_1_00011_000000010, 0b1_0000000001_1100000010_001_00000000, 0b10000_000_0_00000_0_0_0000000000000000]) =
      some (.iadd ⟨⟨true, true, 3⟩, .v 5, .v 1, .s 2, false, false, true, 0, 0x80000000⟩, []) ∧
    dec (word [0b11_10000001_000000_0_0_00000_000000001, 0b1_0000000100_1100000010_010_00000000, 0b10000_000_0_00000_0_0_0000000000000000]) =
      some (.bcst ⟨bare, .v 3, .v 4, .s 2, false, true, false, 0, 0x80000000⟩, []) ∧
    dec (word [0b11_10010000_000000_0_0_00000_000000100, 0b0_1100000100_0000000000_000_00000000, 0b10001_001_011_0_00_0000_00_111111111000]) =
      some (.ld (ff (.v 8) (.s 4) z 0x89600FF8), []) ∧
    dec (word [0b11_11000010_000000_0_0_00000_110000010, 0b1_0000000000_0000000000_000_00000000, 0b00000001_000000000000_000000000100]) =
      some (.accallocTry (ff (.s 5) z z 0x01000004), []) := by decide +kernel

/-- R50 to R56 assign no row to these major opcodes. -/
theorem test_reserved_majors : ∀ maj ∈ [0x09, 0x0A, 0x0B, 0x0C, 0x0D, 0x0E, 0x0F, 0x16, 0x17, 0x1D, 0x1E, 0x1F, 0x7F, 0x9C, 0xFF],
    (ops.any fun r => r.maj == maj) = false := by decide +kernel

/-- The premises of ReservedRefused at both reserved frames, an unassigned major opcode, a function past the last row of each opcode that
has several, and a function of an opcode that has one; a short string. -/
theorem wit_ReservedRefused :
    (parcelAt (word [0x00000000]) 0 / 2 ^ 31 % 2 = 0 ∧ 4 ≤ (word [0x7FFFFFFF]).length ∧ parcelAt (word [0x7FFFFFFF]) 0 / 2 ^ 31 % 2 = 0 ∧
      refusal (word [0x7FFFFFFF]) = some .frame) ∧
    (∀ w ∈ [(0xC2400000, 0x09, 0), (0xFFC00000, 0xFF, 0), (0xC8010000, 0x20, 1), (0xD6080000, 0x58, 8), (0xF0030000, 0xC0, 3), (0xF3050000, 0xCC, 5)],
      12 ≤ (word [w.1, 0, 0]).length ∧ parcelAt (word [w.1, 0, 0]) 0 / 2 ^ 30 % 4 = 3 ∧ w.2.1 = parcelAt (word [w.1, 0, 0]) 0 / 2 ^ 22 % 256 ∧
      w.2.2 = parcelAt (word [w.1, 0, 0]) 0 / 2 ^ 16 % 64) ∧
    refusal (word [0xC2400000, 0, 0]) = some .maj ∧ refusal (word [0xC8010000, 0, 0]) = some .fn ∧ refusal (word [0xF3050000, 0, 0]) = some .fn := by decide +kernel

/-- A well-formed instruction with every field at its end; the bytes of one that decodes. -/
theorem wit_DecodeEncode :
    Instr.wf (.ld { g := { en := true, inv := true, reg := 31 }, d := .v 767, a := .reserved 1022, b := .special .slot, wd := true, wa := true,
                    wb := true, h := 0xFF, m := 0xFFFFFFFF }) = true ∧
    Instr.coded (.ld { g := { en := true, inv := true, reg := 31 }, d := .v 767, a := .reserved 1022, b := .special .slot, wd := true, wa := true,
                       wb := true, h := 0xFF, m := 0xFFFFFFFF }) = true ∧
    dec (encode (.fence (ff z z z 0x04600000)) ++ [1, 2]) = some (.fence (ff z z z 0x04600000), [1, 2]) := by decide +kernel

/-- The bytes of `fence.ar.pkg` in memory order (08 of spec/) decode, as EncodeDecode asks. -/
theorem wit_EncodeDecode : dec [0x00, 0x00, 0x00, 0xE6, 0, 0, 0, 0, 0x00, 0x00, 0x60, 0x04] = some (.fence (ff z z z 0x04600000), []) := by
  decide +kernel

/-! ## Worked examples of the spec -/

/-- What an instruction leaves. -/
def after (i : Instr) (s : State) : State := match exec i s with
  | .next t => t
  | _ => s

/-- w0 with other words in the skein's and in thread l's registers. -/
def wr (rs : List (Nat × Word)) (vs : Nat → List (Nat × Word)) : State :=
  { w0 with skeins := [(0, { skeinAt 0 with
      sregs := rs.map fun x => (x.1, Reg.write x.2)
      threads := (List.range 8).map fun l => (l, { pc := 0, regs := (vs l).map fun x => (x.1, Reg.write x.2), ra := [], rsn := 0 }) })] }

/-- Register v n of the thread in lane l. -/
def vAt (s : State) (l n : Nat) : Word := (s.vReg 0 l n).val
/-- Register s n of ply 0. -/
def sAt (s : State) (n : Nat) : Word := (s.sRegOf 0 n).val
/-- A field of ply 0. -/
def plyAt {α : Type} (s : State) (f : Ply → α) : Option α := (s.ply? 0).map f

/-- The operands of 04's example of flags: 2^127 by 4.0 in lane 0, the least subnormal by 0.5 in lane 1. -/
def mulIn (l : Nat) : List (Nat × Word) := if l = 0 then [(2, 0x7F000000), (3, 0x40800000)] else if l = 1 then [(2, 1), (3, 0x3F000000)] else []

/-- 04 of spec/, R80: +inf with OF and NX in lane 0, +0 with UF and NX in lane 1. -/
theorem test_fmul : let t := after (.fmul (ff (.v 1) (.v 2) (.v 3) 0)) (wr [] mulIn)
    vAt t 0 1 = 0x7F800000 ∧ vAt t 1 1 = 0 ∧ plyAt t (fun p => p.csr.fpx) = some 0x1C := by decide +kernel

/-- The same under `.rz`: the greatest finite number in lane 0. -/
theorem test_fmul_rz : let t := after (.fmul (ff (.v 1) (.v 2) (.v 3) 0x01000000)) (wr [] mulIn)
    vAt t 0 1 = 0x7F7FFFFF ∧ vAt t 1 1 = 0 := by decide +kernel

/-- 06 of spec/, R139. -/
theorem test_bpick : vAt (after (.bpick (ff (.v 1) (.v 2) (.v 3) 0x800220D1)) (wr [] fun _ => [(2, 0x1180F022), (3, 0)])) 0 1 = 0x2211FFF0 := by
  decide +kernel

/-- 04 of spec/, R69: eight elements to SLUB4 under blockexp 127. -/
theorem test_cvts_slub : sAt (after (.cvts (ff (.s 1) (.s 16) (.s 2) 0x30000000)) (wr [(2, 127), (16, 0x4059999A), (17, 0xC2200000), (18, 0x3F19999A),
    (19, 0x40A00000), (20, 0x43020000), (21, 0x43480000), (22, 0xC0F00000), (23, 0x40000000)] fun _ => [])) 1 = 0x2985518A := by decide +kernel

/-- 04 of spec/, R77: 3.1875 by a scale of 3.0 to E4M3, by the reciprocal and exactly; both are inexact. -/
theorem test_cvts_scale :
    (cvtsPack .e4m3 rmSatDefault (fun _ => 0) [cvtsIn false 0x40400000 0x3EAAAAAB (cvtsScale .e4m3 0) 0x404C0000]).1 = 0x39 ∧
    (cvtsPack .e4m3 rmSatDefault (fun _ => 0) [cvtsIn true 0x40400000 0x3EAAAAAB (cvtsScale .e4m3 0) 0x404C0000]).1 = 0x38 := by decide +kernel

/-- 07 of spec/, R186: the even lanes' request at a counter of 100, the odd lanes' at one of 0. -/
theorem test_atom_lanes : (atomRun false 0 .n32 100 [(1, 0), (3, 0), (5, 0), (7, 0)]).1 = [100, 101, 104, 109] ∧
    (atomRun false 0 .n32 0 [(2, 0), (4, 0), (6, 0), (8, 0)]).1 = [0, 2, 6, 12] := by decide +kernel

/-- 07 of spec/, R174: slice 15 of die 1. -/
theorem test_slice : sliceOf 0x800000012340 = 64 + 15 := by decide +kernel

/-- 03 of spec/: `iadd s40, s41, #3 || ffma v10, v11, v12`, with 1.5, 2.0 and 0.25. -/
theorem test_pair :
    let q : Pair := ⟨0, .iaddI, 8, 9, 3, .ffma, 10, 11, 12, false, false⟩
    let s := { (wr [] (fun _ => [(10, 0x3E800000), (11, 0x3FC00000), (12, 0x40000000)])) with
               plies := [(0, { placedPly with sregs := [(41, Reg.write 7)] })] }
    let t := after (.pair q) s
    sAt t 40 = 10 ∧ vAt t 7 10 = 0x40500000 ∧ State.plyPc t placedPly = 8 := by decide +kernel

/-- 09 of spec/, R105, R180: a load whose address is odd in lanes 3 and 6 traps in them, and in no other, before it does anything. -/
theorem test_misalign :
    let t := after (.ld (ff (.v 9) (.v 4) z 0x80000000)) (wr [] (fun l => [(4, if l = 3 ∨ l = 6 then 2 else 4 * BitVec.ofNat 32 l), (5, 0x700000)]))
    plyAt t (fun p => p.csr.trapcode) = some 0x104 ∧ plyAt t Ply.active = some 0x48 ∧ plyAt t (fun p => p.csr.trapmask) = some 0xFF ∧
      (t.vReg 0 3 9).st = .full ∧ (t.vReg 0 0 9).st = .full := by decide +kernel

/-- 06 of spec/, R90: `?!v2 bra` by 9 parcels from lanes whose v2 is odd falls through in them first. -/
theorem test_bra :
    let t := after (.bra { (ff z z z 0x00090009) with g := { en := true, inv := true, reg := 2 } }) (wr [] (fun l => [(2, BitVec.ofNat 32 l)]))
    plyAt t Ply.active = some 0xAA ∧ (t.thread 0 1).map Thread.pc = some 12 ∧ (t.thread 0 0).map Thread.pc = some 36 := by decide +kernel

/-- R139: SAR by the width or more fills with the sign; R112: a scalar D takes one result. -/
theorem test_sar : sAt (after (.sar (ff (.s 1) (.s 2) (.s 3) 0x80000000)) (wr [(2, 0x80000000), (3, 40)] fun _ => [])) 1 = 0xFFFFFFFF := by
  decide +kernel

/-- R135, R66: a wrapping and a saturating sum of bytes. -/
theorem test_iadd_s8 : vAt (after (.iadd (ff (.v 1) (.v 2) (.int 1) 0xA0000000)) (wr [] fun _ => [(2, 127)])) 0 1 = 0xFFFFFF80 ∧
    vAt (after (.iadd (ff (.v 1) (.v 2) (.int 1) 0xA0800000)) (wr [] fun _ => [(2, 127)])) 0 1 = 127 := by decide +kernel

/-- R154: lane l takes the value of lane l xor 1. -/
theorem test_shfl : vAt (after (.shfl (ff (.v 9) (.v 1) (.int 1) 0x83000000)) w0) 2 9 = 4 := by decide +kernel

/-- R155: the sums of 1 to 8, inclusive and in all. -/
theorem test_scan_redux : vAt (after (.scan (ff (.v 9) (.v 1) z 0x80000000)) w0) 3 9 = 10 ∧
    sAt (after (.redux (ff (.s 1) (.v 1) z 0x80000000)) w0) 1 = 36 := by decide +kernel

/-- R251: the last of two arrivals, with no sector owed, opens the next phase and reloads ARRIVE. -/
theorem test_barrier_word : tbUpdate (2 <<< 8 + 1 <<< 32) 1 0 false false = (1 + 2 <<< 8 + 2 <<< 32, true) := by decide +kernel

/-! ## Hypotheses of the statements: the step, arithmetic, issue and flow -/

/-- What an outcome leaves in `stall`. -/
def stalls (o : Out) : Option Bool := match o with
  | .next t => some t.stall
  | _ => none

/-- NOP where the next step fetches it; a WAITC for class st that an open store holds; nothing left to issue; an event. -/
theorem wit_StepRunsDecoded :
    (let u := { (State.reset.withFetchWord 96 0xC0000000) with agenda := [] };
      (State.reset.withFetchWord 96 0xC0000000).agenda = [.issue 0] ∧ u.mayIssue 0 = true ∧ (u.wake exec 0).order 0 = [0] ∧
      (u.wake exec 0).ply? 0 = some placedPly ∧ (u.wake exec 0).fetch 0 placedPly = .bytes (word [0xC0000000, 0, 0]) ∧
      dec (padBytes (word [0xC0000000, 0, 0])) = some (.nop (ff z z z 0), []) ∧
      stalls (exec (.nop (ff z z z 0)) ((u.wake exec 0).select 0)) = some false) ∧
    (let p := { placedPly with ops := [{ id := 0, cls := .st, done := false }] };
      let u := { (State.reset.withFetchWord 96 (0xC4C00000 + 0x20000000 * 2 ^ 64)) with agenda := [], plies := [(0, p)] };
      u.mayIssue 0 = true ∧ (u.wake exec 0).order 0 = [0] ∧ (u.wake exec 0).fetch 0 p = .bytes (word [0xC4C00000, 0, 0x20000000]) ∧
      dec (word [0xC4C00000, 0, 0x20000000]) = some (.waitc (ff z z z 0x20000000), []) ∧
      stalls (exec (.waitc (ff z z z 0x20000000)) ((u.wake exec 0).select 0)) = some true) ∧
    State.reset.duePart = none ∧ State.reset.agenda = [] ∧ stalls (exec .thermalStop State.reset) = some false := by decide +kernel

/-- A line whose last parcels begin an instruction that goes on in the next line. -/
def edgeLine : Line := 0xC0000000 <<< 448

/-- A ply that sleeps, and one that needs an entry from memory; one whose line is not an instruction; one whose PC is past the window; one whose line is
absent, one whose line failed, and one whose next line did. -/
theorem wit_FetchTraps : placedPly.asleep = false ∧ placedPly.entNext.isNone = true ∧
    ({ placedPly with wait := some (.frame 0 (some 1)) } : Ply).asleep = false ∧ ({ placedPly with wait := some (.frame 0 (some 1)) } : Ply).entNext = some 0 ∧
    (let s := { w0 with skeins := [(0, skeinAt 56)], ic := [(icKey 0 0 0, .data edgeLine), (icKey 0 0 1, .bad)] };
      (s.plyPc placedPly).toNat = 56 ∧ (∀ n ∈ [0, 1], icKey (plyCore 0) (s.slotAsid 0) (56 / 64 + n) = icKey 0 0 n) ∧
        (List.range 12).all (fun i => inWindow (s.ctx 0) (56 + i)) = true ∧ 64 < 56 % 64 + formSize (leNat (lineSlice edgeLine 56 4)) ∧
        s.nextInstr 0 placedPly = .illop 1 (some (icKey 0 0 1))) ∧
    (wp fun p => { p with wait := some (.sleep 4) }).ply? 0 = some { placedPly with wait := some (.sleep 4) } ∧
    ({ placedPly with wait := some (.sleep 4) } : Ply).asleep = true ∧
    (let s := State.reset.withFetchWord 96 0xC2400000;
      s.ply? 0 = some placedPly ∧ s.nextInstr 0 placedPly = .illop 2 none ∧
        s.fetch 0 placedPly = .bytes (word [0xC2400000, 0, 0]) ∧ refusal (padBytes (word [0xC2400000, 0, 0])) = some .maj) ∧
    (let s := { w0 with skeins := [(0, skeinAt 0x4000000)] };
      inWindow (s.ctx 0) (s.plyPc placedPly).toNat = false ∧ s.nextInstr 0 placedPly = .illop 1 none) ∧
    w0.fetch 0 placedPly = .miss ∧
    (let s := { w0 with ic := [(icKey 0 0 0, .bad)] };
      s.nextInstr 0 placedPly = .illop 1 (some (icKey 0 0 0))) := by decide +kernel

/-- An event, and an instruction that ply 0 issues. -/
theorem wit_NothingStops : (pipe State.reset .thermalStop).isNone = true ∧ w0.sel = some 0 ∧ w0.ply? 0 = some placedPly := by decide +kernel

/-- A step answers a next state. -/
def steps (s : State) : Bool := match step s with
  | .next _ => true
  | _ => false

/-- Memory with bytes listed is canonical, and a step that issues goes on. -/
theorem wit_MemoryStaysCanonical : CanonicalMemory w0 ∧ (∀ a ∈ [[], [Choice.issue 0]], steps { w0 with agenda := a } = true) := by
  unfold CanonicalMemory
  decide +kernel

/-- Arithmetic operands: v12 from v1 and v2. -/
def a3 (m : Word) : Full := ff (.v 12) (.v 1) (.v 2) m
/-- The same with pairs. -/
def a3w (m : Word) : Full := ff (.v 12) (.v 4) (.v 6) m
/-- With one source. -/
def a2 (m : Word) : Full := ff (.v 12) (.v 1) z m

/-- Every integer and bit instruction executes in w0, in a form that its table gives. -/
theorem wit_IntegerResults : ∀ i ∈ [Instr.iadd (a3 0x80000000), .isub (a3 0x80000000), .imul (a3 0x80000000), .imad (a3 0x80000000),
    .iaddw (a3w 0xB0000000), .isubw (a3w 0xB0000000), .imulh (a3 0x80000000), .imadw (a3 0x80000000), .imin (a3 0x80000000), .imax (a3 0x80000000),
    .iabs (a2 0x80000000), .icmp (a3 0x80000000), .icmpw (a3w 0xB0000000), .sel (a3 0x80000301), .and (a3 0x80000000), .or (a3 0x80000000),
    .xor (a3 0x80000000), .andn (a3 0x80000000), .shl (a3 0x80000000), .shr (a3 0x80000000), .sar (a3 0x80000000),
    .shlw (ff (.v 12) (.v 4) (.v 2) 0x80000000), .shrw (ff (.v 12) (.v 4) (.v 2) 0x80000000), .rotl (a3 0x80000000), .popc (a2 0x80000000),
    .clz (a2 0x80000000), .brev (a2 0x80000000), .bfx (a2 0x80000100), .bfi (a2 0x80000100), .bpick (a3 0x80000000), .mov (a2 0x80000000),
    .movi (ff (.s 1) .imm z 0xFFFFFFFF), .lea (ff (.v 12) (.v 4) (.v 2) 0x80000002)],
    (intRow i).isSome = true ∧ runs i w0 (env w0) = true := by decide +kernel

/-- The same of the floating-point, conversion, packing and random instructions, and CVTS with an entry that is not valid. -/
theorem wit_FloatResults : (∀ i ∈ [Instr.fadd (a3 0), .fmul (a3 0x05000000), .ffma (a3 0), .fscale (a3 0), .fmin (a3 0), .fmax (a3 0),
    .fcmp (a3 0x07000000), .fclass (a2 0), .frnd (a2 0), .frcp (a2 0), .frsq (a2 0), .fsqrt (a2 0), .fex2 (a2 0), .flg2 (a2 0), .fsin (a2 0),
    .fcos (a2 0), .ftanh (a2 0), .hadd2 (a3 0x08000000), .hmul2 (a3 0x10000000), .hfma2 (a3 0x08000000), .hmnmx2 (a3 0x08000000),
    .cvt (a2 0x80000000), .pack4 (a2 0xA0000000), .unpk4 (a2 0xA0000000), .pack8 (a2 0x28000000), .unpk8 (a2 0x28000000),
    .rng (ff (.v 12) z z 0x88000000)], (floatRow i).isSome = true ∧ runs i w0 (env w0) = true) ∧
    (let f := ff (.v 12) (.v 1) z 0x08000000;
      let s := { w0 with tidc := [(tidKey (unitCore 0) 0 0, 0)] };
      runs (.cvts f) s (env s) = true ∧ s.tidGet (unitCore 0) (s.plyAgent 0 0 0 0 0) (mf f 11 0) = (s, some 0)) := by decide +kernel

/-- A pair, and the lane exchanges; BCST from a faulted, an EMPTY and a dead lane's register. -/
theorem wit_PairResult : runs (.pair ⟨0, .iaddwI, 8, 10, 3, .imad, 10, 1, 2, false, false⟩) w0 (env w0) = true := by decide +kernel

/-- w0 with register v9 of every thread replaced. -/
def w9 (r : Reg) : State :=
  { w0 with skeins := [(0, { skeinAt 0 with threads := (List.range 8).map fun i =>
      (i, { pc := 0, regs := Tbl.set (vregs i) 9 r, ra := [], rsn := 0 }) })] }

/-- What a check of registers gives: 0 ok, 1 block, 2 a trap. -/
def chkKind (c : Chk) : Nat := match c with
  | .ok => 0
  | .block => 1
  | .trap _ => 2

theorem wit_LaneExchange : (∀ i ∈ [Instr.shfl (ff (.v 12) (.v 1) (.int 3) 0x83000004), .bcst (ff (.v 12) (.v 1) (.int 7) 0x80000000),
      .ballot (ff (.v 12) (.v 1) z 0x80000000), .vote (ff (.v 12) (.v 1) z 0x82000000), .matchLanes (ff (.v 12) (.v 1) z 0x80000000),
      .actmask (ff (.v 12) z z 0x80000000), .redux (ff (.v 12) (.v 1) z 0x80000000), .scan (ff (.v 12) (.v 1) z 0x80020000)],
      runs i w0 (env w0) = true ∧ (laneRow w0 (env w0) i).isSome = true) ∧
    (∀ r ∈ [{ val := 1, st := .faulted, pend := none }, { val := 0, st := .empty, pend := some 0 }],
      ∀ m ∈ [false, true],
      let s := w9 r;
      let f := { (ff (.v 12) (.v 9) (.int 7) 0x80000000) with wa := m };
      Issuing f.g s (env s) ∧ (env s).exec ≠ 0 ∧ issueCauses (bcstSpec s f) (s.ctx 0) 0 = [] ∧ bcstLane s 0 (env s).p f = 7 ∧
        ((env s).p.tidAt 7).isSome = true ∧ regsFull s (env s).p (env s).act [⟨f.b, 1, false⟩] = true ∧ f.g.en = false ∧
        (rangeRegs s (env s).p (1#64 <<< 7) ⟨f.a, if ty64' f then 2 else 1, f.wa⟩).map Prod.snd = [r] ∧
        (pipe s (.bcst f)).map (fun x => chkKind (issueRegs s (env s).p (env s).act (env s).exec x.1)) =
          some (if r.st = .faulted ∨ m = true then 2 else 1)) := by decide +kernel

/-- The instruction issues and its encoding and early refusals let it go on, as a check. -/
def legal (i : Instr) (s : State) (e : Env) : Bool := match pipe s i with
  | some (sp, early) => decide (Issuing sp.guard s e) && decide (issueCauses sp (s.ctx e.p.ctx) e.pc = []) && goes (early { e with exec := 0 } s) s
  | none => false

/-- The instruction issues, with the refusals that it meets. -/
def refusals (i : Instr) (s : State) (e : Env) : Option (List Nat) := match pipe s i with
  | some (sp, early) => if Issuing sp.guard s e then
      some (issueCauses sp (s.ctx e.p.ctx) e.pc ++ match early { e with exec := 0 } s with
        | .refuse => [0x0A]
        | _ => []) else none
  | none => none

/-- The checks that no register decides make the instruction wait. -/
def earlyWaits (i : Instr) (s : State) (e : Env) : Bool := match pipe s i with
  | some (sp, early) => decide (Issuing sp.guard s e) && decide (issueCauses sp (s.ctx e.p.ctx) e.pc = []) &&
      (match early { e with exec := 0 } s with
        | .stall _ => true
        | _ => false)
  | none => false

/-- The check of an instruction's guard and operands. -/
def checks (i : Instr) (s : State) (e : Env) : Option Nat := (pipe s i).map fun x => chkKind (issueRegs s e.p e.act e.exec x.1)

/-- A guard on v9. -/
def g9 : Guard := { en := true, inv := false, reg := 9 }
/-- A guard that is false in every lane of w0, whose v2 is 10. -/
def g2 : Guard := { en := true, inv := false, reg := 2 }
/-- A register that a fault record fills, and one that awaits an operation. -/
def faulted : Reg := { val := 1, st := .faulted, pend := none }
/-- A register that awaits an operation. -/
def empty : Reg := { val := 0, st := .empty, pend := some 0 }

/-- The side log of the first die 0 slice holds a store to a line that is the same in no other slice: every request for it waits. -/
def wlog (line : Nat) (s : State) : State :=
  let who : Who := { asid := 0, slot := some 0, core := 0, part := 0, pslot := 0, uid := some 0, dev := 0, inb := false }
  { s with slices := [(sliceOf (line * 64), { Slice.reset with log := [{ who := who, line := line, act := .write 0 1, kind := 0, unres := false, req := none, rid := none }] })] }

/-- A reserved operand; the end of the window; an absent unit; a tensor entry that a side log holds; a guard register that is FAULTED, and EMPTY,
with a FAULTED operand beside it and without; an operand that is FAULTED, EMPTY under a mode bit, and EMPTY; a destination lent; a full counter. -/
theorem wit_IssueRules :
    refusals (.iadd (ff (.v 12) (.reserved 972) (.v 2) 0x80000000)) w0 (env w0) = some [5] ∧
    (let s := { w0 with skeins := [(0, skeinAt 0x3FFFFFC)] };
      refusals (.nop (ff z z z 0)) s (env s) = some [1]) ∧
    (let s := { w0 with dl := [] };
      refusals (.draw (ff (.s 16) z z 0)) s (env s) = some [0x0A]) ∧
    (let i := Instr.iadd { (a3 0x80000000) with g := g9 };
      refusals i (w9 faulted) (eg g9 (w9 faulted)) = some [] ∧ checks i (w9 faulted) (eg g9 (w9 faulted)) = some 2 ∧
      refusals i (w9 empty) (eg g9 (w9 empty)) = some [] ∧ checks i (w9 empty) (eg g9 (w9 empty)) = some 1) ∧
    (let s := { w0 with skeins := [(0, { skeinAt 0 with threads := (List.range 8).map fun i =>
        (i, { pc := 0, regs := [(1, faulted), (9, if i = 0 then Reg.write 1 else empty)], ra := [], rsn := 0 }) })] };
      refusals (.iadd { (a3 0x80000000) with g := g9 }) s (eg g9 s) = some [] ∧ checks (.iadd { (a3 0x80000000) with g := g9 }) s (eg g9 s) = some 2) ∧
    (let s := wlog 0x500 w0;
      earlyWaits (.tcpy (ff (.s 16) (.s 4) z 0)) s (env s) = true) ∧
    (let f := ff (.v 12) (.v 9) (.v 2) 0x80000000;
      legal (.iadd f) (w9 faulted) (env (w9 faulted)) = true ∧ checks (.iadd f) (w9 faulted) (env (w9 faulted)) = some 2 ∧
      legal (.iadd { f with wa := true }) (w9 empty) (env (w9 empty)) = true ∧
      checks (.iadd { f with wa := true }) (w9 empty) (env (w9 empty)) = some 2 ∧
      legal (.iadd f) (w9 empty) (env (w9 empty)) = true ∧ checks (.iadd f) (w9 empty) (env (w9 empty)) = some 1) ∧
    (let s := { w0 with lent := [{ op := 0, skein := 0, tid := 7, reg := 12, n := 1 }] };
      legal (.iadd (a3 0x80000000)) s (env s) = true ∧ checks (.iadd (a3 0x80000000)) s (env s) = some 0 ∧
      writesLent s placedPly (env s).exec [(.v 12, 1)] = true) ∧
    (let s := wp fun p => { p with ops := (List.range 63).map fun i => { id := i, cls := .ld, done := false } };
      let i := Instr.ld (ff (.v 12) (.v 4) z 0x88000000);
      legal i s (env s) = true ∧ checks i s (env s) = some 0 ∧ classFull (env s).p (some .ld) = true) := by decide +kernel

/-- A guard that is false in every lane, of an instruction of each kind; NOP. -/
theorem wit_FalseGuard : (∀ i ∈ [Instr.iadd { (a3 0x80000000) with g := g2 }, .ld { (ff (.v 12) (.v 4) z 0x88000000) with g := g2 },
      .bra { (ff z z z 0x00090009) with g := g2 }, .calli { (ff z (.v 4) z 0) with g := g2 }, .reform { (ff z (.v 4) z 0) with g := g2 },
      .exit { (ff z z z 0) with g := g2 }],
      legal i w0 (eg g2 w0) = true ∧ (eg g2 w0).exec = 0) ∧
    inWindow (w0.ctx 0) (pcRel (eg g2 w0) 16 9).toNat = true ∧ inWindow (w0.ctx 0) (nextPc (eg g2 w0)).toNat = true ∧
    runs (.nop (ff z z z 0)) w0 (env w0) = true := by decide +kernel

/-- A guard that is true in the odd lanes: v1 counts from 1. -/
def g1 : Guard := { en := true, inv := true, reg := 1 }

/-- An entry over every lane, whose fall-through part runs. -/
def ent : DEntry := { calli := false, lanes := 0xFF, rpc := some 0x80, cpc := 0, cur := 0, parts := [⟨0xFF, 0⟩, ⟨0, 0x40⟩], spilled := false }

/-- w0 with n entries open. -/
def wn (n : Nat) : State := wp fun p => { p with ents := List.replicate n ent }

/-- A branch: the fields with targets of t and r parcels. -/
def braF (g : Guard) (m : Word) : Full := { (ff z z z m) with g := g }

/-- JMP; JMPR; BRA taken by all, by some with 0, 16 and 24 or more entries open, and out of the window. -/
theorem wit_Jumps :
    (runs (.jmp (ff z z z 4)) w0 (env w0) = true ∧ InCode w0 (env w0) (pcRel (env w0) 32 4)) ∧
    (runs (.jmpr (ff z (.s 10) z 0)) w0 (env w0) = true ∧ sPairVal w0 placedPly (.s 10) = 0x200 ∧ InCode w0 (env w0) 0x200) ∧
    (runs (.bra (braF bare 0x00090009)) w0 (env w0) = true ∧ (env w0).act &&& ~~~(env w0).exec = 0) ∧
    (∀ n ∈ [0, 15, 16], let s := wn n;
      runs (.bra (braF g1 0x00090009)) s (eg g1 s) = true ∧ (eg g1 s).act &&& ~~~(eg g1 s).exec ≠ 0 ∧ InCode s (eg g1 s) (pcRel (eg g1 s) 16 9) ∧
      InCode s (eg g1 s) (nextPc (eg g1 s)) ∧ (eg g1 s).p.depth = n ∧ frameFull (eg g1 s).p = false ∧ seqStall (eg g1 s) s 1 = false) ∧
    (∃ n, frameFull (eg g1 (wn n)).p = true ∧ runs (.bra (braF g1 0x00090009)) (wn n) (eg g1 (wn n)) = true) ∧
    ¬ InCode w0 (env w0) (pcRel (env w0) 16 0x8000) := by
  refine ⟨?_, ?_, ?_, ?_, ⟨272, ?_⟩, ?_⟩ <;> decide +kernel

/-- TakesNone, as a check. -/
def takesNone (s : State) (pid : Nat) (ending : Bool) (ok : Cond → Bool) : Bool := match s.ply? pid with
  | some p => (p.hnd.isSome && !ending) || (takeFirst ok p.conds).isNone
  | none => true

theorem takesNone_sound {s : State} {pid : Nat} {ending : Bool} {ok : Cond → Bool} (h : takesNone s pid ending ok = true) :
    TakesNone s pid ending ok := by
  intro p hp
  simp only [takesNone, hp, Bool.or_eq_true, Bool.and_eq_true, Bool.not_eq_true', Option.isNone_iff_eq_none] at h
  exact h

/-- w0 with the return addresses of its threads replaced. -/
def wra (f : Nat → List Addr × Nat) : State :=
  { w0 with skeins := [(0, { skeinAt 0 with threads := (List.range 8).map fun i => (i, { pc := 0, regs := vregs i, ra := (f i).1, rsn := (f i).2 }) })] }

/-- Targets in v4 and v5 that lie in the window, equal or by lane. -/
def wt (f : Nat → Word) : State :=
  { w0 with skeins := [(0, { skeinAt 0 with threads := (List.range 8).map fun i =>
      (i, { pc := 0, regs := [(1, Reg.write (BitVec.ofNat 32 (i + 1))), (4, Reg.write (f i))], ra := [], rsn := 0 }) })] }

/-- The targets of the executing lanes. -/
def targets (s : State) (e : Env) : List (Nat × Addr) := e.lanes.map fun l => (l, BitVec.ofNat 56 (opVal s e.pid e.p l true .n64 0 (.v 4)))

/-- CALL with room, with four addresses on chip, and with a full stack; CALLI of all lanes to one target, to several, and of some. -/
theorem wit_Calls :
    (∀ s ∈ [w0, wra fun _ => ([4, 8, 12, 16], 63)], runs (.call (ff z z z 4)) s (env s) = true ∧ InCode s (env s) (pcRel (env s) 32 4) ∧
      pushFull (s.threadList placedPly 0xFF) = [] ∧ seqStall (env s) s (b2n (pushSpills (env s) 0xFF s)) = false) ∧
    (let s := wra fun _ => ([4, 8, 12, 16], 64);
      runs (.call (ff z z z 4)) s (env s) = true ∧ pushFull (s.threadList placedPly 0xFF) ≠ []) ∧
    (∀ s ∈ [wt fun _ => 0x40, wt fun l => BitVec.ofNat 32 (4 * l)], runs (.calli (ff z (.v 4) z 0)) s (env s) = true ∧
      (∀ x ∈ targets s (env s), InCode s (env s) x.2 ∧ x.2.toNat % 4 = 0) ∧ pushFull (s.threadList placedPly 0xFF) = [] ∧
      frameFull (env s).p = false ∧ seqStall (env s) s (b2n (16 ≤ (env s).p.depth) + b2n (pushSpills (env s) (env s).exec s)) = false) ∧
    (groupByPc (targets (wt fun _ => 0x40) (env w0))).length = 1 ∧ (groupByPc (targets (wt fun l => BitVec.ofNat 32 (4 * l)) (env w0))).length = 8 ∧
    (let s := wt fun _ => 0x40;
      runs (.calli { (ff z (.v 4) z 0) with g := g1 }) s (eg g1 s) = true ∧ (eg g1 s).act &&& ~~~(eg g1 s).exec ≠ 0) ∧
    (0, 0) ∈ placedPly.threadsOf 0xFF ∧ (w0.thread 0 0).isSome = true := by decide +kernel

/-- Threads without a return address on chip. -/
def noRa (s : State) : List (Nat × Nat × Thread) := (s.threadList placedPly 0xFF).filter fun x => x.2.2.ra.isEmpty

/-- RET with nothing to return to; with spilled addresses, when its refill is asked for and when it has come; on chip to one address and to
several. -/
theorem wit_Returns :
    (let s := wra fun _ => ([], 0);
      runs (.ret (ff z z z 0)) s (env s) = true ∧ ((noRa s).filter fun x => x.2.2.rsn = 0) ≠ []) ∧
    (let s := wra fun _ => ([], 1);
      runs (.ret (ff z z z 0)) s (env s) = true ∧ noRa s ≠ [] ∧ ((noRa s).filter fun x => x.2.2.rsn = 0) = [] ∧ (env s).p.wait = none ∧
      s.acquiring placedPly 0 = false ∧ placedPly.full .ld = false ∧
      (let t := after (.ret (ff z z z 0)) s;
        let t' := { t with reqs := t.reqs.mapVals fun _ r => { r with parts := r.parts.map fun (q : MPart) => { q with st := .ready (leBytes q.n 0x40) } } };
        runs (.ret (ff z z z 0)) t' (env t') = true ∧ (env t').p.wait = some (.op 1) ∧ (t'.reqs.get 1).isSome = true ∧
          stalls (exec (.ret (ff z z z 0)) t') = some false)) ∧
    (∀ s ∈ [wra fun _ => ([0x40], 0), wra fun l => ([BitVec.ofNat 56 (4 * l)], 0)], runs (.ret (ff z z z 0)) s (env s) = true ∧ noRa s = [] ∧
      (s.threadList placedPly 0xFF).all (fun x => x.2.2.ra.all fun a => decide (InCode s (env s) a ∧ a.toNat % 4 = 0)) = true ∧
      frameFull (env s).p = false ∧ seqStall (env s) s (b2n (16 ≤ (env s).p.depth)) = false) := by decide +kernel

/-- RET on chip: to one address, to eight, to eight where no frame has room, outside the code window, and to a misaligned address; and with a
refill one of whose slots failed. -/
theorem wit_ReturnTraps :
    (∀ x ∈ [(0x40, 0, 1), (0, 4, 8)], let s := wra fun l => ([BitVec.ofNat 56 (x.1 + x.2.1 * l)], 0);
      (groupByPc ((s.threadList placedPly 0xFF).filterMap fun y => y.2.2.ra.head?.map fun a => (y.1, a))).length = x.2.2) ∧
    (let s := { (wra fun l => ([BitVec.ofNat 56 (4 * l)], 0)) with plies := (wn 272).plies };
      runs (.ret (ff z z z 0)) s (env s) = true ∧ frameFull (env s).p = true ∧ noRa s = []) ∧
    (∀ a ∈ [0x4000000, 0x42], let s := wra fun _ => ([BitVec.ofNat 56 a], 0);
      runs (.ret (ff z z z 0)) s (env s) = true ∧ noRa s = [] ∧ decide (InCode s (env s) (BitVec.ofNat 56 a)) = (a == 0x42)) ∧
    (let t := after (.ret (ff z z z 0)) (wra fun _ => ([], 1));
      let t' := { t with reqs := t.reqs.mapVals fun _ r => { r with parts := r.parts.map fun (q : MPart) =>
        { q with st := if q.lane = 3 then .bad 2 else .ready (leBytes q.n 0x40) } } };
      runs (.ret (ff z z z 0)) t' (env t') = true ∧ (env t').p.wait = some (.op 1) ∧ (t'.reqs.get 1).map (fun r => r.parts.filterMap fun q => match q.st with
        | .bad n => some (q.lane, n)
        | _ => none) = some [(3, 2)]) := by decide +kernel

/-- w0 with an open operation of a class. -/
def wop (c : Cls) : State := wp fun p => { p with ops := [{ id := 0, cls := c, done := false }] }

/-- REFORM of some lanes, of all with nothing outstanding and with something; EXIT in the same cases. -/
theorem wit_LanesLeave :
    (let s := wt fun _ => 0x40;
      runs (.reform { (ff z (.v 4) z 0) with g := g1 }) s (eg g1 s) = true ∧ (∀ x ∈ targets s (eg g1 s), InCode s (eg g1 s) x.2 ∧ x.2.toNat % 4 = 0) ∧
      (eg g1 s).exec &&& placedPly.live ≠ placedPly.live ∧ InCode s (eg g1 s) (nextPc (eg g1 s)) ∧ reformStays (eg g1 s) (targets s (eg g1 s)) s ≠ 0 ∧
      Tbl.rising (s.part 0).bobbins = true ∧ reformStays (env s) (targets s (env s)) s = 0 ∧
      runs (.reform (ff z (.v 4) z 0)) s (env s) = true ∧ (env s).exec &&& placedPly.live = placedPly.live ∧ s.plyQuiet 0 = true) ∧
    TakesNone w0 0 true anyCond ∧ TakesNone w0 0 false anyCond ∧
    (let s := { (wt fun _ => 0x40) with plies := (wop .ld).plies };
      runs (.reform (ff z (.v 4) z 0)) s (env s) = true ∧ s.plyQuiet 0 = false ∧ (env s).p.wait = none) ∧
    (runs (.exit { (ff z z z 0) with g := g1 }) w0 (eg g1 w0) = true ∧ (eg g1 w0).exec &&& placedPly.live ≠ placedPly.live) ∧
    (runs (.exit (ff z z z 0)) w0 (env w0) = true ∧ (env w0).exec = (env w0).act ∧ w0.plyQuiet 0 = true ∧ w0.lastOnCore 0 placedPly = true ∧
      (w0.wcDrain 0 fun x => x.slot == 0).wcWaiting 0 0 (fun _ _ => true) = false) ∧
    (runs (.exit (ff z z z 0)) (wop .ld) (env (wop .ld)) = true ∧ (wop .ld).plyQuiet 0 = false) ∧
    (∀ g ∈ [g1, bare], (match exitGo (eg g w0) w0 with
      | .moved _ => true
      | _ => false) = true) ∧
    (placedPly.dropLanes (eg g1 w0).exec).live ≠ 0 ∧ (placedPly.dropLanes (env w0).exec).live = 0 := by
  refine ⟨?_, takesNone_sound ?_, takesNone_sound ?_, ?_, ?_, ?_, ?_, ?_, ?_, ?_⟩ <;> decide +kernel

/-- w0 with a barrier of the skein. -/
def wbar (b : PlyBar) (w : Option Wait) : State :=
  { (wp fun p => { p with wait := w }) with skeins := [(0, { skeinAt 0 with bar := b })] }

/-- A barrier with one arrival of two, and one never used. -/
def bar1 : PlyBar := { phase := 5, arrivals := 1, count := 2, pkgDone := false, reports := [] }

/-- Arrivals that complete a phase and that do not; BARARR, BAR and BARWT of the core-level barrier, at once and in their waits; a release that an
open store holds up. -/
theorem wit_Barriers :
    (∀ b ∈ [bar1, { bar1 with count := 3 }, PlyBar.launch], (wbar b none).barOf 0 placedPly .core = b) ∧
    (∀ lv ∈ [Scope.core, .quad, .die, .pkg], stalls (.next ((wbar bar1 none).arrive 0 placedPly lv 2).2) = some false) ∧
    (let s := wbar bar1 none;
      (s.release 0 .core).2 = true ∧ runs (.bararr (ff (.s 1) z z 2)) s (env s) = true ∧ runs (.bar (ff z z z 2)) s (env s) = true ∧
      TakesNone (s.release 0 .core).1 0 false (fun c => remoteScope .core && isRemoteCond c.kind) ∧
      (((s.release 0 .core).1.arrive 0 placedPly .core 2).2.barOf 0 placedPly .core).phase ≠ 5 ∧
      (leaving (env s) .core ((s.release 0 .core).1.arrive 0 placedPly .core 2).2).acqDone s.nextOp = true) ∧
    (let s := wbar { bar1 with count := 3 } none;
      (((s.release 0 .core).1.arrive 0 placedPly .core 3).2.barOf 0 placedPly .core).phase = 5) ∧
    (let s := { (wop .st) with reqs := [(0, { (newReq (env w0) .st .st (ff z z z 0) 0 true [onePart (env w0) 4 .wait]) with dst := .special .zero })] };
      (s.release 0 .core).2 = false ∧ runs (.bararr (ff (.s 1) z z 2)) s (env s) = true ∧ runs (.bar (ff z z z 2)) s (env s) = true) ∧
    (∀ ph ∈ [5, 4], let s := wbar { bar1 with phase := BitVec.ofNat 32 ph } none;
      runs (.barwt (ff z (.s 2) z 0)) s (env s) = true ∧ (sWords s placedPly (.s 2) 1).headD 0 = 5 ∧ (leaving (env s) .core s).acqDone s.nextOp = true) ∧
    (∀ w ∈ [Wait.bar .core 4, .barAcq .core 4 0], let s := wbar bar1 (some w);
      runs (.bar (ff z z z 2)) s (env s) = true ∧ runs (.barwt (ff z (.s 2) z 0)) s (env s) = true ∧ s.acqDone 0 = true ∧
      (leaving (env s) .core s).acqDone s.nextOp = true) := by
  refine ⟨?_, ?_, ⟨?_, ?_, ?_, takesNone_sound ?_, ?_, ?_⟩, ?_, ?_, ?_, ?_⟩ <;> decide +kernel

/-- w0 with a replica, so that an acquire of the package takes time. -/
def wrep : State := { w0 with segs := Tbl.set w0.segs 2 { Seg.reset with cond := .scratch 0, st := .s, home := 512 } }

/-- WAITC over and within its bound, with UNRES, and with the acquire of an engine class ended and not; YIELD; SLEEP of none and of some; the
ends of a sleep, of a join window and of starvation. -/
theorem wit_WaitsAndWindows :
    (runs (.waitc (ff z z z 0)) (wop .ld) (env (wop .ld)) = true ∧ (wop .ld).ply? 0 = some (env (wop .ld)).p ∧ 0 < (env (wop .ld)).p.count .ld) ∧
    (let s := wp fun p => { p with unres := 1 };
      runs (.waitc (ff z z z 0x20000000)) s (env s) = true ∧ (env s).p.count .st ≤ 0 ∧ (env s).p.unres ≠ 0) ∧
    (runs (.waitc (ff z z z 0x20000000)) w0 (env w0) = true ∧ TakesNone w0 0 false (fun x => waitcTakes .st x)) ∧
    (runs (.waitc (ff z z z 0x40000000)) w0 (env w0) = true ∧ TakesNone w0 0 false (fun x => waitcTakes .cpy x) ∧
      (leaving (env w0) .pkg w0).acqDone w0.nextOp = true) ∧
    (runs (.waitc (ff z z z 0x40000000)) wrep (env wrep) = true ∧ (leaving (env wrep) .pkg wrep).acqDone wrep.nextOp = false) ∧
    runs (.yield (ff z z z 0)) w0 (env w0) = true ∧ (∀ m ∈ [0, 1, 0xFFFF], runs (.sleep (ff z z z (BitVec.ofNat 32 m))) w0 (env w0) = true) ∧
    ((wp fun p => { p with wait := some (.sleep 0) }).ply? 0).isSome = true ∧ ((wp fun p => { p with hold := some 0 }).ply? 0).isSome = true ∧
    ((wp fun p => { p with starve := 256 }).ply? 0).isSome = true := by
  refine ⟨?_, ?_, ⟨?_, takesNone_sound ?_⟩, ⟨?_, takesNone_sound ?_, ?_⟩, ?_, ?_, ?_, ?_, ?_, ?_⟩ <;> decide +kernel

/-- A handler that runs in every lane. -/
def inHnd (p : Ply) : Ply := { p with hnd := some { lanes := 0xFF, ents := [] }, csr := { p.csr with trappc := 0x40, trapmask := 0xFF } }

/-- A trap with a handler to enter; in a handler; and without one. -/
theorem wit_TrapEntry : (w0.ply? 0 = some placedPly ∧ placedPly.hnd = none ∧ pktHandler (w0.ctx 0) ≠ 0) ∧
    ((wp inHnd).ply? 0 = some (inHnd placedPly) ∧ (inHnd placedPly).hnd.isSome = true) ∧
    (let s := { w0 with ctxs := [(0, placedCtx)] };
      s.ply? 0 = some placedPly ∧ pktHandler (s.ctx 0) = 0) := by decide +kernel

/-- TRAP and BKPT that execute, and those that a stray field refuses; ERET to a PC in the window, outside it, and misaligned. -/
theorem wit_TrapsAndReturn : runs (.trap (ff z z z 0xFF)) w0 (env w0) = true ∧ runs (.bkpt (ff z z z 0)) w0 (env w0) = true ∧
    refusals (.trap (ff z z z 0x100)) w0 (env w0) = some [8] ∧ refusals (.bkpt (ff z z z 1)) w0 (env w0) = some [8] ∧
    refusals (.trap (ff (.v 1) z z 0)) w0 (env w0) = some [8] ∧
    (∀ pc ∈ [0x40, 0x4000000, 0x42], let s := wp fun p => { inHnd p with csr := { (inHnd p).csr with trappc := BitVec.ofNat 56 pc } };
      runs (.eret (ff z z z 0)) s (env s) = true) ∧
    InCode w0 (env w0) 0x40 ∧ ¬ InCode w0 (env w0) 0x4000000 ∧ InCode w0 (env w0) 0x42 := by decide +kernel

/-- CSRR of the first and the last CSR of every kind; CSRW of the writable ones and of a read-only one; a REMERR that is set. -/
theorem wit_ControlRegisters : (∀ n ∈ [0x000, 0x001, 0x002, 0x010, 0x012, 0x014, 0x016, 0x017, 0x018, 0x020, 0x022, 0x024, 0x026, 0x030, 0x032, 0x034, 0x080],
      runs (.csrr (ff (.v 12) z z (BitVec.ofNat 32 n))) w0 (env w0) = true) ∧
    (∀ n ∈ [0x000, 0x001, 0x002, 0x010, 0x080, 0x030], let s := { w0 with remerr := [(remKey 0 0, 3 <<< 62)] };
      runs (.csrw (ff z (.int 3) z (BitVec.ofNat 32 n))) s (env s) = true) := by decide +kernel

/-! ## Hypotheses of the statements: memory -/

theorem no_blocked {s : State} (h : s.reqs = []) : ∀ n r q, s.blocked n r q = false := by
  intro n r q
  simp [State.blocked, State.blockedBy, h]

/-- What a line's home answers: 0 the line, 1 a host page, 2 a refusal, 3 poison. -/
def resKind (r : LineRes) : Nat := match r with
  | .ok _ => 0
  | .host _ => 1
  | .fail _ => 2
  | .poison => 3

/-- LD, ATOM, ATOMCAS and FILL with aligned addresses in the shared window and in global memory. -/
theorem wit_LoadsGoOut : (∀ i ∈ [Instr.ld (ff (.v 12) (.v 4) z 0x88000000), .ld (ff (.s 12) (.s 6) z 0x88000000), .ld (ff (.v 12) (.s 4) z 0xB8080000),
      .atom (ff (.v 12) (.v 4) (.v 1) 0x88000000), .atomcas (ff (.v 12) (.s 6) (.v 1) 0x88000000), .fill (ff (.v 12) z z 0x000001FF)],
      runs i w0 (env w0) = true) ∧ w0.acquiring placedPly 0 = false ∧
    (∀ f ∈ [ff (.v 12) (.v 4) z 0x88000000, ff (.s 12) (.s 6) z 0x88000000, ff (.v 12) (.s 6) z 0xB8080000],
      misaligned (env w0) (isS f.d) 4 (laneGas w0 (env w0) (isS f.d) f) = [] ∧ otherDie (env w0) (laneGas w0 (env w0) (isS f.d) f) = [] ∧
      ∀ q ∈ laneParts w0 (env w0) (laneGas w0 (env w0) (isS f.d) f) 4 (fun _ => 0) (fun _ => 0), q.place ∈
        ((List.range 8).map fun l => Place.loc 0 (4 * l)) ++ [.global 0x10040]) ∧
    ordRel (mOrd (ff (.v 12) (.v 4) z 0x88000000)) = false ∧ slotsPass w0 (env w0) (ff (.v 12) z z 0x17F) = false ∧
    slotsPass w0 (env w0) (ff (.v 12) z z 0x180) = true := by decide +kernel

/-- Each form with nothing in its way; ST with a release; PREF. -/
theorem wit_AccessesComplete : (∀ i ∈ [Instr.ld (ff (.v 12) (.v 4) z 0x88000000), .fill (ff (.v 12) z z 0), .st (ff z (.v 4) (.v 1) 0x88000000),
      .st (ff z (.s 6) (.int 3) 0x8B600000), .atom (ff (.v 12) (.v 4) (.v 1) 0x8C600000), .atomcas (ff (.v 12) (.v 4) (.v 1) 0x88000000),
      .red (ff z (.v 4) (.v 1) 0x88000000), .spill (ff z (.v 1) z 0), .pref (ff z (.s 6) z 0)], runs i w0 (env w0) = true) ∧
    w0.acquiring placedPly 0 = false ∧ (w0.release 0 .pkg).2 = true ∧ (∀ n r q, w0.blocked n r q = false) ∧
    (w0.podClear 0 placedPly (laneParts w0 (env w0) (laneGas w0 (env w0) false (ff (.v 12) (.v 4) z 0)) 4 (fun _ => 0) (fun _ => 0))).2 = true ∧
    misaligned (env w0) false 4 (laneGas w0 (env w0) false (ff (.v 12) (.v 4) z 0)) = [] := by
  refine ⟨?_, ?_, ?_, no_blocked rfl, ?_, ?_⟩ <;> decide +kernel

/-- Addresses two past a multiple of 4; an atomic on the other die's window; slots past the area. -/
theorem wit_AccessTraps : (∀ i ∈ [Instr.ld (ff (.v 12) (.v 4) z 0x88000002), .st (ff z (.v 4) (.v 1) 0x88000002), .atom (ff (.v 12) (.v 4) (.v 1) 0x88000002),
      .atomcas (ff (.v 12) (.v 4) (.v 1) 0x88000002), .red (ff z (.v 4) (.v 1) 0x88000002), .spill (ff z (.v 1) z 0xFFF), .fill (ff (.v 12) z z 0x180)],
      runs i w0 (env w0) = true) ∧ misaligned (env w0) false 4 (laneGas w0 (env w0) false (ff (.v 12) (.v 4) (.v 1) 0x88000002)) ≠ [] ∧
    slotsPass w0 (env w0) (ff z (.v 1) z 0xFFF) = true ∧
    (let s := wr [(4, 0), (5, 0x710001)] fun _ => [(1, 1)];
      let f := ff (.v 12) (.s 4) (.v 1) 0x88000000;
      runs (.atom f) s (env s) = true ∧ misaligned (env s) false 4 (laneGas s (env s) false f) = [] ∧ otherDie (env s) (laneGas s (env s) false f) ≠ []) := by
  decide +kernel

/-- A scalar weak store of the last four bytes of a line. -/
theorem wit_WeakStoreBytes : (let f := ff z (.s 6) (.s 2) 0x8800003C;
      runs (.st f) w0 (env w0) = true ∧ mOrd f = .weak ∧ isS f.b = true ∧ w0.acquiring placedPly 0 = false ∧ laneGa w0 (env w0) f 0 = 0x1007C ∧
      w0.placeOf 0 placedPly 0x1007C = .global 0x1007C ∧ 0x1007C % 64 + mCount f * tyBytes (mTyD f) = 64) ∧
    ∀ n r q, w0.blocked n r q = false := by
  refine ⟨?_, no_blocked rfl⟩
  decide +kernel

/-- A request of ply 0 with one part. -/
def req1 (kind : ReqKind) (d : Operand) (q : MPart) : MReq :=
  { newReq (env w0) kind (match kind with
      | .st => .st
      | .red => .st
      | _ => .ld) (ff d z z 0x88000000) 1 false [q] with ord := .strong, n := 1, uid := 0 }

/-- The part of lane 7 at a place. -/
def part7 (p : Place) (st : PSt) : MPart := { lane := 7, tid := 7, k := 0, ga := 0x40, place := p, n := 4, data := 5, data2 := 0, st := st }

/-- w9 with a request numbered 0. -/
def wq (r : MReq) : State := { (w9 empty) with reqs := [(0, r)] }

/-- A part that has its data, and one that failed, of a register that awaits them; a store and a RED that have finished. -/
theorem wit_DataArrives : (∀ st ∈ [PSt.ready [1, 2, 3, 4], .bad 5],
      let s := wq (req1 .answer (.v 9) (part7 .bad st));
      (req1 .answer (.v 9) (part7 .bad st)).parts.filter (fun q => q.lane == 7 && q.st != .fin) = [part7 .bad st] ∧
      (laneResult [part7 .bad st]).isSome = true ∧ (s.thread 0 7).isSome = true ∧ (s.vReg 0 7 9).pend = some 0) ∧
    (∀ k ∈ [ReqKind.st, .red], (req1 k (.special .zero) (part7 (.global 0x10040) .fin)).acq = false ∧
      (wq (req1 k (.special .zero) (part7 (.global 0x10040) .fin))).dlIssueAll 0 = wq (req1 k (.special .zero) (part7 (.global 0x10040) .fin))) := by
  decide +kernel

/-- w0 with segments 2 and 3 of core 0 granted to the slot as scratchpad. -/
def wseg (a b : SegSt) (ms : List RepMsg) (subs : List Nat) : State :=
  { (w9 empty) with segs := w0.segs ++ [(2, { Seg.reset with cond := .scratch 0, st := a, home := 3, msgs := ms }),
                                        (3, { Seg.reset with cond := .scratch 0, st := b, subs := subs })] }

/-- An atomic on the last word of a segment at home. -/
theorem wit_AtomicAtHome : (let s := { (wseg .o .o [] []) with reqs := [(0, req1 .atom (.v 9) (part7 (.loc 0 0x2FFC) .wait))] };
      (req1 .atom (.v 9) (part7 (.loc 0 0x2FFC) .wait)).atLoc 0x40 = [(part7 (.loc 0 0x2FFC) .wait, 0)] ∧
      s.blocked 0 (req1 .atom (.v 9) (part7 (.loc 0 0x2FFC) .wait)) (part7 (.loc 0 0x2FFC) .wait) = false ∧
      (s.seg (segKey 0 0x2FFC)).st = .o ∧ (s.seg (segKey 0 0x2FFC)).subs = [] ∧ (s.lsRead (segBase (segKey 0 0x2FFC) + 0xFFC) 4).isSome = true) := by
  decide +kernel

/-- FENCE that releases, that acquires and that does both, with nothing to wait for; one that takes a store fault; one whose acquire waits. -/
theorem wit_Fences : (∀ m ∈ [0x03600000, 0x02600000, 0x04600000], runs (.fence (ff z z z (BitVec.ofNat 32 m))) w0 (env w0) = true) ∧
    (env w0).p.wait = none ∧ (w0.release 0 .pkg).2 = true ∧ (w0.release 0 .pkg).1.unres 0 = 0 ∧ w0.loadsOpen placedPly = false ∧
    w0.acquiring placedPly 0 = false ∧ ((w0.release 0 .pkg).1.freshOp.2.acqBegin w0.nextOp 0 .pkg false).acqDone w0.nextOp = true ∧
    TakesNone ((w0.release 0 .pkg).1.freshOp.2.acqBegin w0.nextOp 0 .pkg false) 0 false (fun c => isStoreCond c.kind || isRemoteCond c.kind) ∧
    (let s := wp fun p => { p with conds := [storeCond 1 0x10000] };
      runs (.fence (ff z z z 0x03600000)) s (env s) = true ∧ (s.release 0 .pkg).2 = true ∧
      ((s.release 0 .pkg).1.ply? 0).map (fun p => takeFirst (fun c => isStoreCond c.kind) p.conds) = some (some (storeCond 1 0x10000, []))) ∧
    (runs (.fence (ff z z z 0x04600000)) wrep (env wrep) = true ∧ (wrep.release 0 .pkg).2 = true ∧
      ((wrep.release 0 .pkg).1.freshOp.2.acqBegin wrep.nextOp 0 .pkg false).acqDone wrep.nextOp = false) := by
  refine ⟨?_, ?_, ?_, ?_, ?_, ?_, ?_, takesNone_sound ?_, ?_, ?_⟩ <;> decide +kernel

/-- The scratchpad windows of segments 2 and 3 of core 0 in s4 and s8. -/
def wss (a b : SegSt) (subs : List Nat) : State :=
  { (wseg a b [] subs) with skeins := (wr [(4, 0x2000), (5, 0x710000), (8, 0x3000), (9, 0x710000)] fun _ => []).skeins }

/-- SUBS refused and allowed, UNSUBS refused and allowed, SEGSTAT. -/
theorem wit_SubscriptionIssue :
    (let s := wss .o .i [];
      runs (.subs (ff (.s 1) (.s 4) (.s 8) 0)) s (env s) = true ∧ s.subsStatus 0 0 (sPairVal s placedPly (.s 4)) (sPairVal s placedPly (.s 8)) = 2) ∧
    (let s := wss .o .o [];
      runs (.subs (ff (.s 1) (.s 4) (.s 8) 0)) s (env s) = true ∧ s.subsStatus 0 0 (sPairVal s placedPly (.s 4)) (sPairVal s placedPly (.s 8)) = 0 ∧
      scratchSeg (sPairVal s placedPly (.s 4)) = some 2 ∧ scratchSeg (sPairVal s placedPly (.s 8)) = some 3 ∧ s.acquiring placedPly 0 = false ∧
      runs (.unsubs (ff (.s 1) (.s 4) z 0)) s (env s) = true ∧ s.unsubsStatus 0 0 (sPairVal s placedPly (.s 4)) = 1 ∧
      runs (.segstat (ff (.s 2) (.s 4) z 0)) s (env s) = true) ∧
    (let s := wss .s .o [2];
      runs (.unsubs (ff (.s 1) (.s 4) z 0)) s (env s) = true ∧ s.unsubsStatus 0 0 (sPairVal s placedPly (.s 4)) = 0) := by decide +kernel

/-- An update of the last line; a marker whose acquire has another and one whose has not; the transits of SUBS and UNSUBS. -/
theorem wit_Segments : ((wseg .s .o [.update 63 1 (~~~0) 7 0 []] [2]).seg 2).msgs = [.update 63 1 (~~~0) 7 0 []] ∧
    (∀ ms ∈ [[2, 514], [2]], let s := { (wseg .s .o [.marker 9] [2]) with acqs := [(9, { pid := 0, core := 0, slot := 0, scope := .pkg, promo := none, markers := ms })] };
      (s.seg 2).msgs = [.marker 9] ∧ (s.acqs.get 9).map (fun a => a.markers.filter (· != 2)) = some (ms.filter (· != 2)) ∧ s.reqs.get 9 = none) ∧
    (let s := { (wseg (.t 0) .o [] [2]) with reqs := [(0, req1 (.subs 2 3) (.s 1) (part7 .bad .wait))] };
      (s.seg 2).st = .t 0 ∧ (s.reqs.get 0).map MReq.kind = some (.subs 2 3) ∧ s.lsBad (segBase 3) 4096 = false) ∧
    (let s := { (wseg (.t 0) .o [] [2]) with reqs := [(0, req1 (.unsubs 2) (.s 1) (part7 .bad .wait))] };
      (s.seg 2).st = .t 0 ∧ (s.seg 2).msgs = [] ∧ (s.seg 2).home = 3 ∧ s.unsubsWaits 0 0 3 = false) := by decide +kernel

/-- An acquire of ply 0 with a promotion under way. -/
def acq0 (promo : Option (List Nat)) : Acq := { pid := 0, core := 0, slot := 0, scope := .pkg, promo := promo, markers := [] }

/-- A probed line; a promotion of core 0; a promotion that has ended, without and with a replica. -/
theorem wit_CoreBuffers :
    (let s := { w0 with l1 := [(0x401, { L1Line.empty with probe := true, dirty := 0xF, valid := 0xF })] };
      (s.l1.get (0 * 2 ^ 55 + 0x401)).isSome = true ∧ s.logged (0x401 / 2 ^ 42) (0x401 % 2 ^ 42) = false ∧
      resKind (s.home { asid := 0, slot := none, core := 0, part := 0, pslot := 0, uid := none, dev := 0, inb := false } 0x401 .write).2 = 0) ∧
    (let s := { w0 with acqs := [(9, acq0 (some [0]))] };
      s.stamped 0 ((s.relOp.get (remKey 0 0)).getD 0) = true ∧ (s.l1BackAll 0 (s.slotAsid 0) true).2 = true) ∧
    (let s := { w0 with acqs := [(9, acq0 (some []))] };
      s.replicas 0 = [] ∧ s.reqs.get 9 = none) ∧
    (let s := { wrep with acqs := [(9, acq0 (some []))] };
      s.replicas 0 ≠ []) := by decide +kernel

/-- A request to package 5 or to the host that part 0 of request 3 awaits, and what is asked. -/
def wrem (host : Bool) (kind : ReqKind) : State :=
  { (w9 empty) with
    clock := 60000000
    remote := [(7, { use := .part 3 0, dev := 5, off := 0, clock := some 0, core := 0, slot := 0, pid := 0, write := false, host := host })]
    reqs := [(3, { req1 kind (.v 9) (part7 (.pod 5 0) (.sent 7)) with parts := [part7 (.pod 5 0) (.sent 7), { part7 (.pod 5 64) .wait with lane := 6, tid := 6 }] })] }

theorem no_loop {s : State} (h : s.fabOut = []) (b : FabBody) : s.takeLoop b = none := by
  simp [State.takeLoop, h]

/-- Replies to a load and to a store of another package, a timeout, and completions of the host; the same of a multicast; and a number that
nothing awaits. -/
theorem wit_Replies : (∀ h ∈ [false, true], ∀ k ∈ [ReqKind.ld, .st], let s := wrem h k;
      s.fabOut = [] ∧ s.merges.get 7 = none ∧ (s.remote.get 8).isNone = true ∧ (s.sends.get 8).isNone = true ∧
      (s.remote.get 7).map RReq.use = some (.part 3 0) ∧ (s.remote.get 7).map RReq.host = some h ∧ ((s.remote.get 7).any fun q => expired q.clock s.tout s.clock) = true ∧
      (5 : Nat) ≠ s.mgmt.devidx ∧ (s.reqs.get 3).map MReq.kind = some k ∧ ((s.reqs.get 3).any fun r => r.parts.any fun y => y.st == .sent 7) = true ∧
      (s.plyUid 0).map Prod.fst = some 0) ∧
    ((req1 .st (.v 9) (part7 (.pod 5 0) (.sent 7))).acq = false ∧ (req1 .st (.v 9) (part7 (.pod 5 0) (.sent 7))).ord = .strong) ∧
    (let s := { w0 with clock := 60000000, remote := [(7, { use := .mcst 2 0 [0] 0, dev := 5, off := 0, clock := some 0, core := 0, slot := 0, pid := 0,
                                                            write := true, host := false })] };
      (s.remote.get 7).map RReq.use = some (.mcst 2 0 [0] 0) ∧ (s.ply? 0).isSome = true ∧ s.merges.get 7 = none ∧ s.fabOut = [] ∧
      ((s.remote.get 7).any fun q => expired q.clock s.tout s.clock) = true) := by decide +kernel

/-- w0 with page tables for VA 0x10000 under ASID 0 and nothing in the TLBs. -/
def wpt : State :=
  { w0 with tlb := [], hbm := [(0x1001, 0x80), (0x3000, 0x01), (0x3001, 0x40), (0x4000, 0x01), (0x4001, 0x50), (0x5000, 0x01), (0x5001, 0x60), (0x6000, 0x01),
                               (0x6001, 0x70), (0x7008, 0x4F), (0x700A, 0x01), (0x20003, 0x80)] }

/-- An open record that a load and a line are held on. -/
def rec0 : FRec := { rid := 0, asid := 0, page := 1, cause := 1, serv := true, image := 0, fetches := [0x401] }

/-- A walk that ends in a leaf, with no TLB entry for the page and with one; an open record with an empty log; a line that arrives; a logged
write that goes through. -/
theorem wit_WalksRecordsLines : wpt.walk 0 (1 * 65536) = .ok leaf0 ∧ wpt.tlbFind 0 (1 * 65536) = none ∧
    (let s := { wpt with tlb := w0.tlb };
      s.walk 0 (1 * 65536) = .ok leaf0 ∧ s.tlbFind 0 (1 * 65536) = some leaf0) ∧
    (let s := { (wq (req1 .ld (.v 9) (part7 (.global 0x10040) (.held 0 0)))) with slices := [(0, { recs := [rec0], log := [], next := 1, shut := [] })] };
      (s.slice 0).recs.find? (fun r => r.rid == 0) = some rec0 ∧ (s.slice 0).log = [] ∧ s.tbq = [] ∧ s.probes = []) ∧
    (w0.ic.get (0 * 2 ^ 55 + 0x401) = none ∧ w0.fetcher 0 (0x401 / 2 ^ 42) (0x401 % 2 ^ 42) = some 0 ∧ w0.atBay 0 0x401 = false ∧
      resKind (w0.home (w0.whoPly 0) 0x401 .fetch).2 = 0) ∧
    (let ent : LogEnt := { who := w0.whoPly 0, line := 0x401, act := .write 7 0xFF, kind := 0, unres := true, req := none, rid := none };
      resKind (w0.home ent.who ent.line .write).2 = 0) := by decide +kernel

/-- A shootdown of one page of ASID 0, and a malformed one that names none. -/
def shot (n : Nat) : BitVec 256 := BitVec.ofNat 256 (1 <<< 16 + n <<< 64 + 0x30000 <<< 128 + 7 <<< 192)

/-- A whole write to a queue with room for one more; the two kinds of request, with the dies not linked. -/
theorem wit_Shootdowns : w0.serves = true ∧ (leBytes 32 7).length = 32 ∧ ({ w0 with shoot := List.replicate 15 (shot 1) }).shoot.length < 16 ∧
    shootBad (shot 0).toNat = true ∧ shootBad (shot 1).toNat = false ∧ w0.dlLinked = false ∧
    ({ w0 with shoot := [shot 1] }.shootAll (shot 1).toNat).2 = true := by decide +kernel

/-- An access of package 5 to the last word of a mapped line, and one to a page without a leaf. -/
theorem wit_InboundAccesses : (5 : Nat) ≠ w0.mgmt.devidx ∧ w0.boundStd 5 = false ∧ podVa 0x1007C = 0x1007C ∧
    (∀ k ∈ [AccKind.read, .write], resKind (w0.home (w0.whoPod 5 0) (0x1007C / 64) k).2 = 0) ∧
    resKind (w0.home (w0.whoPod 5 0) (0x20000 / 64) .read).2 = 2 := by decide +kernel

/-! ## Hypotheses of the statements: copies, barriers, tiles and matrices -/

/-- A valid entry of rank 2, 8 by 8, of a format (17 is n32, 0 is f32), with its base in the mapped page. -/
def tent (fm : Nat) : Line := BitVec.ofNat 512 (0x10800 + fm <<< 56 + 2 <<< 61 + 8 <<< 128 + 8 <<< 160 + 8 <<< 288 + 1 <<< 504)

/-- A producer with a state's other fields, two entries in the caches of its copy engine and matrix engine, and a block of extents in
s16 to s31. -/
def wtid : State :=
  { (wr [(2, 5), (4, 0x80), (5, 0x700000), (6, 0x10040), (8, 0x100), (9, 0x700000), (18, 8), (26, 8), (27, 8)] fun l => [(1, BitVec.ofNat 32 l)]) with
    plies := [(0, { placedPly with prod := true })]
    tidc := [(tidKey (unitCopy 0) 0 1, tent 17), (tidKey (unitCopy 0) 0 2, tent 17), (tidKey (unitMatrix 0) 0 3, tent 0)]
    tiles := [] }

/-- CPY, CPYF, TCPY and TGATH with a barrier. -/
def cpyF : Full := ff (.s 8) (.s 4) (.s 6) 2
def cpyfF : Full := ff (.s 8) (.s 4) (.int 1) 2
def tcpyF : Full := ff (.s 8) (.s 16) z 0x1002
def tgathF : Full := ff (.s 8) (.v 1) (.s 16) 0x1002
def tidldF : Full := ff (.s 2) (.s 6) z 0x1001
def tidinvF : Full := ff z z z 0x1001

/-- The words of tcpyF's block, and of the rows of tgathF. -/
def blockT : List Nat := (sWords wtid { placedPly with prod := true } (.s 16) 16).map BitVec.toNat
def blockG : List Nat := (sWords wtid { placedPly with prod := true } (.s 16) 4).map BitVec.toNat
def at7 (ws : List Nat) (n : Nat) : Nat := (ws[n]?).getD 0

/-- A probe of operation 3 in a phase, whose ply waits in it. -/
def wprobe (ph : ProbePh) (what : ProbeFor) : State :=
  { wtid with
    plies := [(0, { placedPly with prod := true, wait := some (.op 3), ops := [{ id := 3, cls := .cpy, done := false }] })]
    probes := [(3, { pid := 0, uid := 0, skein := 0, slot := 0, asks := [], ph := ph, what := what })] }

/-- Copies of a producer, and of a consumer, with nothing before them; tensor copies with their entries; probes that have passed and that
failed. -/
theorem wit_CopyIssue :
    (∀ i ∈ [Instr.cpy cpyF, .cpyf cpyfF, .tcpy tcpyF, .tgath tgathF, .tscat tgathF, .tidld tidldF, .tidinv tidinvF], runs i wtid (env wtid) = true) ∧
    (env wtid).p.wait = none ∧ wtid.acquiring (env wtid).p 0 = false ∧ (wtid.release 0 .pkg).2 = true ∧
    (∀ f ∈ [cpyF, cpyfF, tcpyF, tgathF], ∀ x ∈ barAlign wtid (env wtid) f, x.1 % 16 = 0) ∧
    sPairVal wtid (env wtid).p (.s 4) % 2 ^ 56 % 32 = 0 ∧ sPairVal wtid (env wtid).p (.s 6) % 2 ^ 56 % 64 = 0 ∧ (env wtid).p.prod = true ∧
    (let s := { wtid with plies := [(0, { placedPly with prod := false })] };
      (env s).p.prod = false ∧ runs (.cpy cpyF) s (env s) = true ∧ runs (.cpyf cpyfF) s (env s) = true) ∧
    (let f := ff (.s 8) (.s 12) (.s 6) 2;
      let s := { wtid with skeins := (wr [(8, 0x100), (9, 0x700000), (12, 0x90), (13, 0x700000)] fun _ => []).skeins };
      runs (.cpy f) s (env s) = true ∧ runs (.cpyf { f with b := .int 1 }) s (env s) = true ∧ (∀ x ∈ barAlign s (env s) f, x.1 % 16 = 0) ∧
        sPairVal s (env s).p (.s 12) % 2 ^ 56 % 32 ≠ 0) ∧
    (wtid.tidPair (env wtid) tcpyF).2 = some ((tent 17).toNat, (tent 17).toNat) ∧ tidValid (tent 17).toNat = true ∧ tidRank (tent 17).toNat = 2 ∧
    (wtid.tidPair (env wtid) tcpyF).1 = wtid ∧
    sizeBad (tent 17).toNat (at7 blockT 0) (at7 blockT 5) (at7 blockT 10)
      ((List.range 2).foldl (fun acc k => acc * at7 blockT (10 + k)) 1) = false ∧
    sizeBad (tent 17).toNat (at7 blockG 0) (at7 blockG 1) (at7 blockG 2) (at7 blockG 2 * (env wtid).lanes.length) = false ∧
    (let s := wprobe .passed (.copy (copyNew cpyF (env wtid) .cpy .cpy));
      runs (.cpy cpyF) s (env s) = true ∧ (env s).p.wait = some (.op 3) ∧ (s.probes.get 3).isSome = true) ∧
    (let s := wprobe .passed (.copy (copyNew tidldF (env wtid) .tidld .cpy));
      runs (.tidld tidldF) s (env s) = true) ∧
    (let s := wprobe (.failed 0x20000) (.copy (copyNew cpyF (env wtid) .cpy .cpy));
      runs (.cpyf cpyfF) s (env s) = true ∧ runs (.tcpy tcpyF) s (env s) = true) := by decide +kernel

/-- A CPY of two sectors in the mapped page, of which `done` have moved, to the shared window, with a barrier. -/
def wcpy (done : Nat) (asks : List ProbeAsk) : State :=
  { wtid with
    probes := [(4, { pid := 0, uid := 0, skein := 0, slot := 0, asks := asks, ph := .going [], what := .copy (copyNew cpyF (env wtid) .cpy .cpy) })]
    copies := [(3, { (copyNew cpyF (env wtid) .cpy .cpy) with srcA := 0x10040, dstA := 0x70 * 2 ^ 48 + 0x80, bar := some (.shared 0 0x100), total := 2, done := done })] }

/-- A probe of a mapped page and one of a page without a leaf, which no firmware can serve; a CPY that moves its second sector; one that
has moved both. -/
theorem wit_CopyEngines :
    (let s := wcpy 0 [{ ga := 0x10040, write := true, host := true, nl := 15 }];
      (s.probeAll (s.plyAgent 0 0 0 0 3) [{ ga := 0x10040, write := true, host := true, nl := 15 }]).2 = [] ∧
      (∀ x ∈ s.probes, x.2.ph = .going [] ∧ x.2.asks.all (fun a => !s.winAsk x.2 a) = true)) ∧
    (let s := wcpy 0 [];
      (s.probeAll (s.plyAgent 0 0 0 0 3) [{ ga := 0x73 * 2 ^ 48, write := true, host := false, nl := 15 }]).2 = [(0x73 * 2 ^ 48, 0)] ∧
      serviceable 0 = false) ∧
    (let s := wcpy 1 [];
      let o := (s.copies.get 3).getD (copyNew cpyF (env wtid) .cpy .cpy);
      (s.copies.get 3).isSome = true ∧ o.kind = .cpy ∧ o.lost = false ∧ (s.skeins.get o.skein).isSome = true ∧ o.done < o.total ∧
      (s.ctx o.slot).st = .running ∧ o.bar.isSome = true ∧ s.winCopy o = none ∧ s.shooting (s.slotAsid o.slot) = false ∧
      (s.engRead (s.copyAgent o) o.host ((o.srcA + 32 * o.done) % 2 ^ 56) 32).2 = .ok (List.replicate 32 0) ∧
      ((s.engRead (s.copyAgent o) o.host ((o.srcA + 32 * o.done) % 2 ^ 56) 32).1.engWrite (s.copyAgent o) ((o.dstA + 32 * o.done) % 2 ^ 56)
        (List.replicate 32 0)).2 = .ok) ∧
    (let s := wcpy 2 [];
      ((s.copies.get 3).map fun o => decide (o.units ≤ o.done)) = some true ∧ s.tbOwes 3 = false ∧ s.plyUid 0 = some (0, { placedPly with prod := true })) := by
  decide +kernel

/-- A barrier of count 2 with 2 arrivals to come and no sectors: one arrival leaves 1, two end phase 3, three are too many and end it with
ERR; a sector count that leaves its range; ABT and ERR that stand. -/
theorem wit_BarrierWord :
    (let b := 3 + 2 <<< 8 + 2 <<< 32;
      tbUpdate b 1 0 false false = (3 + 2 <<< 8 + 1 <<< 32, false) ∧ tbUpdate b 2 0 false false = (4 + 2 <<< 8 + 2 <<< 32, true) ∧
      tbUpdate b 3 0 false false = (4 + 1 <<< 5 + 2 <<< 8 + 2 <<< 32, true) ∧ tbUpdate b 2 (-1) true false = (3 + 1 <<< 4 + 2 <<< 8 + (2 ^ 40 - 1) <<< 64, false) ∧
      tbUpdate (15 + 3 <<< 4) 0 0 false false = (3 <<< 4, true)) ∧
    (tbUpdate ((2 ^ 39 - 1) <<< 64) 0 1 false false).1 = 1 <<< 5 + 2 ^ 39 <<< 64 := by decide +kernel

/-- The barrier at 0x100 of the shared window, with a phase. -/
def wphase (b : Nat) : State := { w0 with ls := w0.ls.write 0x100 (leBytes 16 b) }

/-- The barrier instructions on an aligned barrier, in shared and in global memory; TBWAIT for another phase and for the same; a barrier
address that is one past. -/
theorem wit_BarrierInstructions :
    (let f := ff z (.s 8) (.int 1) 0;
      tbAddr w0 (env w0) f.a % 16 = 0 ∧ w0.acquiring (env w0).p 0 = false ∧ w0.placeOf 0 (env w0).p (tbAddr w0 (env w0) f.a) = .loc 0 0x100 ∧
      w0.placeOf 0 (env w0).p (tbAddr w0 (env w0) (.s 6)) = .global 0x10040 ∧ runs (.tbinit f) w0 (env w0) = true ∧ fld (tbB w0 (env w0) f) 31 24 = 0 ∧
      runs (.tbexp f) w0 (env w0) = true ∧ (∀ d ∈ [Operand.s 3, .special .zero], runs (.tbarr { f with d := d }) w0 (env w0) = true) ∧
      (w0.release 0 (tbScope (tbAddr w0 (env w0) f.a))).2 = true ∧ (w0.release 0 (tbScope (tbAddr w0 (env w0) f.a))).1.placeOf 0 (env w0).p (tbAddr w0 (env w0) f.a) = .loc 0 0x100 ∧
      tbAddr (w0.release 0 (tbScope (tbAddr w0 (env w0) f.a))).1 (env w0) f.a = tbAddr w0 (env w0) f.a ∧
      tbB (w0.release 0 (tbScope (tbAddr w0 (env w0) f.a))).1 (env w0) f = tbB w0 (env w0) f ∧
      runs (.tbtest { f with d := .s 3 }) w0 (env w0) = true ∧ runs (.tbwait { f with d := .s 3 }) w0 (env w0) = true ∧ (env w0).p.wait = none ∧ w0.tbHeld (env w0).p = none ∧
      (w0.tbGet (w0.whoPly 0) (w0.tbFind 0 (w0.tbRef 0 (env w0).p (tbAddr w0 (env w0) f.a))) .read).2 = .ok 0 ∧ 0 ≠ tbB w0 (env w0) f % 16 ∧
      (w0.tbPurge (w0.whoPly 0) (w0.tbFind 0 (w0.tbRef 0 (env w0).p (tbAddr w0 (env w0) f.a)))).2 = true ∧
      (w0.tbPurge (w0.whoPly 0) (.global 0x10040)).2 = true) ∧
    (let s := { w0 with skeins := (wr [(2, 0x1000000), (8, 0x100), (9, 0x700000)] fun _ => []).skeins };
      let f := ff z (.s 8) (.s 2) 0;
      Issuing f.g s (env s) ∧ issueCauses (fullSpec s (formTbinit f) (some .st) true f) (s.ctx 0) (env s).pc = [] ∧
        regsFull s (env s).p (env s).act [⟨f.b, 1, false⟩] = true ∧ (env s).p.wait = none ∧ fld (tbB s (env s) f) 31 24 ≠ 0 ∧ refusals (.tbinit f) s (env s) = some [10]) ∧
    (∀ n r q, w0.blocked n r q = false) ∧
    (let f := ff (.s 3) (.s 8) (.int 0) 0;
      runs (.tbwait f) w0 (env w0) = true ∧ tbB w0 (env w0) f % 16 = 0) ∧
    (let t := (w0.tbGet (w0.whoPly 0) (w0.tbFind 0 (.shared 0 0x100)) .read).1;
      (writeD (t.freshOp.2.acqBegin t.nextOp 0 (tbScope (tbAddr t (env w0) (.s 8))) false) (env w0) (.s 3) [0] (fun _ => [])).acqDone t.nextOp = true) ∧
    (let s := { w0 with skeins := (wr [(8, 0x101), (9, 0x700000)] fun _ => []).skeins };
      let f := ff (.s 3) (.s 8) (.int 1) 0;
      (∀ i ∈ [Instr.tbexp { f with d := z }, .tbarr f, .tbwait f, .tbtest f], runs i s (env s) = true) ∧ tbAddr s (env s) f.a % 16 ≠ 0 ∧
        runs (.tbinit { f with d := z }) s (env s) = true ∧ fld (tbB s (env s) f) 31 24 = 0) := by
  refine ⟨?_, ?_, no_blocked rfl, ?_, ?_, ?_⟩ <;> decide +kernel

/-- An update of the barrier at 0x100 of the shared window. -/
def upd (init : Option Nat) (arr : Nat) : TbUpd :=
  { ref := .shared 0 0x100, slot := 0, pid := 0, uid := 0, init := init, arr := arr, sect := 0, abt := false, err := false, req := none, eng := none, held := none }

/-- Two updates that one home takes together, and a TBINIT alone. -/
theorem wit_HomeUpdates :
    (let s := { w0 with tbq := [upd none 1, upd none 2] };
      ∃ key ∈ [((tbKey (s.slotAsid 0) (s.tbFind 0 (.shared 0 0x100))).getD 0)], (s.tbReady key).take 2 = [(upd none 1, 0), (upd none 2, 1)] ∧
        (s.tbPurgeAll (s.tbFind 0 (.shared 0 0x100)) [upd none 1, upd none 2]).2 = true ∧
        (s.tbGet (s.tbWho (upd none 1)) (s.tbFind 0 (.shared 0 0x100)) .write).2 = .ok 0) ∧
    (let s := { w0 with tbq := [upd (some 7) 0] };
      ∃ key ∈ [((tbKey (s.slotAsid 0) (s.tbFind 0 (.shared 0 0x100))).getD 0)], (s.tbReady key).take 1 = [(upd (some 7) 0, 0)]) := by
  decide +kernel

/-- wtid with a skein that holds tiles 1 and 2 of partition 0. -/
def wtile : State := { wtid with skeins := wtid.skeins.mapVals fun _ k => { k with tiles := [(0, [1, 2])] } }

/-- wtile with other skeins that hold the rest. -/
def wfull : State := { wtile with skeins := wtile.skeins ++ [(1, { placedSkein with tiles := [(0, [0] ++ (List.range 13).map fun i => 3 + i)] })] }

/-- A request for n tiles that waits. -/
def areq (n : Nat) (res : Option Nat) : AccReq := { pid := 0, uid := 0, skein := 0, slot := 0, part := 0, n := n, res := res }

/-- wtile in which ply 0 waits for tiles. -/
def wwait (n : Nat) (res : Option Nat) (s : State) : State :=
  { s with accWait := [(3, areq n res)], plies := [(0, { placedPly with wait := some (.op 3) })] }

/-- ACCALLOC that fits, that finds no run and that asks for more than the limit; ACCFREE of held and of other tiles; a grant, a deadlock of
256 clocks and a ply with its answer. -/
theorem wit_Tiles :
    (∀ i ∈ [Instr.accalloc (ff (.s 3) z z 2), .accallocTry (ff (.s 3) z z 0x01000002), .accfree (ff z z z 0x1002), .accfree (ff z z z 0x2002)],
      runs i wtile (env wtile) = true) ∧ (wtile.skeins.get 0).isSome = true ∧ wtile.accWait = [] ∧ (env wtile).p.wait = none ∧ wtile.mats = [] ∧
    (wtile.heldBy 0 0).length + 2 ≤ wtile.accLimit 0 ∧ wtile.freeRun 0 2 = some 3 ∧
    (∀ i ∈ [Instr.accalloc (ff (.s 3) z z 2), .accallocTry (ff (.s 3) z z 0x01000002)], runs i wfull (env wfull) = true) ∧ wfull.accWait = [] ∧
    (wfull.heldBy 0 0).length + 2 ≤ wfull.accLimit 0 ∧ wfull.freeRun 0 2 = none ∧
    runs (.accalloc (ff (.s 3) z z 7)) wtile (env wtile) = true ∧ wtile.accLimit 0 < (wtile.heldBy 0 0).length + 7 ∧
    holdsAll (env wtile) wtile [1, 2] = true ∧ holdsAll (env wtile) wtile [2, 3] = false ∧
    (let s := wwait 2 none wtile;
      s.accFits (areq 2 none) = some 3 ∧ (s.accWait.filter fun x => x.2.part == 0 && x.2.res.isNone) = [(3, areq 2 none)]) ∧
    (let s := { (wwait 6 none wfull) with clock := 256, accSince := [(0, 0)] };
      s.accDead 0 = true ∧ s.youngest 0 = some (3, areq 6 none)) ∧
    (let s := wwait 2 (some 3) wtile;
      runs (.accalloc (ff (.s 3) z z 2)) s (env s) = true ∧ runs (.accallocTry (ff (.s 3) z z 0x01000002)) s (env s) = true ∧ (env s).p.wait = some (.op 3)) := by
  decide +kernel

/-- MMA of K 16 in bf16 into a tile. -/
def mmaM (t : Nat) : Word := BitVec.ofNat 32 (2 <<< 29 + t <<< 12)

/-- The same in scaled e2m1. -/
def mmaE (t : Nat) : Word := BitVec.ofNat 32 (4 <<< 29 + 1 <<< 28 + t <<< 12)

/-- The matrix instructions on tiles that are held, and on tile 5, which is not; a probe that has passed. -/
theorem wit_MatrixIssue :
    (∀ t ∈ [1, 5], ∀ i ∈ [Instr.acczero (ff z z z (BitVec.ofNat 32 (t <<< 12 + 1))), .accmov (ff (.v 16) z z (BitVec.ofNat 32 (t <<< 12))),
        .accfill (ff z (.v 16) z (BitVec.ofNat 32 (t <<< 12))), .accrmax (ff (.v 16) z z (BitVec.ofNat 32 (t <<< 12))), .accrsum (ff (.v 16) z z (BitVec.ofNat 32 (t <<< 12))),
        .accrscl (ff z (.v 16) z (BitVec.ofNat 32 (t <<< 12))), .accmapAdd (ff z (.v 16) z (BitVec.ofNat 32 (t <<< 12))),
        .accmapMul (ff z (.v 16) z (BitVec.ofNat 32 (t <<< 12))), .accmapEx2 (ff z (.v 16) (.s 2) (BitVec.ofNat 32 (t <<< 12))),
        .accmapRelu (ff z z z (BitVec.ofNat 32 (t <<< 12))), .accmapRnd (ff z z z (BitVec.ofNat 32 (t <<< 12)))],
      runs i wtile (env wtile) = true ∧ ((matRow? wtile (env wtile) i).map fun x => holdsAll (env wtile) wtile ((List.range x.2.1.nt).map fun k => mTile x.1 + k)) = some (t == 1)) ∧
    (∀ t ∈ [1, 5], ∀ i ∈ [Instr.mmaAreg (ff z (.v 8) (.s 8) (mmaE t)), .mmaAls (ff z (.s 4) (.s 8) (mmaM t)), .mmaAacc (ff z z (.s 8) (mmaM t ||| 0x80)),
        .mmazAreg (ff z (.v 8) (.s 8) (mmaE t)), .mmazAls (ff z (.s 4) (.s 8) (mmaM t)), .mmazAacc (ff z z (.s 8) (mmaM t ||| 0x80))],
      runs i wtile (env wtile) = true ∧ (mmaForm wtile (env wtile) i).isSome = true) ∧
    sPairVal wtile (env wtile).p (.s 4) % 2 ^ 56 % 64 = 0 ∧ sPairVal wtile (env wtile).p (.s 8) % 2 ^ 56 % 64 = 0 ∧
    (∀ a ∈ [Operand.s 4, .s 8], wtile.localBad (env wtile) (sPairVal wtile (env wtile).p a % 2 ^ 56) 2048 = none) ∧
    holdsAll (env wtile) wtile [1, 2] = true ∧ holdsAll (env wtile) wtile [5] = false ∧ wtile.acquiring (env wtile).p 0 = false ∧
    (wtile.release 0 .core).2 = true ∧ (wtile.release 0 .pkg).2 = true ∧ (env wtile).p.wait = none ∧
    (wtile.tidGet (unitMatrix 0) (wtile.plyAgent 0 0 0 0 3) 3).2 = some (tent 0).toNat ∧ matTid (tent 0).toNat = true ∧
    (∀ i ∈ [Instr.accld (ff z (.s 16) z 0x1003), .accst (ff z (.s 16) z 0x1003), .accst (ff z (.s 2) z 0x80011003)], runs i wtile (env wtile) = true) ∧
    accstPair wtile (env wtile) (ff z (.s 2) z 0x80011003) 4 % 16 = 0 ∧ accstPair wtile (env wtile) (ff z (.s 2) z 0x80011003) 6 % 64 = 0 ∧
    (let s := { (wprobe .passed (.mat (matNew (env wtile) (ff z (.s 16) z 0x1003) (.load 0 0 (tent 0)) 1 [] 0))) with skeins := wtile.skeins };
      runs (.accld (ff z (.s 16) z 0x1003)) s (env s) = true ∧ runs (.accst (ff z (.s 16) z 0x1003)) s (env s) = true ∧ (env s).p.wait = some (.op 3)) := by
  decide +kernel

/-- MMA with a misaligned operand, of its own tile, and of an operand outside the core; ACCLD and ACCST of a tile that is not held, of an entry
that is not accepted, with a misaligned barrier, misaligned maxima, and maxima outside the core; probes that failed. -/
theorem wit_MatrixTraps :
    (∀ i ∈ [Instr.mmaAls (ff z (.s 4) (.s 2) (mmaM 1)), .mmazAls (ff z (.s 2) (.s 8) (mmaM 1)), .mmaAreg (ff z (.v 8) (.s 2) (mmaE 1))],
      runs i wtile (env wtile) = true ∧ (mmaForm wtile (env wtile) i).map (fun x => (x.2.2.addrs (sPairVal wtile (env wtile).p x.1.b % 2 ^ 56)).any fun a => a % 64 ≠ 0) =
        some true) ∧
    (let f := ff z z (.s 8) (mmaM 1 ||| 0x40);
      runs (.mmaAacc f) wtile (env wtile) = true ∧ holdsAll (env wtile) wtile (mTile f :: (aaccSrc f).tiles) = true ∧ mTile f ∈ (aaccSrc f).tiles) ∧
    (let f := ff z (.v 8) (.s 6) (mmaE 1);
      runs (.mmaAreg f) wtile (env wtile) = true ∧ runs (.mmazAreg f) wtile (env wtile) = true ∧ sPairVal wtile (env wtile).p f.b % 2 ^ 56 % 64 = 0 ∧
      wtile.localBad (env wtile) (sPairVal wtile (env wtile).p f.b % 2 ^ 56) (matBytes 4 (mmaK f) true) ≠ none) ∧
    (let s := { wtile with tidc := wtile.tidc ++ [(tidKey (unitMatrix 0) 0 4, tent 17)] };
      (∀ i ∈ [Instr.accld (ff z (.s 16) z 0x5003), .accst (ff z (.s 16) z 0x5003), .accld (ff z (.s 16) z 0x1004), .accst (ff z (.s 16) z 0x1004),
          .accst (ff z (.s 14) z 0x00011003), .accst (ff z (.s 12) z 0x80001003), .accst (ff z (.s 0) z 0x80001003)], runs i s (env s) = true) ∧
      (s.tidGet (unitMatrix 0) (s.plyAgent 0 0 0 0 3) 4).2 = some (tent 17).toNat ∧ matTid (tent 17).toNat = false ∧
      accstPair s (env s) (ff z (.s 14) z 0x00011003) 4 % 16 ≠ 0 ∧ accstPair s (env s) (ff z (.s 12) z 0x80001003) 6 % 64 ≠ 0 ∧
      accstPair s (env s) (ff z (.s 0) z 0x80001003) 6 % 64 = 0 ∧
      s.localBad (env s) (accstPair s (env s) (ff z (.s 0) z 0x80001003) 6) 512 ≠ none ∧
      s.localBad (env s) (accstPair s (env s) (ff z (.s 2) z 0x80011003) 6) 512 = none) ∧
    (let s := { (wprobe (.failed 0x20000) (.mat (matNew (env wtile) (ff z (.s 16) z 0x1003) (.load 0 0 (tent 0)) 1 [] 0))) with skeins := wtile.skeins };
      runs (.accld (ff z (.s 16) z 0x1003)) s (env s) = true ∧ runs (.accst (ff z (.s 16) z 0x1003)) s (env s) = true) := by decide +kernel

/-- A matrix operation 0 on tile 1, of rows 0 and 8 that thread 0 owns, whose destinations are v9 and v10. -/
def wmat (kind : MatKind) (vals : List Word) : MatOp :=
  { (matNew (env wtile) (ff (.v 9) z z 0x1000) kind 1 [{ lane := 0, tid := 0, r := 0, j := 0, vals := vals }, { lane := 0, tid := 0, r := 8, j := 1, vals := vals }] 0) with seq := 5 }

/-- Each kind of operation, alone in its partition, with its destinations waiting for it; the rows of an ACCLD and of an ACCST in the
mapped page. -/
theorem wit_MatrixEffects :
    (∀ k ∈ [MatKind.zero, .fill 62 2, .fill 0 2, .rscl false, .madd, .mmul, .mex2 0x3F800000, .mrelu, .mrnd 0 false, .rmax, .rsum, .mov 63 1,
        .mma false 2 16 false (.als (0x70 * 2 ^ 48 + 0x80)) (0x70 * 2 ^ 48 + 0x100), .mma true 0 32 false .areg (0x70 * 2 ^ 48 + 0x100),
        .load 0 0 (tent 0), .store 0 0 0 0 none none 0 false false (tent 0)],
      let o := wmat k [1, 2];
      let s := { wtile with mats := [(0, o)], skeins := (w9 empty).skeins };
      s.mats.get 0 = some o ∧ o.stage = 0 ∧ s.matBlocked o = false ∧ s.tbOwes 0 = false ∧ s.accWait = [] ∧ (o.rows.map MatRow.r).Nodup ∧
        (∀ x ∈ o.rows, (s.tileRow o.part o.tile x.r).length = 64) ∧ s.trigs = [] ∧ s.lent = [] ∧ (∀ x ∈ o.rows, x.vals.length = 2) ∧
        ((o.rows.map fun y => (y.tid, y.j)).Nodup)) ∧
    (let s := { wtile with skeins := (w9 empty).skeins };
      (s.thread 0 0).map (fun th => (th.regs.reg 9).pend) = some (some 0) ∧
      (s.matRead (wmat .zero []) (0x70 * 2 ^ 48 + 0x100) (matBytes 2 16 false)).isSome = true ∧
      (s.matRead (wmat .zero []) (0x70 * 2 ^ 48 + 0x80) (matBytes 2 16 false)).isSome = true ∧
      (s.loadRows (wmat .zero []) 0 0 (tent 0).toNat (wmat .zero []).rows 0).2.2 = .fin ∧
      (s.storeRows (wmat .zero []) 0 0 0 0 (tent 0).toNat false false (fun _ => (0, 0)) (wmat .zero []).rows 0).2.2 = .fin) := by
  decide +kernel

/-! ## Hypotheses of the statements: decks, the fabric and collectives -/

/-- An empty deck of two entries whose ring is in the mapped page, which the host and the device may deal to. -/
def deck0 : Deck :=
  { ring := 0x10080, log2n := 1, hostw := true, devdeal := true, head := 0, tail := 0, slots := [], ready := [], inbox := [], waiting := [],
    gerr := false, drops := 3, deals := [] }

/-- w0 with deck 3 of context slot 0. -/
def wdeck (d : Deck) : State := { w0 with decks := [(3, d)] }

/-- A request of ply 0 to deck 3, numbered 0, for registers from s9. -/
def dop (kind : DeckKind) (reply : Option DeckReply) : DeckOp :=
  { kind := kind, pid := 0, uid := 0, skein := 0, slot := 0, tids := List.range 8, deck := 3, pc := 0, dst := 9, yld := false, jw := 0, reply := reply }

/-- An entry with a gate at 0x72 * 2^48. -/
def badEntry : List Byte := List.replicate 54 0 ++ [0x72, 0x80] ++ List.replicate 8 0

def dealF : Full := ff (.s 3) (.s 16) z 0x3000
def dealTryF : Full := ff (.s 3) (.s 16) z 0x01003000

/-- The instructions with no deck and on one with room; a ring that is full; no right to deal; a gate outside the regions. -/
theorem wit_DeckInstructions :
    (∀ s ∈ [w0, wdeck deck0], ∀ i ∈ [Instr.draw (ff (.s 16) z z 0x3000), .drawt (ff (.s 16) z z 0x3000), .deckst (ff (.s 16) z z 0x3000), .deal dealF,
      .dealTry dealTryF], runs i s (env s) = true ∧ (env s).p.wait = none ∧ s.acquiring (env s).p 0 = false) ∧
    w0.decks.get 3 = none ∧ (wdeck deck0).decks.get 3 = some deck0 ∧ deckKey 0 (mDeck dealF) = 3 ∧ deck0.devdeal = true ∧ deck0.full = false ∧
    gateBad ((sWords w0 placedPly (.s 16) 16).flatMap wordBytes) = none ∧ ((wdeck deck0).release 0 .pkg).2 = true ∧
    (((wdeck deck0).release 0 .pkg).1.append 3 ((sWords w0 placedPly (.s 16) 16).flatMap wordBytes)).isSome = true ∧
    (let s := wdeck { deck0 with tail := 2 };
      ({ deck0 with tail := 2 }).full = true ∧ runs (.deal dealF) s (env s) = true ∧ runs (.dealTry dealTryF) s (env s) = true) ∧
    (let s := wdeck { deck0 with devdeal := false };
      runs (.deal dealF) s (env s) = true ∧ runs (.dealTry dealTryF) s (env s) = true) ∧
    (let s := { (wdeck deck0) with skeins := (wr [(29, 0x80720000)] fun _ => []).skeins };
      runs (.deal dealF) s (env s) = true ∧ runs (.dealTry dealTryF) s (env s) = true ∧
      gateBad ((sWords s placedPly (.s 16) 16).flatMap wordBytes) = some (0x72 * 2 ^ 48)) := by decide +kernel

/-- An entry that is dealt, by the device and by the host; host deals that are dropped; each request with nothing and with an entry ready; a
gate that is found open; each reply at registers that await it. -/
theorem wit_DeckControllers :
    (wdeck deck0).serves = true ∧
    (∀ bs ∈ [List.replicate 64 (0 : Byte)], ((wdeck deck0).append 3 bs).isSome = true ∧ deck0.hostw = true ∧ deck0.full = false ∧ gateBad bs = none) ∧
    gateBad badEntry ≠ none ∧ ({ deck0 with tail := 2 }).full = true ∧
    (∀ kind ∈ [DeckKind.st, .drawt, .draw],
      let s := { (wdeck { deck0 with inbox := [0] }) with deckOps := [(0, dop kind none)] };
      (s.decks.get 3).map (fun d => (d.inbox, d.ready, d.waiting)) = some ([0], [], []) ∧ s.deckOps.get 0 = some (dop kind none)) ∧
    (let s := { (wdeck { deck0 with inbox := [0], ready := [0] }) with deckOps := [(0, dop .drawt none)] };
      let s1 := { s with decks := [(3, { deck0 with ready := [0] })] };
      (s1.engGet (s1.deckAgent 0) [] (deck0.ring + 64 * 0) 48).2 = .ok (List.replicate 48 0)) ∧
    (let x : DSlot := { st := .waiting, gates := [(0x10040, 5)], due := true, found := 0 };
      let d := { deck0 with tail := 1, slots := [(0, x)] };
      let s := wdeck d;
      ((List.range d.held).map fun j => (d.head + j) % d.size).filter (fun j => match d.slots.get j with
        | some y => y.st == .waiting && y.due
        | none => false) = [0] ∧ d.slots.get 0 = some x ∧
      (s.tbGet (s.deckAgent 0).who (s.tbFind 0 (s.gateRef 0 0x10040)) .read).2 = .ok 0 ∧ fld 0 3 0 ≠ 5 ∧ d.waiting = [] ∧ d.deals = [] ∧ d.ready = []) ∧
    (∀ r ∈ [DeckReply.entry (List.replicate 48 0), .fault 5, .empty, .status 0],
      let s := { (wdeck deck0) with deckOps := [(0, dop .drawt (some r))], skeins := (wr [] fun _ => []).skeins.mapVals fun _ k => { k with sregs := Tbl.set k.sregs 9 empty } };
      s.deckOps.get 0 = some (dop .drawt (some r)) ∧ (s.ply? 0).map Ply.uid = some 0 ∧ (s.sRegOf 0 9).pend = some 0) := by decide +kernel

/-- w0 with multicast group 7 of context 0, whose copies are delivered here or not. -/
def wgrp (v : Nat) : State := { w0 with mgroups := [(7, BitVec.ofNat _ v)] }

/-- A packet of package 5 to the group. -/
def mpkt (dev : Nat) : McstPkt := { dev := dev, up := 5, req := 9, group := 7, ctxid := 0, load := .store 0x10040 [1] }

/-- MCST with no group, misaligned, with and without a release; a copy that is delivered and ones that are not; RFENCE with nothing to
wait for, with an error to take and with a multicast that is not acknowledged. -/
theorem wit_Multicast :
    (let f := ff z (.s 6) (.s 2) 0x00007000;
      refusals (.mcst f) w0 (env w0) = some [10] ∧ w0.mgroupOk (mX f) (pktCtxid (w0.ctx 0)) = false ∧ (env w0).p.wait = none ∧
      (let s := wgrp 0x81000000;
        s.mgroupOk (mX f) (pktCtxid (s.ctx 0)) = true ∧ s.acquiring (env s).p 0 = false ∧ (s.release 0 .pod).2 = true ∧
        (∀ m ∈ [0x00007000, 0x08007000, 0x04007000], runs (.mcst { f with m := BitVec.ofNat 32 m, b := .s 16 }) s (env s) = true) ∧
        sPairVal s (env s).p f.a % 2 ^ 44 % 64 = 0 ∧
        runs (.mcst { f with a := .s 12 }) s (env s) = true ∧ sPairVal s (env s).p (.s 12) % 2 ^ 44 % 4 ≠ 0)) ∧
    (mpkt 5).dev ≠ w0.mgmt.devidx ∧ w0.mgroupOk 7 0 = false ∧ (wgrp 0x80000000).mgroupOk 7 0 = true ∧ bit ((wgrp 0x80000000).mgroup 7) 24 = false ∧
    (let s := wgrp 0x81000000;
      s.mgroupOk 7 0 = true ∧ bit (s.mgroup 7) 24 = true ∧ resKind (s.home (s.whoPod 5 0) (podVa 0x10040 / 64) .write).2 = 0) ∧
    (∀ i ∈ [Instr.rfence (ff z z z 0), .rfenceOne (ff z (.s 2) z 0x01000000)], runs i w0 (env w0) = true) ∧
    ((w0.wcDrain 0 fun _ => true).wcWaiting 0 0 (fun _ _ => true) || (w0.wcDrain 0 fun _ => true).remoteOpen (env w0) (fun _ => true) true) = false ∧
    takesNone (w0.wcDrain 0 fun _ => true) 0 false (fun c => isRemoteCond c.kind) = true ∧
    (let s := wp fun p => { p with conds := [{ kind := .remote, code := 0x105, sub := 2, va := 0x40 }] };
      runs (.rfence (ff z z z 0)) s (env s) = true ∧ runs (.rfenceOne (ff z (.s 2) z 0x01000000)) s (env s) = true ∧
      ((s.wcDrain 0 fun _ => true).ply? 0).map (fun p => (p.hnd.isNone, (takeFirst (fun c => isRemoteCond c.kind) p.conds).isSome)) = some (true, true)) ∧
    (let s := { (wp fun p => { p with ops := [{ id := 3, cls := .st, done := false }] }) with remote := [(4, { use := .mcst 3 0 (List.range 8) 0, dev := 0, off := 0, clock := none, core := 0, slot := 0, pid := 0, write := true, host := false })] };
      runs (.rfence (ff z z z 0)) s (env s) = true ∧ (env s).p.wait = none ∧ (s.wcDrain 0 fun _ => true).remoteOpen (env s) (fun _ => true) true = true) ∧
    (let s := { w0 with remote := [(4, { use := .wc 0 0 5 1, dev := 5, off := 0, clock := none, core := 0, slot := 0, pid := 0, write := true, host := false })] };
      runs (.rfenceOne (ff z (.s 2) z 0x01000000)) s (env s) = true ∧ (s.wcDrain 0 fun _ => true).wcWaiting 0 0 (fun d _ => d == 5) = true) := by
  decide +kernel

/-- A port that is up on all its lanes, with a packet not acknowledged. -/
def port0 (st : Nat) : Port :=
  { Port.reset with tx := 0x0F, rx := 0xF0, ok := 0xFF, txw := 4, rxw := 4, pdev := 5, st := st,
                    wire := [{ cls := .mem, src := 0, agent := 0, dst := 5, hop := 1, seq := 0, body := .podBar 0 0 }] }

/-- A packet in the switch. -/
def fpkt (hop src dst seq : Nat) : FabPkt := { cls := .ctl, src := src, agent := 4095, dst := dst, hop := hop, seq := seq, body := .podBar 0 0 }

/-- w0 with port 3 in a state, and FABCFG. -/
def wport (p : Port) (cfg : Nat) : State := { w0 with ports := [(3, p)], mgmt := { mgmt0 with fabcfg := BitVec.ofNat _ cfg } }

/-- A port that is up, with 6 and 7 replays of a flit, with a lane of each direction to lose and one to turn; one that retrains, one that is down; FABCFG at its
bounds; a packet at its eighth and ninth hop; packets of another package in order and before it. -/
theorem wit_PortsAndSwitch :
    (wport (port0 2) 0).serves = true ∧
    (let s := wport (port0 2) 0;
      s.port 3 = port0 2 ∧ (port0 2).st ≠ 0 ∧ (port0 2).up = true ∧ (port0 3).up = true ∧ (port0 2).row + 1 < 8 ∧
      (∀ l ∈ [0, 7], let q := { (port0 2) with ok := (port0 2).ok - 2 ^ l };
        bit (port0 2).ok l = true ∧ bit (port0 2).tx l = decide (l = 0) ∧ q.txLanes ≠ 0 ∧ q.rxLanes ≠ 0)) ∧
    ({ (port0 2) with row := 6 }).row + 1 < 8 ∧ 8 ≤ ({ (port0 2) with row := 7 }).row + 1 ∧
    (let p := { (port0 3) with rx := 0x70, ok := 0x7F };
      let s := wport p (2 ^ 18);
      let q := { p with tx := p.tx - 2 ^ 0, rx := p.rx ||| 2 ^ 0 };
      bit s.mgmt.fabcfg.toNat 18 = true ∧ p.up = true ∧ bit p.ok 0 = true ∧ bit p.tx 0 = true ∧ p.rxLanes < 4 ∧ q.txLanes ≠ 0 ∧ q.rxLanes ≠ 0) ∧
    (port0 4).st = 4 ∧ ((Port.reset).up = false ∧ Port.reset.st ≠ 4 ∧ Port.reset.ok = 0 ∧ w0.hasUnit 2 = true) ∧
    (∀ v ∈ [1 <<< 10 + 1, 128 <<< 10 + 1000], (BitVec.ofNat 32 v).getLsbD 19 = w0.p23std ∧ 1 ≤ fld v 17 10 ∧ fld v 17 10 ≤ 128 ∧ 1 ≤ fld v 9 0 ∧ fld v 9 0 ≤ 1000) ∧
    (∀ v ∈ [1, 129 <<< 10 + 1, 1 <<< 10, 1 <<< 10 + 1001], (BitVec.ofNat 32 v).getLsbD 19 = w0.p23std ∧
      (fld v 17 10 = 0 ∨ 128 < fld v 17 10 ∨ fld v 9 0 = 0 ∨ 1000 < fld v 9 0)) ∧
    (∀ h ∈ [7, 8], let s := { w0 with ports := [(15, { (port0 2) with pdev := 16 })], fabOut := [fpkt h 0 21 0] };
      (21 : Nat) ≠ s.mgmt.devidx ∧ s.boundStd 21 = false ∧ s.fabOut = [fpkt h 0 21 0] ∧ s.nextHop (fpkt h 0 21 0) = some 15) ∧
    (let s := { w0 with flowIn := [(arriveKey (fpkt 2 5 0 3), 4)] };
      fpkt 2 5 0 3 ∉ s.fabOut ∧ fpkt 2 5 0 4 ∉ s.fabOut ∧ (5 : Nat) ≠ s.mgmt.devidx ∧ s.hasUnit 2 = true ∧ s.boundStd 5 = false ∧ (fpkt 2 5 0 3).seq < (s.flowIn.get (arriveKey (fpkt 2 5 0 3))).getD 0 ∧
      (fpkt 2 5 0 4).seq = (s.flowIn.get (arriveKey (fpkt 2 5 0 4))).getD 0 ∧ s.flowHeld = [] ∧ (0 : Nat) = s.mgmt.devidx) := by decide +kernel

/-! ## Hypotheses of the statements: collectives and messages -/

/-- The 256 bits of a chunk operation without successors, on base 0. -/
def cop (opc dt dep peer tag arg src tgt len : Nat) : Nat :=
  opc + dt <<< 4 + dep <<< 8 + peer <<< 16 + tag <<< 40 + arg <<< 48 + src <<< 64 + 0xFFFF <<< 112 + tgt <<< 128 + 0xFFFF <<< 176 + len <<< 192 +
    0xFFFF <<< 224 + 0xFFFF <<< 240

/-- A graph of a COPY, a WAIT and a COMPUTE of two triggers. -/
def graph0 : Graph :=
  { nbase := 1, sig := 0x1234, ops := [cop 4 0 0 0 0 0 0 0x40 32, cop 5 0 0 0 0 0 0x80 0 16, cop 7 0 2 0 0 0 0 0 0], absMax := none }

/-- A group of packages 0 and 5, of rank 0, whose next trick is 7. -/
def group0 : GroupSt := { grp := { mem := [0, 5], rank := 0, mgrp := 0, men := false }, trick := 7, lab := false, lcause := 0 }

/-- w0 with a graph in slot 2 and group 1, and base 0 in s16. -/
def wcg : State :=
  { w0 with
    skeins := (wr [(6, 0x10040), (8, 0x100), (9, 0x700000), (16, 0x10040)] fun _ => []).skeins
    gslots := [(gslotKey 0 2, { graph := some graph0, trigs := [] })], groups := [(groupKey 0 1, group0)] }

def cgrunF : Full := ff (.s 8) (.s 16) z 0x2001
/-- The call that CGRUN names. -/
def call0 : Call := wcg.callNew (env wcg) cgrunF graph0 group0.grp

/-- group0 with a multicast entry. -/
def groupM : GroupSt := { group0 with grp := { group0.grp with mgrp := 9, men := true } }

/-- Each instruction on a filled slot and group; a probe that has passed, of a group with and without a multicast entry; what refuses CGABORT
and CGRUN: an empty group and slot, one base too few, one rank too few. -/
theorem wit_CollectiveInstructions :
    (∀ i ∈ [Instr.cgloadGraph (ff (.s 1) (.s 6) z 0x2000), .cgloadGroup (ff (.s 1) (.s 6) z 0x01001000), .cgrun cgrunF, .cgtrig (ff z (.s 6) z 0),
      .cgstat (ff (.s 2) z z 0x1000), .cgabort (ff z z z 0x1000)], runs i wcg (env wcg) = true) ∧
    wcg.acquiring (env wcg).p 0 = false ∧ (wcg.release 0 .pkg).2 = true ∧ sPairVal wcg (env wcg).p (.s 6) % 2 ^ 56 % 64 = 0 ∧ (env wcg).p.wait = none ∧
    (wcg.gslot 0 (mX cgrunF)).graph = some graph0 ∧ wcg.groupSt 0 (mY cgrunF) = some group0 ∧ graph0.nbase ≤ mf cgrunF 26 24 + 1 ∧ graph0.absMax = none ∧
    (∀ x ∈ (sPairVal wcg (env wcg).p (.s 8) % 2 ^ 56, 16) :: call0.aligns, x.1 % x.2 = 0) ∧ call0.aligns ≠ [] ∧ wcg.callCount 0 < 256 ∧
    (let s := { wcg with plies := [(0, { placedPly with wait := some (.op 3), ops := [{ id := 3, cls := .net, done := false }] })]
                         probes := [(3, { pid := 0, uid := 0, skein := 0, slot := 0, asks := [], ph := .passed, what := .call call0 })] };
      let u := State.sample { s with probes := s.probes.del 3 } call0;
      runs (.cgrun cgrunF) s (env s) = true ∧ (env s).p.wait = some (.op 3) ∧ u.2 = some ([(1, 0)], none) ∧ u.1.groupSt 0 1 = some group0 ∧
      s.callEarlier 3 = false ∧ u.1.colHeld = [] ∧ (u.1.gslot call0.slot call0.gslot).trigs = []) ∧
    call0.grp.men = false ∧ groupM.grp.men = true ∧ groupM.grp.others ≠ [] ∧
    (∀ i ∈ [Instr.cgabort (ff z z z 0x2000), .cgrun (ff (.s 8) (.s 16) z 0x1001), .cgrun (ff (.s 8) (.s 16) z 0x2002)],
      refusals i wcg (env wcg) = some [10]) ∧ (env wcg).p.wait = none ∧ wcg.groupSt 0 2 = none ∧ (wcg.gslot 0 1).graph = none ∧
    (∀ g ∈ [{ graph0 with nbase := 2 }, { graph0 with absMax := some 2 }],
      let s := { wcg with gslots := [(gslotKey 0 2, { graph := some g, trigs := [] })] };
      refusals (.cgrun cgrunF) s (env s) = some [10]) ∧
    (∀ g ∈ [graph0, { graph0 with absMax := some 1 }],
      let s := { wcg with gslots := [(gslotKey 0 2, { graph := some g, trigs := [] })] };
      runs (.cgrun cgrunF) s (env s) = true) := by decide +kernel

/-- wcg with a call numbered 3 of operations, in which the other member has started, and one operation's progress. -/
def wcall (ops : List Nat) (h : ChSt) (inbox : List (Nat × EngData)) (starts : List Nat) : State :=
  { wcg with
    clock := 60000000
    calls := [(3, { call0 with graph := { graph0 with ops := ops }, trick := 6, ops := ops.map fun _ => h, inbox := inbox, starts := starts, waits := [(0, 5)] })] }

/-- The call of a state, and progress. -/
def callOf (s : State) : Call := (s.calls.get 3).getD call0
def chst (ph : ChPh) (buf : List Byte) : ChSt := { cnt := 0, ph := ph, buf := buf, emax := none }

/-- How a read or a write of the engine ended: 0 well. -/
def colKind (x : ColGet) : Nat := match x with
  | .ok _ => 0
  | .wait => 1
  | .fail _ => 2

/-- A trigger for operation 0 of graph slot 2. -/
def trig0 : TileTrig := { op := 4, slot := 0, pid := 0, uid := 0, target := 2, cg := true }

/-- Each kind of operation, ready to begin and begun with its data in. -/
theorem wit_CollectiveEvents :
    (∀ x ∈ [cop 7 0 0 0 0 0 0 0 0, cop 1 0 0 1 3 0 0 0x40 32, cop 4 0 0 0 0 0 0 0x40 32, cop 5 0 0 0 0 0 0x80 0 16, cop 3 0 0 1 0 0 0 0x40 32,
        cop 6 0 0 0 0 2 0 0x80 16, cop 0 0 0 1 3 0 0 0 32],
      let s := wcall [x] (chst .idle []) [] [1];
      let c := callOf s;
      s.calls.get 3 = some c ∧ 0 < c.ops.length ∧ (c.chunk 0).ph = .idle ∧ (c.chunk 0).cnt = 0 ∧ s.callLive c = true ∧ c.co 0 = x) ∧
    (let s := wcall [cop 3 0 0 1 0 0 0 0x40 32] (chst .idle []) [] [1];
      (callOf s).owns (cop 3 0 0 1 0 0 0 0x40 32) = false) ∧
    (let x := cop 0 0 0 1 3 0 0 0 32;
      let s := wcall [x] (chst .idle []) [] [1];
      coOpc x = 0 ∧ (callOf s).grp.peer x ≠ (callOf s).grp.rank ∧ (s.colRead (s.callAgent (callOf s)) ((callOf s).src x, 32)).2 = .ok (List.replicate 32 0) ∧
      (s.colRead (s.callAgent (callOf s)) ((callOf s).src x, 32)).1.calls = s.calls) ∧
    (∀ y ∈ [(cop 1 0 0 1 3 0 0 0x40 32, [(1, EngData.send 3 0 (List.replicate 32 9))]), (cop 4 0 0 0 0 0 0 0x40 32, []),
        (cop 2 3 0 0 3 0 0 0x40 256, [(1, .vals 3 256 0 (List.replicate 256 9))])],
      let s := wcall [y.1] (chst .begun (List.replicate 256 1)) y.2 [1];
      let c := callOf s;
      (c.chunk 0).ph = .begun ∧ colKind (s.colRead (s.callAgent c) (c.src y.1, coLen y.1)).2 = 0 ∧
      colKind (s.colWrite (s.callAgent c) (c.tgt y.1) (List.replicate (coLen y.1) 10)).2 = 0 ∧
      (s.colWrite (s.callAgent c) (c.tgt y.1) (List.replicate (coLen y.1) 10)).1.calls = s.calls) ∧
    (let s := wcall [cop 1 0 0 1 3 0 0 0x40 32] (chst .begun []) [(1, EngData.send 3 0 (List.replicate 32 9))] [1];
      ((callOf s).inbox.find? fun y => y.1 == 1 && (match y.2 with
        | .send t n _ => t == 3 && n == (callOf s).before 1 1 3 0
        | _ => false)) = some (1, .send 3 0 (List.replicate 32 9))) ∧
    (let x := cop 2 3 0 0 3 0 0 0x40 256;
      let s := wcall [x] (chst .begun (List.replicate 256 1)) [(1, .vals 3 256 0 (List.replicate 256 9))] [1];
      coOpc x = 2 ∧ (callOf s).owns x = true ∧ (callOf s).redBytes 0 = some (List.replicate 256 10)) ∧
    (let x := cop 5 0 0 0 0 0 0x80 0 16;
      let s := wcall [x] (chst .begun []) [] [1];
      let g := s.tbGet (s.callAgent (callOf s)).who (s.tbFind 0 (s.callRef (callOf s) ((callOf s).src x))) .read;
      coOpc x = 5 ∧ g.2 = .ok 0 ∧ g.1.calls = s.calls ∧ some (fld 0 3 0) ≠ (callOf s).waits.get 0) := by decide +kernel

/-- Operations that landed; triggers that hit and that are held; packets that agree, that do not, that are early and that are late; a call whose packet
is not acknowledged in time. -/
theorem wit_CollectiveEvents_packets :
    ((wcall [cop 6 0 0 0 0 2 0 0x80 16] (chst .landed []) [] [1]).tbq = [] ∧ (wcall [cop 6 0 0 0 0 2 0 0x80 16] (chst .landed []) [] [1]).remote = [] ∧ call0.abort = none ∧
      (callOf (wcall [cop 6 0 0 0 0 2 0 0x80 16] (chst .landed []) [] [1])).chunk 0 = chst .landed []) ∧
    (let s := { (wcall [cop 7 0 2 0 0 0 0 0 0] { (chst .idle []) with cnt := 2 } [] [1]) with
        trigs := [trig0], gslots := [(gslotKey 0 2, { graph := some { graph0 with ops := [cop 7 0 2 0 0 0 0 0 0] }, trigs := [(0, 254)] })] };
      s.trigs.find? (fun t => t.op == 4) = some trig0 ∧ fld trig0.target.toNat 7 0 = 2 ∧ fld trig0.target.toNat 23 8 = 0 ∧ fld trig0.target.toNat 31 24 = 0 ∧
      (s.gslot 0 2).graph.isSome = true ∧ coOpc (cop 7 0 2 0 0 0 0 0 0) = 7 ∧
      ((s.callsOf fun c => c.slot == 0 && c.gslot == 2).find? (fun (z : Nat × Call) => 0 < (z.2.chunk 0).cnt)).map Prod.fst = some 3 ∧
      ((({ s with calls := [] }).callsOf fun c => c.slot == 0 && c.gslot == 2).find? (fun (z : Nat × Call) => 0 < (z.2.chunk 0).cnt)) = none ∧
      ((s.gslot 0 2).trigs.get 0).getD 0 = 254 ∧ s.plyUid 0 = some (0, placedPly) ∧ s.ply? 0 = some placedPly) ∧
    (let s := wcall [cop 1 0 0 1 3 0 0 0x40 32] (chst .idle []) [] [];
      let c := callOf s;
      s.slotFor 0 = some 0 ∧ s.callAt 0 1 6 = some (3, c) ∧ c.graph.sig = 0x1234 ∧ (0x99 : Word) ≠ c.graph.sig ∧ s.callAt 0 1 7 = none ∧ s.callAt 0 1 5 = none ∧
      s.groupSt 0 1 = some group0 ∧ pastTrick 7 7 = false ∧ pastTrick 7 6 = true ∧ pastTrick 7 (2 ^ 32 - 1) = true ∧
      c.disagrees 1 (.send 3 0 (List.replicate 64 0)) = true ∧ c.disagrees 1 (.send 3 0 (List.replicate 32 0)) = false ∧
      (∀ y ∈ c.graph.ops, coOpc y ≠ 2) ∧ c.abort = none ∧ (∀ i, i < c.ops.length → s.signalling 3 i = false) ∧ (5 : Nat) ≠ s.mgmt.devidx ∧
      s.chunkRoom (.eng { ctxid := 0, group := 1, trick := 6, src := 1, dev := 5, req := 9, data := .send 3 0 (List.replicate 64 0) }) = true) ∧
    (let s := { (wcall [cop 1 0 0 1 3 0 0 0x40 32] (chst .idle []) [] []) with
        remote := [(4, { use := .col 3 none, dev := 5, off := 0, clock := some 0, core := 0, slot := 0, pid := 0, write := true, host := false })] };
      s.colExpired 3 = true ∧ (callOf s).abort = none ∧ (∀ i, i < (callOf s).ops.length → s.signalling 3 i = false)) := by decide +kernel

/-- An open endpoint of group0, with its regions in the mapped page. -/
def ep0 : Endpoint :=
  { mem := [0, 5], rank := 0, uqBase := 0x18000, uqLog := 16, crBase := 0x10100, crLog := 4, ptBase := 0, npeer := 0, posted := [], uq := [],
    msnOut := [], msnIn := [], failed := [], early := [], wrote := 0, took := 0, crfull := false, drop := false }

/-- w0 with endpoint 2, an entry in the receive engine's cache, and a block in s16 that serves SEND (rank 1, elements 0 to 7) and RPOST (any
message, elements 0 to 3, the barrier at 0x100 of the shared window). -/
def wmsg (ep : Endpoint) : State :=
  { w0 with
    skeins := (wr [(6, 0x10040), (16, 1), (20, 8), (22, 4), (23, 0x100), (24, 0x700000)] fun _ => []).skeins
    eps := [(2, ep)], tidc := [(tidKey unitRecv 0 5, tent 17)] }

def msgF : Full := ff z (.s 16) z 0x2005
def rpostF : Full := ff (.s 40) (.s 16) z 0x2005
def queryF (d : Nat) : Full := ff (.s d) (.s 16) z 0x2000
def noA (f : Full) : Full := { f with a := z }

/-- A SEND of elements to rank 1, and a receive posted under handle 3. -/
def send0 (ent : Line) (count : Nat) (ph : SendPh) : SendOp :=
  { pid := 0, uid := 0, skein := 0, slot := 0, ep := 2, dest := 1, tag := 7, ent := ent, off := 0, count := count, msn := 0, clock := none, ph := ph }
def post0 (ent : Line) : Post :=
  { op := 3, pid := 0, uid := 0, skein := 0, slot := 0, ep := 2, psrc := 0, smask := 0, ptag := 0, tmask := 0, ent := ent, off := 0, count := 4,
    bar := .shared 0 0x100, cookie := 0, handle := 3 }
/-- The entry tent 17 at another page, and one of 64 by 128 elements. -/
def entAway : Line := BitVec.ofNat 512 (0x20800 + 17 <<< 56 + 2 <<< 61 + 8 <<< 128 + 8 <<< 160 + 8 <<< 288 + 1 <<< 504)
def entLong : Line := BitVec.ofNat 512 (0x10000 + 17 <<< 56 + 2 <<< 61 + 64 <<< 128 + 128 <<< 160 + 64 <<< 288 + 1 <<< 504)

/-- A queued message of rank 1. -/
def uq0 : UqMsg := { src := 1, org := .rank 1 5, tag := 7, len := 16, msn := 0, send := 8, lost := false, run := none }

/-- A probe of an instruction that has passed. -/
def wpass (ep : Endpoint) (what : ProbeFor) : State :=
  { (wmsg ep) with
    plies := [(0, { placedPly with wait := some (.op 3), ops := [{ id := 3, cls := .net, done := false }] })]
    probes := [(3, { pid := 0, uid := 0, skein := 0, slot := 0, asks := [], ph := .passed, what := what })] }

/-- w0 with endpoint 2 and a block that names destination d, count elements for SEND and as many for RPOST. -/
def wrange (d count : Nat) : State :=
  { wmsg ep0 with
    skeins := (wr [(6, 0x10040), (16, BitVec.ofNat 32 d), (20, BitVec.ofNat 32 count), (22, BitVec.ofNat 32 count), (23, 0x100), (24, 0x700000)] fun _ => []).skeins }

/-- Each instruction on an open endpoint and on none; an invalid tensor entry; ranges that end at and past the tensor, and a destination past the
last. -/
theorem wit_MessageInstructions :
    (let s := wmsg ep0;
      (∀ i ∈ [Instr.send msgF, .rpost rpostF, .rcancel (queryF 1), .rprobe (queryF 40), .rclaim (noA (queryF 40)), .rstat (noA (queryF 2)),
        .rstatOpen (ff (.s 1) (.s 6) z 0x01002000)], runs i s (env s) = true) ∧ (env s).p.wait = none ∧ s.acquiring (env s).p 0 = false ∧
      s.endpoint 2 = some ep0 ∧ epOf (env s) msgF = 2 ∧ (s.release 0 .pkg).2 = true ∧ s.recvTid (env s) msgF = (s, some (tent 17).toNat)) ∧
    (∀ i ∈ [Instr.send msgF, .rpost rpostF, .rcancel (queryF 1), .rprobe (queryF 40), .rclaim (noA (queryF 40))],
      refusals i w0 (env w0) = some [10]) ∧ w0.endpoint 2 = none ∧ (env w0).p.wait = none ∧
    (let s := { (wmsg ep0) with tidc := [(tidKey unitRecv 0 5, 0)] };
      refusals (.send msgF) s (env s) = some [10] ∧ refusals (.rpost rpostF) s (env s) = some [10] ∧ (s.recvTid (env s) msgF).2 = some 0 ∧ tidValid 0 = false) ∧
    (∀ x ∈ [(1, 64), (1, 65), (2, 64)],
      let s := wrange x.1 x.2;
      let ws := sWords s (env s).p (.s 16) 10;
      refusals (.send msgF) s (env s) = some (if x = (1, 64) then [] else [10]) ∧ refusals (.rpost rpostF) s (env s) = some (if x.2 = 64 then [] else [10]) ∧
      (x = (1, 64) → runs (.send msgF) s (env s) = true) ∧ (x.2 = 64 → runs (.rpost rpostF) s (env s) = true) ∧
      (∀ n ∈ [3, 5], regsFull s (env s).p (env s).act [⟨regAfter msgF.a n, 2, false⟩] = true) ∧ regsFull s (env s).p (env s).act [⟨msgF.a, 1, false⟩] = true ∧
      s.endpoint 2 = some ep0 ∧ s.recvTid (env s) msgF = (s, some (tent 17).toNat) ∧
      rangeOk (tent 17).toNat (wordAt ws 3) (wordAt ws 4) = decide (x.2 = 64) ∧ rangeOk (tent 17).toNat (wordAt ws 5) (wordAt ws 6) = decide (x.2 = 64) ∧
      wordAt ws 0 = x.1) ∧ ep0.mem.length + ep0.npeer = 2 ∧
    (let ws := sWords (wmsg ep0) placedPly (.s 16) 10;
      rangeOk (tent 17).toNat (wordAt ws 3) (wordAt ws 4) = true ∧ wordAt ws 0 < ep0.mem.length + ep0.npeer ∧ pairAt ws 7 % 2 ^ 56 % 16 = 0 ∧ rangeOk (tent 17).toNat (wordAt ws 5) (wordAt ws 6) = true) := by decide +kernel

/-- Probes that have passed, with a short and a long payload; a posted entry, and a record to claim. -/
theorem wit_MessageInstructions_probes :
    (let s := wpass ep0 (.send (send0 (tent 17) 8 .wait));
      let t := State.updEp { s with probes := s.probes.del 3 } 2 (fun x => { x with msnOut := x.msnOut.set 1 1 });
      runs (.send msgF) s (env s) = true ∧ (env s).p.wait = some (.op 3) ∧ s.sendEarlier 3 (send0 (tent 17) 8 .wait) = false ∧ s.endpoint (send0 (tent 17) 8 .wait).key = some ep0 ∧ ep0.mem[1]? = some 5 ∧
      (ep0.failed.get 1).getD [] = [] ∧ (send0 (tent 17) 8 .wait).len ≤ 16384 ∧
      (t.runsRead (t.sendAgent (send0 (tent 17) 8 .wait)) (rangeRuns (tent 17) 0 8)).2 = .ok (List.replicate 32 0) ∧
      (t.runsRead (t.sendAgent (send0 (tent 17) 8 .wait)) (rangeRuns (tent 17) 0 8)).1.clock = s.clock) ∧
    (runs (.send msgF) (wpass ep0 (.send (send0 entLong 8192 .wait))) (env (wpass ep0 (.send (send0 entLong 8192 .wait)))) = true ∧
      16384 < (send0 entLong 8192 .wait).len ∧ ¬ 16384 < (send0 entLong 4096 .wait).len) ∧
    (let s := wpass ep0 (.post (post0 (tent 17)));
      runs (.rpost rpostF) s (env s) = true ∧ (env s).p.wait = some (.op 3) ∧ s.postEarlier 3 (post0 (tent 17)) = false ∧ s.endpoint (post0 (tent 17)).key = some ep0 ∧ s.postsUsed < 65536 ∧
      ep0.uq.find? (fun m => fits m.src m.tag 0 0 0 0) = none) ∧
    (let h := wordAt (sWords (wmsg ep0) placedPly (.s 16) 1) 0 % 65536;
      ep0.posted.find? (fun p => p.handle == h) = none ∧
      ({ ep0 with posted := [{ (post0 (tent 17)) with handle := h }] }).posted.find? (fun p => p.handle == h) = some { (post0 (tent 17)) with handle := h }) ∧
    (let ep := { ep0 with posted := [{ (post0 (tent 17)) with handle := 1 }], uq := [uq0], wrote := 1 };
      let s := wmsg ep;
      let g := s.engRead (s.epAgent 2) [] (ep.crBase + 32 * (ep.took % 2 ^ ep.crLog)) 32;
      runs (.rcancel (queryF 1)) s (env s) = true ∧ runs (.rprobe (queryF 40)) s (env s) = true ∧ runs (.rclaim (noA (queryF 40))) s (env s) = true ∧
      ep0.wrote = ep0.took ∧ ep.wrote ≠ ep.took ∧ g.2 = .ok (List.replicate 32 0) ∧ g.1.eps = s.eps ∧ g.1.recvs = []) ∧
    sPairVal (wmsg ep0) placedPly (.s 6) % 2 ^ 56 % 64 = 0 := by decide +kernel

/-- A message of rank 1 on package 5. -/
def msg0 (msn : Nat) (body : MsgBody) : MsgIn := { ctxid := 0, ep := 2, src := .rank 1 5, tag := 7, len := 16, msn := msn, send := 8, body := body }

/-- A receive of a post in a phase. -/
def recv0 (ent : Line) (ph : RecvPh) : Recv := { (recvNew (post0 ent) 1 (msg0 0 .header) false) with ph := ph }

/-- The recvs that a landing writes to. -/
def landAt (ent : Line) : Landed :=
  let s := { (wmsg ep0) with recvs := [(3, recv0 ent (.land (List.replicate 16 1)))] }
  (State.runsWrite s (s.postAgent (post0 ent)) 0 (cutRuns (recv0 ent .ring).len (rangeRuns ent 0 4)) (List.replicate 16 1)).2

/-- Messages that the chunk buffers take and one that they do not. -/
theorem wit_MessageEvents_room : (wmsg ep0).chunkRoom (.msg (msg0 0 .header)) = true ∧
    (wmsg ep0).chunkRoom (.msg (msg0 0 (.eager (List.replicate 16 1)))) = true ∧
    (wmsg ep0).chunkRoom (.msg (msg0 0 (.eager (List.replicate (2 ^ 26 + 1) 1)))) = false := by
  refine ⟨by decide +kernel, by decide +kernel, ?_⟩
  simp [State.chunkRoom, packetSize, msg0, -List.reduceReplicate]
  omega

/-- A message of no context, of a closed endpoint, that meets a posted entry, that meets none, with a full queue, and that is early; a payload that
comes, that does not, that lands and that fails to; a ring that is full and one with room; a SEND that is held, sent again and answered. -/
theorem wit_MessageEvents :
    (∀ b ∈ [MsgBody.eager (List.replicate 16 1), .header], (5 : Nat) ≠ w0.mgmt.devidx ∧ (msg0 0 b).body ≠ .void ∧ (msg0 0 b).body ≠ .lost) ∧
    State.slotFor { w0 with ctxs := [] } 0 = none ∧ w0.slotFor 0 = some 0 ∧ w0.endpoint (epKey 0 2) = none ∧ (wmsg ep0).endpoint (epKey 0 2) = some ep0 ∧
    (msg0 0 .header).msn = (ep0.msnIn.get 1).getD 0 ∧ ep0.early = [] ∧
    ({ ep0 with posted := [post0 (tent 17)] }).posted.find? (fun p => fits 1 7 p.psrc p.smask p.ptag p.tmask) = some (post0 (tent 17)) ∧
    ep0.posted.find? (fun p => fits 1 7 p.psrc p.smask p.ptag p.tmask) = none ∧ 4096 ≤ ({ ep0 with uq := List.replicate 4096 uq0 }).uq.length ∧
    ({ ep0 with uq := List.replicate 4095 uq0 }).uq.length < 4096 ∧ (ep0.msnIn.get 1).getD 0 < (msg0 (2 ^ 31 - 1) .header).msn ∧
    (let s := { (wmsg ep0) with recvs := [(3, recv0 (tent 17) .pull)] };
      s.recvs.get 3 = some (recv0 (tent 17) .pull) ∧ s.endpoint (recv0 (tent 17) .pull).post.key = some ep0 ∧ s.ownOrg (recv0 (tent 17) .pull).org = false) ∧
    (let s := { (wmsg ep0) with recvs := [(3, recv0 (tent 17) .pull), (4, recv0 (tent 17) .ring)] };
      (recv0 (tent 17) .ring).order < s.nextOp ∧ s.recvs.get 4 = some (recv0 (tent 17) .ring)) ∧
    landAt (tent 17) = .ok ∧ landAt entAway = .fail 0 ∧
    (let s := { (wmsg ep0) with recvs := [(3, recv0 (tent 17) .ring)] };
      let g := s.engWrite (s.epAgent 2) (ep0.crBase + 32 * (ep0.wrote % 2 ^ ep0.crLog)) (leBytes 32 (recv0 (tent 17) .ring).image);
      2 ^ ep0.crLog ≤ ({ ep0 with wrote := 16 }).wrote - ep0.took ∧ ({ ep0 with wrote := 15 }).wrote - ep0.took < 2 ^ ep0.crLog ∧ g.2 = .ok ∧ g.1.eps = s.eps ∧
      (recv0 (tent 17) .ring).post.sectors ≠ 0) ∧
    (∀ ph ∈ [SendPh.wait, .out, .kept],
      let o := send0 entLong 8192 ph;
      let s := { (wmsg ep0) with sends := [(3, o)] };
      s.sends.get 3 = some o ∧ s.ownSend o = false ∧ s.endpoint o.key = some ep0 ∧ ep0.mem[o.dest]? = some 5 ∧ (ep0.failed.get o.dest).getD [] = [] ∧
      16384 < o.len ∧ s.plyUid o.uid = some (0, placedPly) ∧ s.ply? 0 = some placedPly ∧ placedPly.uid = o.uid) := by decide +kernel

/-! ## Hypotheses of the statements: contexts -/

/-- A valid launch packet: that of the other tests with a bobbin age. -/
def lp0 : Line := pkt ||| (15 <<< 300)

/-- The package with no context resident and a quota of slot 0 on core 0 that allows everything; with the packet's slot in a state, and a word of
the deck table. -/
def wctx (c : Ctx) (table : List (Nat × Byte)) : State :=
  { w0 with sel := none, plies := [], skeins := [], segs := [], ctxs := [(0, c)], quota := [(0, BitVec.ofNat 64 (32 + 32 <<< 6 + 512 <<< 12 + 16 <<< 22))]
            hbm := [(0x1001, 0x80)] ++ table ++ [(0x20003, 0x80)] }

/-- What the packet becomes in its slot before it is validated. -/
def accepted (s : State) (x : Line) : State :=
  ((s.slotFresh 0).freshOp.2).updCtx 0 fun c =>
    { c with st := .idle, pkt := x, order := s.nextOp, stopc := 0, bars := [], placed := [], ended := [], lerr := 0 }

/-- The deck table's answer: whether it is valid. -/
def tableOk (s : State) : Option Bool := ((accepted s lp0).readDecks 0).2.map Prod.snd

/-- A bobbin of threads that were filed at a clock. -/
def bob (pc : Nat) (clock : Nat) : Bobbin :=
  { skein := 0, pc := BitVec.ofNat 56 pc, threads := (List.range 8).map fun i => { tid := i, clock := clock }, rngseed := 0, rngctr := 0, fpx := 0 }

/-- wctx with a running context that has a skein, whose partition 0 has two bobbins. -/
def wbob (a b : Nat) : State :=
  { (wctx { placedCtx with pkt := lp0 } []) with clock := 9, skeins := [(0, skeinAt 0)], parts := [(0, { Part.reset with bobbins := [(0, bob 0x40 a), (1, bob 0x80 b)] })] }

/-- A packet for an idle slot, an ended one and one in use, of a wrong length, invalid, and with a deck table that is valid and that is not; a skein
that fits; bobbins of different and of equal ages; quotas and INTCFG that are legal and that are not. -/
theorem wit_LaunchAndPlacement :
    (let s := wctx Ctx.reset [];
      s.serves = true ∧ s.ck.st ≠ 1 ∧ (lineBytes lp0).length = 64 ∧ (s.ctx 0).st = .idle ∧ (accepted s 0).validate 0 ≠ 0 ∧ lineOf (lineBytes lp0) = lp0 ∧
      (accepted s lp0).validate 0 = 0 ∧ tableOk s = some false ∧ ((accepted s lp0).readDecks 0).1.ctxs = (accepted s lp0).ctxs) ∧
    (wctx { Ctx.reset with st := .done } []).ctx 0 = { Ctx.reset with st := .done } ∧
    ((wctx placedCtx []).ctx 0).st ≠ .idle ∧ ((wctx placedCtx []).ctx 0).st ≠ .done ∧ (lineBytes lp0).tail.length ≠ 64 ∧
    (let s := wctx Ctx.reset [(0x15007, 0x80)];
      tableOk s = some true ∧ ((accepted s lp0).readDecks 0).1.ctxs = (accepted s lp0).ctxs) ∧
    (let s := wctx { placedCtx with pkt := lp0, placed := [] } [];
      s.launchOrder 0 = [0] ∧ nextSkein (s.ctx 0) 0 = some 0 ∧ s.fitsNow 0 0 = true ∧ nextSkein ((s.placeSkein 0 0 0).ctx 0) 0 = none ∧
      (∀ q ∈ [0, 1, 2, 3], launchPlies (s.ctx 0) q ≤ ((List.range 32).filter fun n =>
        (s.plies.get ((0 * 4 + q) * 32 + n)).isNone && (s.gone.get ((0 * 4 + q) * 32 + n)).isNone).length)) ∧
    (wctx Ctx.reset []).launchOrder 0 = [] ∧
    (∀ x ∈ [(3, 3), (3, 4)],
      let s := wbob x.1 x.2;
      (s.part 0).drawn ≠ some s.clock ∧ (s.part 0).bobbins.any (fun y => y == (0, bob 0x40 x.1)) = true ∧ s.drawable 0 (bob 0x40 x.1) = true ∧ s.drawable 0 (bob 0x80 x.2) = true ∧
      (bob 0x40 x.1).threads.head? = some { tid := 0, clock := x.1 } ∧ (bob 0x80 x.2).threads.head? = some { tid := 0, clock := x.2 } ∧
      (x.1 < x.2 ∨ (x.1 = x.2 ∧ (bob 0x40 x.1).pc.toNat < (bob 0x80 x.2).pc.toNat)) ∧ s.freeSlot 0 = some 0 ∧ (s.skeins.get 0).isSome = true) ∧
    (let s := wctx Ctx.reset [];
      s.quotaBad 0 0 33 = true ∧ s.quotaBad 0 0 (512 <<< 36) = false ∧ s.quotaBad 0 0 (512 <<< 36 + 1 <<< 27) = true ∧ grantOf 0 (2 <<< 36 + 3 <<< 27) = [3, 4] ∧
      grantOf 0 (s.quotaOf 0 0) = []) ∧
    (∀ v ∈ [0, 4, 16, 2 <<< 8], fld v 9 8 ≠ 3 ∧ (fld v 4 0 = 0 ∨ (4 ≤ fld v 4 0 ∧ fld v 4 0 ≤ 16))) ∧
    (∀ v ∈ [3 <<< 8, 1, 3, 17], fld v 9 8 = 3 ∨ (1 ≤ fld v 4 0 ∧ fld v 4 0 ≤ 3) ∨ 16 < fld v 4 0) := by decide +kernel

/-- A context with a save area at 0x40000. -/
def ctxIn (st : CtxSt) : Ctx := { placedCtx with st := st, pkt := lp0, save := 0x40000, size := 0x4000, left := [0] }

/-- A skein that was saved with one ply of one thread. -/
def saved0 : Saved :=
  { base := 0x1000, dead := 0, skein := { placedSkein with threads := [(0, { pc := 0, regs := [], ra := [], rsn := 0 })] }, plies := [(0, { placedPly with lanes := [some 0] })]
    bobbins := [], copies := [], segs := [], tiles := [] }

/-- A checkpoint target of all the frames, and one of none. -/
def wck (n : Nat) (run : Option CkRun) : State :=
  { (wctx Ctx.reset []) with ck := { Ck.reset with targets := [(0, (BitVec.ofNat 64 (n <<< 32), 0))], run := run } }

/-- Each command in the states in which it acts and in ones in which it does not; a core that is quiet, alone and with another to follow. -/
theorem wit_SavesAndCheckpoints :
    (let s := wctx (ctxIn .running) [];
      s.serves = true ∧ (s.ctx 0).st = .running ∧ s.saveUsable 0 = true ∧ s.ck.st ≠ 1) ∧
    (let s := wctx (ctxIn .saved) [];
      (s.ctx 0).st = .saved ∧ s.saveUsable 0 = true ∧ s.ck.st ≠ 1 ∧ s.savedOf 0 = [] ∧ ctxEnded (s.ctx 0) = false ∧
      ({ s with saved := [(skeinKey 0 0, saved0)] }).savedOf 0 ≠ []) ∧
    (wctx placedCtx []).saveUsable 0 = false ∧ (∀ st ∈ [CtxSt.done, .stopped], ((wctx (ctxIn st) []).ctx 0).st = st ∧ st ≠ .running ∧ st ≠ .saved) ∧
    (wctx (ctxIn .done) []).calls = [] ∧ Tbl.rising (wctx (ctxIn .done) []).quota = true ∧
    (∀ left ∈ [[0], [0, 1]],
      let s := { (wctx { (ctxIn .saving) with left := left } []) with skeins := [(0, skeinAt 0)], plies := [(0, placedPly)] };
      let t := (s.wcDrain 0 fun e => e.slot == 0).l1BackAll 0 (s.slotAsid 0) false;
      (s.ctx 0).st = .saving ∧ 0 ∈ (s.ctx 0).left ∧ s.coreQuiet 0 0 = true ∧ t.2 = true ∧ t.1.wcWaiting 0 0 (fun _ _ => true) = false ∧ t.1.ctxs = s.ctxs ∧
      Tbl.rising t.1.skeins = true ∧ (t.1.skeins.get 0).isSome = true ∧ (s.ctx 0).lose = false) := by decide +kernel

/-- A record that can be read, of two that were saved and of one, and one that is poisoned; checkpoints that start, that fail and that end. -/
theorem wit_SavesAndCheckpoints_records :
    (∀ chk ∈ [[], [((0x41000 / 64 : Nat), LineChk.poison)]],
      let s := { (wctx (ctxIn .restoring) []) with saved := [(skeinKey 0 0, saved0)], chk := chk };
      let r := s.rawRead 0 ((s.ctx 0).save + saved0.base) (s.recordLen saved0);
      s.saved.get (skeinKey 0 0) = some saved0 ∧ (s.ctx 0).st = .restoring ∧ s.canRestore saved0 = true ∧ r.1.ctxs = s.ctxs ∧ r.2.isNone = !chk.isEmpty) ∧
    (let s := { (wctx (ctxIn .restoring) []) with saved := [(skeinKey 0 0, saved0), (skeinKey 0 1, { saved0 with skein := { saved0.skein with idx := 1 } })] };
      saved0.skein.ctx = 0 ∧ saved0.copies = [] ∧ (s.savedOf 0).map Prod.fst = [skeinKey 0 0, skeinKey 0 1] ∧ saved0.plies.length = 1 ∧ s.canRestore saved0 = true ∧
      (s.rawRead 0 ((s.ctx 0).save + saved0.base) (s.recordLen saved0)).2.isSome = true) ∧
    (wck 0 none).anyActive = false ∧ ({ (wck 0 none) with ck := { (wck 0 none).ck with st := 1 } }).ck.st = 1 ∧
    (let v : DWord := 0;
      let n := (wck 0 none).frames;
      (wck n none).ck.st ≠ 1 ∧ ((wck n none).ckctl v.toNat).anyActive = false ∧ (wck n none).mgmt.reduced = false ∧
      (((wck n none).ckctl v.toNat).ckTargets.map CkTarget.count).sum = ((wck n none).ckctl v.toNat).frames ∧
      (((wck 0 none).ckctl v.toNat).ckTargets.map CkTarget.count).sum ≠ ((wck 0 none).ckctl v.toNat).frames) ∧
    (∀ b ∈ [true, false], (wck 0 (some { restore := false, layt := 0, poison := [], failed := b })).ck.run = some { restore := false, layt := 0, poison := [], failed := b }) ∧
    (wck 0 none).remote = [] ∧ (wck 0 none).mgmt.msixMask.contains 260 = false := by decide +kernel

/-! ## Hypotheses of the statements: the die link and the host -/

/-- A working port of modules 4 and 5 with credits, which has received a message. -/
def dport (m : List DlMsg) : DlPort := { DlPort.reset with role := 1, st := 2, modok := [4, 5], ident := true, cap := true, cred := [9, 9, 9, 9, 9], inbox := m }

/-- The port B0 of die 0 has received a message; scratchpad segment 2 of core 0 belongs to the slot; a load of ply 0 waits for transaction 7. -/
def wdl (m : DlMsg) (kind : ReqKind) : State :=
  { (wq { (req1 kind (.v 9) (part7 (.global 0x10040) (.sent (dlWait 7)))) with parts := [part7 (.global 0x10040) (.sent (dlWait 7))] }) with
    dl := [(0, placedPort), (1, dport [m])], segs := [(2, { Seg.reset with cond := .scratch 0, st := .o, home := 2 })]
    dlReqs := [(7, { port := 1, module := 4, addr := some 0x10040, clock := 0, use := .part 0 0 })], shoot := [shot 1], shootAt := (1, [0]), clock := 600000 }

/-- A message and the state after its port has taken it. -/
def dmsg (cls op addr arg : Nat) : DlMsg := dlMake cls op 0 addr 7 arg false (lineSlots 0 (~~~0#64) 0)
def taken (m : DlMsg) (kind : ReqKind) : State := ((wdl m kind).dlTake 1 m).getD w0

/-- The address of a scratchpad line of core 0. -/
def sp0 : Nat := 0x71 * 2 ^ 48 + 0x2040

/-- Segment 2 in transit; a replica of segment 3, with messages of its home to apply; the only copy. -/
def wsegT : Seg := { Seg.reset with cond := .scratch 0, st := .t 9 }
def wsegS (msgs : List RepMsg) : Seg := { Seg.reset with cond := .scratch 0, st := .s, home := 3, msgs := msgs }
def wsegO : Seg := { Seg.reset with cond := .scratch 0, st := .o, home := 2 }

/-- A read and a write, weak and strong, of a granted scratchpad line in each state of its segment. -/
theorem wit_DieLinkMessages_segments :
    ∀ g ∈ [wsegT, wsegS [], wsegS [.marker 0], wsegO], ∀ arg ∈ [0, 1], ∀ str ∈ [false, true],
      let m := dlMake 0 0x05 0 sp0 7 arg str (lineSlots 0 (~~~0#64) 0);
      let s := { (wdl m .ld) with segs := [(2, g)] };
      let t := (s.dlTake 1 m).getD w0;
      (s.dlTake 1 m).isSome = true ∧ s.dlSeg 1 m = some (2, 0) ∧ t.dlSeg 1 m = some (2, 0) ∧ t.seg 2 = s.seg 2 ∧ dlStr m = str ∧ bit (dlArg m) 0 = decide (arg = 1) ∧
      t.dlRoom 1 m = true ∧ (t.segHome 2).isNone = decide (g = wsegT) := by decide +kernel

/-- Every message, taken by the port: lines of this die that the ASID owns and does not own, and of none; a granted scratchpad line and another; a
promotion and a shootdown that end; answers to a load and to a store. -/
theorem wit_DieLinkMessages :
    (∀ x ∈ [(0, 0x01, 0x10040, 0), (0, 0x02, 0x10040, 0), (0, 0x04, 0x10040, 0), (0, 0x03, 0x10040, 0x110), (0, 0x05, sp0, 0), (0, 0x05, sp0, 1), (0, 0x06, sp0, 0),
        (0, 0x10, 0, 0), (0, 0x11, 0, 1), (1, 0x82, 0, 0), (1, 0x83, 0, 1), (2, 0xC0, 0x10040, 0), (1, 0x80, 0, 0), (1, 0x81, 0, 0), (3, 0xE0, 0, 4),
        (4, 0xF0, 0, 1 <<< 20), (4, 0xF0, 0, 2 <<< 20), (4, 0xF1, 0, 0)],
      let m := dmsg x.1 x.2.1 x.2.2.1 x.2.2.2;
      ((wdl m .ld).dlTake (dpKey (.b0 0)) m).isSome = true ∧ dlCls m = x.1 ∧ dlOp m = x.2.1 ∧ dlAddr m = x.2.2.1 ∧ dlArg m = x.2.2.2 ∧ dlTag m = 7 ∧ dlAsid m = 0 ∧
      (taken m .ld).dlRoom 1 m = true ∧ ({ (taken m .ld) with dl := [(1, { (dport []) with cred := [9, 0, 9, 9, 9] })] }).dlRoom 1 m = false) ∧
    (let t := taken (dmsg 0 0x01 0x10040 0) .ld;
      t.onDie 0 0x10040 = true ∧ (∀ w ∈ [true, false], t.physOwner 0x10040 0 w = true ∧ t.physOwner 0x30040 0 w = false) ∧ t.onDie 0 0x30040 = true ∧
      t.onDie 0 (2 ^ 40) = false ∧ (t.physLine (0x10040 / 64)).2.2 = false) ∧
    (tyOf (fld 0x110 8 4)).isSome = true ∧ fld 0x110 3 0 ≤ 9 ∧ ((tyOf (fld 0x110 8 4)).map fun ty => decide (4 ≤ tyBytes ty ∧ 0x10040 % tyBytes ty = 0)) = some true ∧
    (let t := taken (dmsg 0 0x05 sp0 0) .ld;
      t.dlSeg 1 (dmsg 0 0x05 sp0 0) = some (2, 0) ∧ t.segHome 2 = some 2 ∧ t.dlSeg 1 (dmsg 0 0x05 (sp0 + 4096) 0) = none) ∧
    (let t := taken (dmsg 0 0x10 0 0) .ld;
      (t.promoDie 0 0).2 = true ∧ ({ t with relOp := [(remKey 0 0, 9)], reqs := [(0, req1 .st (.v 9) (part7 (.loc 0 0x2040) .wait))], segs := wrep.segs }.promoDie 0 0).2 = false ∧
      t.shoot = [shot 1] ∧ (t.shootStep (shot 1).toNat 0 1).2 = true) ∧
    (let t := { (taken (dmsg 1 0x82 0 0) .ld) with acqs := [(0, acq0 (some [0, 96]))], dlReqs := [(7, { port := 1, module := 4, addr := none, clock := 0, use := .promo 0 })] };
      (t.dlReqs.get 7).map DlReq.use = some (.promo 0) ∧ (t.acqs.get 0).map Acq.promo = some (some [0, 96])) ∧
    (taken (dmsg 1 0x83 0 1) .ld).shootAt = (1, [0]) ∧
    (∀ k ∈ [ReqKind.ld, .st],
      let m := dmsg 2 0xC0 0x10040 0;
      let t := taken m k;
      let p := part7 (.global 0x10040) (.sent (dlWait 7));
      (t.reqs.get 0).map (fun r => (r.kind, r.parts)) = some (k, [p]) ∧
      (t.reqs.get 0).map (fun r => t.dlBytes m r p) = some (.data [0, 0, 0, 0])) ∧
    ((taken (dmsg 4 0xF0 0 0) .ld).dlPort 1).st ≠ 5 := by decide +kernel

/-- A flit of empty slots but one, with its CRC, and one with another CRC. -/
def flit (one : Nat) (good : Bool) : List (BitVec 128) :=
  let rest := BitVec.ofNat 128 one :: List.replicate 14 0
  let c := (flitCrc (0 :: rest)).toNat
  BitVec.ofNat 128 ((if good then c else c ^^^ 1) <<< 96) :: rest

/-- A port to train, its first module; the question without an answer, and 10 ms; flits with a wrong CRC, the seventh and eighth; good ones with no
messages, out of order, and with a malformed one; a request without an answer for 1 ms. -/
theorem wit_DieLinkEvents :
    (let s := { w0 with dl := [(0, placedPort), (1, { DlPort.reset with role := 1 })] };
      dpKey (.b0 0) = 1 ∧ 4 ∈ dpModules 1 ∧ 4 ∉ (s.dlPort 1).modok ∧ (s.dlPort 1).st < 4 ∧ (s.dlPort 1).modok = []) ∧
    (let s := { w0 with clock := 6000000, dl := [(0, placedPort), (1, { DlPort.reset with asked := some 0 })] };
      (s.dlPort 1).asked = some 0 ∧ (s.dlPort 1).ident = false ∧ 0 + 6000000 ≤ s.clock) ∧ (0 : Nat) + 6000000 > w0.clock ∧
    (4 ∈ (dport []).modok ∧ 5 ∈ (dport []).modok ∧ (5 : Nat) ≠ 4 ∧ (dport []).st ≠ 5 ∧ (dport []).ident = true ∧ (dport []).cap = true ∧ 1 ≤ ((dport []).cred[3]?).getD 0) ∧
    ((flit 0 false).length = 16 ∧ (flitCrc (flit 0 false)).toNat ≠ fld ((flit 0 false).headD 0).toNat 127 96) ∧
    (({ (dport []) with naks := [(4, 6)] }).naks.get 4).getD 0 < 7 ∧ 7 ≤ (({ (dport []) with naks := [(4, 7)] }).naks.get 4).getD 0 ∧
    (∀ one ∈ [0, 0xC0], (flit one true).length = 16 ∧ (flitCrc (flit one true)).toNat = fld ((flit one true).headD 0).toNat 127 96 ∧
      fld ((flit one true).headD 0).toNat 7 0 = (dport []).rseq ∧ fld ((flit one true).headD 0).toNat 7 0 ≠ ({ (dport []) with rseq := 1 }).rseq) ∧
    flitMsgs 16 ((flit 0 true).drop 1) = ([], false) ∧ flitMsgs 16 ((flit 0xC0 true).drop 1) = ([], true) ∧
    (let s := wdl (dmsg 1 0x80 0 0) .ld;
      (s.dlReqs.get 7).map (fun q => decide (q.clock + 600000 ≤ s.clock)) = some true ∧ (s.reqs.get 0).map MReq.kind = some .ld) := by decide +kernel

/-- Accesses of the host to the last word of a line of the mapped page, and to a page without a leaf; each stage of the boot; pending messages. -/
theorem wit_HostAccesses :
    (let s := w0;
      s.apVa 0x1003C = 0x1003C ∧ s.mgmt.stage ≠ 7 ∧ 0x1003C + 4 < 2 ^ 36 ∧ 0x1003C % 64 + 4 ≤ 64 ∧ s.logged s.mgmt.apasid (0x1003C / 64) = false ∧
      (∀ k ∈ [AccKind.read, .write], resKind (s.home s.apWho (0x1003C / 64) k).2 = 0 ∧ resKind (s.home s.apWho (0x20000 / 64) k).2 = 2) ∧
      (∀ k ∈ [AccKind.read, .write], (s.home s.apWho (0x1003C / 64) k).1.mgmt = s.mgmt) ∧ 0x1003C % 4 = 0 ∧ 0x10038 % 8 = 0 ∧
      s.logged s.mgmt.apasid (0x20000 / 64) = false ∧ s.apVa 0x20000 = 0x20000) ∧
    State.reset.serves = false ∧ w0.serves = true ∧ (0 : DWord).getLsbD 0 = false ∧
    (∀ n ∈ [5, 6], ({ mgmt0 with stage := n, hostmw := false }).stage ≠ 7) ∧ ReadReg.inWindow (.quota 0 0) = true ∧ w0.ck.st < 4 ∧
    263 ∈ ({ mgmt0 with pba := [263] }).pba := by decide +kernel

/-- A core that is throttled and one that is not; a chip that has stopped and one that has not; reduced service at stage 5; the last report and one
more. -/
theorem wit_PowerAndBoot : w0.serves = true ∧ ({ w0 with mgmt := { mgmt0 with stage := 7 } }).serves = false ∧ 191 ∉ w0.throttled ∧ w0.mgmt.stopt = false ∧ ({ mgmt0 with stopt := true }).stopt = true ∧
    (let s := { (wctx Ctx.reset []) with mgmt := { mgmt0 with stage := 5, reduced := true } };
      s.mgmt.stage = 5 ∧ s.mgmt.reduced = true ∧ s.anyActive = false) ∧
    (let m := { mgmt0 with measure := some 1, leaf := 32767 };
      m.measure = some 1 ∧ m.leaf < 32768 ∧ 32768 ≤ m.leaf + 1 ∧ (List.replicate 32 (0 : Byte)).length = 32) := by decide +kernel

/-! ## Hypotheses of the statements: their further clauses -/

/-- The oldest address at which an instruction of 12 bytes ends the code window of the packet. -/
def lastPc : Addr := 0x3FFFFF4

/-- w0 at the last instruction of the window, with the registers of a state. -/
def atLast (s : State) : State :=
  { s with skeins := s.skeins.mapVals fun _ k => { k with threads := k.threads.map fun x => (x.1, { x.2 with pc := lastPc }) } }

/-- An entry in memory whose part runs. -/
def entMem : DEntry := { ent with parts := [⟨0x0F, 0⟩, ⟨0xF0, 0x40⟩], spilled := true }

/-- A register that makes an instruction try again where a switch of parts needs no entry from memory, and where it does. -/
theorem wit_IssueRules_switch :
    (let s := wp fun p => { p with ents := [entMem] };
      s.switchDue 0 = some 0 ∧ (s.ply? 0).bind Ply.wait = none) ∧
    (wp fun p => { p with ents := [{ entMem with spilled := false }] }).switchDue 0 = none ∧
    (let s := { (w9 empty) with plies := [(0, { placedPly with ents := [entMem] })] };
      let i := Instr.iadd { (a3 0x80000000) with g := g9 };
      legal i s (eg g9 s) = true ∧ checks i s (eg g9 s) = some 1) := by decide +kernel

/-- JMP and JMPR out of the window, JMPR to no multiple of 4; BRA to a target and to a reconvergence point outside it, and one taken by some at the
window's end, where no lane and where some go on past it. -/
theorem wit_Jumps_traps :
    (runs (.jmp (ff z z z 0x1000000)) w0 (env w0) = true ∧ ¬InCode w0 (env w0) (pcRel (env w0) 32 0x1000000) ∧ InCode w0 (env w0) lastPc) ∧
    (∀ a ∈ [0x4000000, 0x202], let s := { w0 with skeins := (wr [(10, BitVec.ofNat 32 a)] fun _ => []).skeins };
      runs (.jmpr (ff z (.s 10) z 0)) s (env s) = true ∧ sPairVal s (env s).p (.s 10) = a ∧
        decide (InCode s (env s) (BitVec.ofNat 56 a)) = (a == 0x202) ∧ (env s).act ≠ 0) ∧
    (∀ m ∈ [0x80000009, 0x00098000], runs (.bra (braF g1 (BitVec.ofNat 32 m))) w0 (eg g1 w0) = true ∧
      (¬InCode w0 (eg g1 w0) (pcRel (eg g1 w0) 16 (fld m 31 16)) ∨ ¬InCode w0 (eg g1 w0) (pcRel (eg g1 w0) 16 (fld m 15 0)))) ∧
    (let s := atLast w0;
      ¬InCode s (env s) (nextPc (env s)) ∧ InCode s (env s) (pcRel (env s) 16 0xFFF0) ∧
      (∀ g ∈ [g1, bare], runs (.bra (braF g 0xFFF0FFF0)) s (eg g s) = true ∧ decide ((eg g s).act &&& ~~~(eg g s).exec ≠ 0) = (g == g1))) := by
  decide +kernel

/-- CALL and CALLI out of the window; CALLI of some at the window's end, to no multiple of 4, with no frame left, and with a full return stack. -/
theorem wit_Calls_traps :
    (runs (.call (ff z z z 0x1000000)) w0 (env w0) = true ∧ ¬InCode w0 (env w0) (pcRel (env w0) 32 0x1000000)) ∧
    (let s := wt fun l => if l = 3 then 0x4000000 else 0x40;
      runs (.calli (ff z (.v 4) z 0)) s (env s) = true ∧ ∃ x ∈ targets s (env s), ¬InCode s (env s) x.2) ∧
    (let s := atLast (wt fun _ => 0x40);
      runs (.calli { (ff z (.v 4) z 0) with g := g1 }) s (eg g1 s) = true ∧ (eg g1 s).act &&& ~~~(eg g1 s).exec ≠ 0 ∧ ¬InCode s (eg g1 s) (nextPc (eg g1 s)) ∧
      runs (.calli (ff z (.v 4) z 0)) s (env s) = true ∧ (env s).act &&& ~~~(env s).exec = 0) ∧
    (let s := wt fun l => if l = 3 then 0x42 else 0x40;
      runs (.calli (ff z (.v 4) z 0)) s (env s) = true ∧ (∀ x ∈ targets s (env s), InCode s (env s) x.2) ∧ (∃ x ∈ targets s (env s), x.2.toNat % 4 ≠ 0)) ∧
    (let s := { (wt fun l => BitVec.ofNat 32 (4 * l)) with plies := (wn 272).plies };
      runs (.calli (ff z (.v 4) z 0)) s (env s) = true ∧ frameFull (env s).p = true ∧ 1 < (groupByPc (targets s (env s))).length) ∧
    (∀ n ∈ [0, 272], let s := { w0 with plies := (wn n).plies, skeins := [(0, { skeinAt 0 with threads := (List.range 8).map fun i =>
        (i, { pc := 0, regs := [(4, Reg.write 0x40)], ra := [4, 8, 12, 16], rsn := 64 }) })] };
      runs (.calli (ff z (.v 4) z 0)) s (env s) = true ∧ (∀ x ∈ targets s (env s), InCode s (env s) x.2 ∧ x.2.toNat % 4 = 0) ∧
      (groupByPc (targets s (env s))).length = 1 ∧ pushFull (s.threadList (env s).p (env s).exec) ≠ []) := by decide +kernel

/-- REFORM where all 16 bobbins are of other PCs, so that its threads stay. -/
theorem wit_LanesLeave_full :
    (let s := { (wt fun _ => 0x40) with parts := [(0, { Part.reset with bobbins := (List.range 16).map fun i =>
        (i, { skein := 0, pc := BitVec.ofNat 56 (0x1000 + 4 * i), threads := [{ tid := 100 + i, clock := 0 }], rngseed := 0, rngctr := 0, fpx := 0 }) })] };
      runs (.reform (ff z (.v 4) z 0)) s (env s) = true ∧ reformStays (env s) (targets s (env s)) s = (env s).exec ∧ InCode s (env s) (nextPc (env s)) ∧
      Tbl.rising (s.part 0).bobbins = true ∧ s.plyQuiet 0 = true) ∧
    (let s := { (wt fun _ => 0x40) with parts := [(0, { Part.reset with bobbins := [(15, { skein := 0, pc := 0x40, threads := [{ tid := 100, clock := 0 }], rngseed := 0, rngctr := 0, fpx := 0 })] })] };
      runs (.reform (ff z (.v 4) z 0)) s (env s) = true ∧ reformStays (env s) (targets s (env s)) s = 0 ∧ Tbl.rising (s.part 0).bobbins = true) := by
  decide +kernel

/-- Arrivals with count 0, of one ply that is resident and of that one beside one that is saved; arrivals at `.pod` that do not complete a phase, that
do, and that come after it. -/
theorem wit_Barriers_counts :
    (∀ saved ∈ [[], [(5, { base := 0, dead := 0, skein := placedSkein, plies := [(1, { placedPly with uid := 1 })], bobbins := [], copies := [], segs := [], tiles := [] })]],
      let s := { (wbar PlyBar.launch none) with saved := saved };
      (s.barOf 0 placedPly .core).arrivals = 0 ∧ (s.skeins.get placedPly.skein).isSome = true ∧
      ((s.plies ++ s.saved.flatMap fun v => v.2.plies).filter fun x => sameInst .core (0, placedPly) x).length = 1 + saved.length) ∧
    (∀ b ∈ [{ bar1 with count := 3 }, bar1, { bar1 with pkgDone := true }],
      let s := { w0 with ctxs := [(0, { placedCtx with pkt := pkt, bars := [(barKey .pod 0, b)] })] };
      s.barOf 0 placedPly .pod = b) := by decide +kernel

/-- Registers of two lanes that are FAULTED with one record. -/
theorem wit_TrapEntry_faulted :
    (faultedTrap (w0.ctx 0) [(1, faulted), (2, faulted)]).isSome = true ∧ (∀ y ∈ [((1 : Mask), faulted), (2, faulted)], y.2.val.toNat = faulted.val.toNat) := by
  decide +kernel

/-- No entry of the write-combining buffer is in the way; a weak ST and a SPILL that wait for an older store of their thread to a byte. -/
theorem wit_AccessesComplete_waits :
    (w0.wcOf 0 = [] ∧ ∀ ls ∈ [[], [0x401]], w0.wcWaiting 0 0 (w0.ownLine ls) = false) ∧
    (let f := ff z (.s 6) (.s 2) 0x8800003C;
      let s := { w0 with nextOp := 9, reqs := [(3, { req1 .st (.special .zero) (part7 (.global 0x1007F) .wait) with ord := .weak, skein := 0, uid := 0 })] };
      runs (.st f) s (env s) = true ∧ mOrd f = .weak ∧ s.acquiring (env s).p 0 = false ∧ misaligned (env s) true 4 (laneGas s (env s) true f) = [] ∧
      ∃ q ∈ laneParts s (env s) (laneGas s (env s) true f) (mCount f * tyBytes (mTyD f)) (storeData s (env s) f) (fun _ => 0),
        q.place = .global 0x1007C ∧ s.blockedBy s.nextOp 0 0 q = true) ∧
    (let f := ff z (.v 1) z 0;
      let ps := slotParts w0 (env w0) f fun _ => 0;
      slotsPass w0 (env w0) f = false ∧ ∃ q ∈ ps, ∃ va ∈ [q.ga], q.place = .global va ∧
      (let s := { w0 with nextOp := 9, reqs := [(3, { req1 .st (.special .zero) { q with st := .wait } with ord := .weak, skein := 0, uid := 0 })] };
        runs (.spill f) s (env s) = true ∧ s.blockedBy s.nextOp 0 0 q = true)) := by decide +kernel

/-- An access of 128 bytes from the last byte of a line: its parts, of which the last starts at byte 65. -/
theorem wit_AccessTraps_parts :
    ((w0.mkParts 0 placedPly 0 0 0x1007F 128 0 0).map fun q => (q.k, q.ga, q.n)) = [(0, 0x1007F, 1), (1, 0x10080, 64), (65, 0x100C0, 63)] ∧
    ((w0.mkParts 0 placedPly 0 0 (2 ^ 56 - 4) 8 0 0).map fun q => (q.k, q.ga, q.n)) = [(0, 2 ^ 56 - 4, 4), (4, 0, 4)] := by decide +kernel

/-- The data of a ply that is saved and of one that is not; an atomic with no part under way. -/
theorem wit_DataArrives_away :
    (let s := { (wq (req1 .atom (.v 9) (part7 .bad (.ready [1, 2, 3, 4])))) with
        saved := [(5, { base := 0, dead := 0, skein := placedSkein, plies := [(0, placedPly)], bobbins := [], copies := [], segs := [], tiles := [] })] };
      s.uidAway 0 = true ∧ (s.thread 0 7).isSome = true) ∧
    (let s := wq (req1 .atom (.v 9) (part7 .bad (.ready [1, 2, 3, 4])));
      s.uidAway 0 = false ∧ ∀ x ∈ (req1 .atom (.v 9) (part7 .bad (.ready [1, 2, 3, 4]))).parts, x.inFlight = false) := by decide +kernel

/-- An update of the first line and of the last; a transit of UNSUBS that nothing is pending before. -/
theorem wit_Segments_updates : ∀ l ∈ [0, 63], ((wseg .s .o [.update l 1 1 7 0 [0]] [2]).seg 2).msgs = [.update l 1 1 7 0 [0]] := by decide +kernel

/-- The two dies joined, with room on the link, and a page of the other die. -/
def wlink : State :=
  { w0 with
    dl := [(0, placedPort), (1, { DlPort.reset with role := 1, st := 2, modok := [4, 5], ident := true, cap := true, cred := [9, 9, 9, 9, 9], caps := 64 }),
           (4, { DlPort.reset with role := 1, st := 2, modok := [4, 5], ident := true, cap := true, cred := [9, 9, 9, 9, 9], caps := 64 })]
    tlb := [(145, [{ asid := 0, page := 2 ^ 31, leaf := { leaf0 with fa := 2 ^ 40 } }])] }

/-- Dirty bytes of ply 0 in a line of the other die, whose frame the ASID owns. -/
def wback : State :=
  { wlink with hbm := [(0x1001, 0x80), (0x20003, 0x80), (0x2020001, 0x80)],
               l1 := [(2 ^ 41 + 1, { L1Line.empty with dirty := 0xF, valid := 0xF, data := 0x12345678, owners := [(0, 0xF)] })] }

/-- The write-back of such a line crosses the die link (R430, R432): a release waits for it, the home takes the bytes, and its acknowledgement
cleans them. -/
theorem test_write_back_crosses :
    (let t := (wback.release 0 .die).1;
     let m := (t.dlOut.map Prod.snd).headD { hdr := 0, slots := [] };
     let u := after (.wr (.b0 1) m) t;
     let a := (u.dlOut.map Prod.snd).headD { hdr := 0, slots := [] };
     let v := after (.ack (.b0 0) a) u;
     (wback.release 0 .die).2 = false ∧ dlOp m = 0x02 ∧ dlAddr m = 2 ^ 40 + 64 ∧ dlMask m = 0xF ∧ (t.dlTake 4 m).isSome = true ∧
     (t.dlReqs.get (dlTag m)).map DlReq.use = some (.back (2 ^ 41 + 1) 0 0x12345678 0xF) ∧
     (u.mc.get (2 ^ 41 + 1)).map (fun e => e.data) = some 0x12345678 ∧ dlOp a = 0x80 ∧
     (v.l1.get (2 ^ 41 + 1)).map (fun e => (e.dirty, e.valid)) = some (0, 0xF) ∧ (v.release 0 .die).2 = true) := by decide +kernel

/-- The line of the other die in its memory-side slice, and a weak load of four of its bytes by lane 7. -/
def wload (stale : Bool) : State :=
  let s := { wback with
    l1 := [], reqs := [(0, { (req1 .ld (.v 9) (part7 (.global (2 ^ 47 + 68)) .wait)) with ord := .weak })] }
  let t := ((s.home (s.whoUid 0 0 0) (2 ^ 41 + 1) .write).1.mcPut 0 (2 ^ 41 + 1) 0x1234567800000000 (~~~0#64)).dlIssueAll 0
  if stale then t.dlStale fun _ => true else t

/-- A weak load of such a line that misses the L1 crosses the die link (R430, R432): RD, RDATA, and the line fills the L1; where the L1 has changed it
meanwhile the load goes again. -/
theorem test_weak_load_crosses : ∀ stale ∈ [false, true],
    (let t := wload stale;
     let m := (t.dlOut.map Prod.snd).headD { hdr := 0, slots := [] };
     let u := after (.rd (.b0 1) m) t;
     let a := (u.dlOut.map Prod.snd).headD { hdr := 0, slots := [] };
     let v := after (.rdata (.b0 0) a) u;
     dlOp m = 0x01 ∧ dlAddr m = 2 ^ 40 + 64 ∧ dlStr m = false ∧ dlOp a = 0xC0 ∧ v.dlReqs = [] ∧
     (v.reqs.get 0).map (fun r => r.parts.map MPart.st) = some [if stale then .wait else .ready [0x78, 0x56, 0x34, 0x12]] ∧
     (v.l1.get (2 ^ 41 + 1)).map L1Line.valid = if stale then none else some (~~~0#64)) := by decide +kernel

/-- What the answer to a weak load meets: its line in the L1 changed since it was asked, or not. -/
theorem wit_DieLinkMessages_weak : ∀ stale ∈ [false, true],
    let u := after (.rd (.b0 1) (((wload stale).dlOut.map Prod.snd).headD { hdr := 0, slots := [] })) (wload stale);
    let a := (u.dlOut.map Prod.snd).headD { hdr := 0, slots := [] };
    let t := (u.dlTake 1 a).getD w0;
    (u.dlTake 1 a).isSome = true ∧ (t.dlReqs.get (dlTag a)).map DlReq.stale = some stale ∧ (t.reqs.get 0).map MReq.ord = some .weak ∧
    (t.dlFill a).reqs = t.reqs := by decide +kernel

/-- A write-back of the other die's line, and what such a line's WR meets at its home. -/
theorem wit_CoreBuffers_back :
    wback.l1Sending (2 ^ 41 + 1) = false ∧ (wback.l1Cross 0 0 (2 ^ 41 + 1) 0 0x12345678 0xF).isSome = true ∧
    (wback.homeWrite (wback.whoUid 0 0 0) (2 ^ 41 + 1) 0x12345678 0xF 1 true none).2 = .fin ∧
    (wback.release 0 .die).1.l1Sending (2 ^ 41 + 1) = true := by decide +kernel

/-- A probe of a line of the other die. -/
theorem wit_CoreBuffers_cross :
    (let s := { wlink with l1 := [(2 ^ 41 + 1, { L1Line.empty with probe := true, dirty := 0xF, valid := 0xF, owners := [(0, 0)] })] };
      s.dlLinked = true ∧ (s.probeCross (2 ^ 41 + 1)).isSome = true ∧ s.dlReqs = [] ∧ s.logged 0 (2 ^ 41 + 1) = false ∧ s.shutOut 0 (2 ^ 41 + 1) = false ∧
      (s.dlAsk (3 * coreDie 0 + 1) (fun tag => dlMake 0 0x04 0 0 tag 0 false []) (.probe (2 ^ 41 + 1))).isSome = true) := by decide +kernel

/-- Errors of the host for an atomic of two lanes at one location, and for a store and a RED. -/
theorem wit_Replies_host :
    ∀ k ∈ [ReqKind.atom, .st, .red], let s := wrem true k;
      let r := (s.reqs.get 3).getD (req1 k (.v 9) (part7 .bad .wait));
      (s.remote.get 7).map RReq.host = some true ∧ (∃ y ∈ r.parts, y.st = .sent 7) ∧ (∀ y ∈ r.parts, y.st = .sent 7 → y.ga = 0x40) ∧ r.kind = k ∧
      s.plyUid r.uid = some (0, placedPly) := by decide +kernel

/-- An open record that a barrier update and a copy's probe are held on, and one that only a probe is. -/
theorem wit_WalksRecordsLines_held :
    (let s := { (wq (req1 .ld (.v 9) (part7 (.global 0x10040) (.held 0 0)))) with
        slices := [(0, { recs := [rec0], log := [], next := 1, shut := [] })]
        probes := [(3, { pid := 0, uid := 0, skein := 0, slot := 0, asks := [], ph := .going [(0, 0), (1, 4)], what := .copy (copyNew cpyF (env wtid) .cpy .cpy) })] };
      (s.slice 0).recs.find? (fun r => r.rid == 0) = some rec0 ∧ (s.slice 0).log = [] ∧ s.probes.length = 1 ∧
      (s.probes.get 3).map Probe.ph = some (.going [(0, 0), (1, 4)]) ∧ (s.probes.any fun p => p.2.ph.on 0 0) = true) ∧
    (let s := wq (req1 .ld (.v 9) (part7 (.global 0x10040) (.held 0 0)));
      (∀ u ∈ s.tbq, u.held ≠ some (0, 0)) ∧ (∀ p ∈ s.probes, p.2.ph.on 0 0 = false)) := by decide +kernel

/-- An inbound access that no entry of the side log precedes. -/
theorem wit_InboundAccesses_log : (∀ op ∈ [PodOp.read 4, .strongWrite [1], .atomic false 0 .n32 [1, 2]],
    w0.podWaits { dev := 5, req := 1, ctxid := 0, off := 0x1007C, op := op } = false) := by decide +kernel

/-- Updates of a barrier that does not lie in the other die's scratchpad. -/
theorem wit_HomeUpdates_near :
    ∀ u ∈ [upd none 1, upd (some 7) 0], w0.tbCross u = none := by decide +kernel

/-- A tensor whose rows lie in global memory, and one whose rows lie in local store. -/
theorem wit_MatrixIssue_scope :
    (rowAsks (tent 0).toNat 0 0 false (ownedRows wtile (env wtile) fun _ => (0, 0))).any (fun a => a.ga / 2 ^ 48 % 256 = 0) = true ∧
    (rowAsks ((tent 0).toNat + 0x70 * 2 ^ 48) 0 0 false (ownedRows wtile (env wtile) fun _ => (0, 0))).any (fun a => a.ga / 2 ^ 48 % 256 = 0) = false ∧
    wtile.acquiring (env wtile).p 0 = false := by decide +kernel

/-- FABCFG that changes P23STD while a context is active and while none is; a packet to the last device and to one past it. -/
theorem wit_PortsAndSwitch_config :
    (let v : Word := BitVec.ofNat 32 (1 <<< 19 + 1 <<< 10 + 1);
      w0.serves = true ∧ v.getLsbD 19 ≠ w0.p23std ∧ w0.anyActive = true ∧ ({ w0 with ctxs := [] }).anyActive = false ∧ ({ w0 with ctxs := [] }).serves = true ∧
      1 ≤ fld v.toNat 17 10 ∧ fld v.toNat 17 10 ≤ 128 ∧ 1 ≤ fld v.toNat 9 0 ∧ fld v.toNat 9 0 ≤ 1000) ∧
    (∀ again ∈ [true, false], (if again then (port0 2).row + 1 else 0) < 8) ∧ (fpkt 8 0 4095 0).dst < 4096 := by decide +kernel

/-- Two REDUCEs of one TAG with different owners, and with one owner. -/
theorem wit_CollectiveEvents_reduce :
    ∀ p ∈ [0, 1], let s := wcall [cop 2 3 0 0 3 0 0 0x40 256, cop 2 3 0 p 3 0 0 0x40 256] (chst .idle []) [] [1];
      (callOf s).redClash 0 = decide (p = 1) ∧ s.callLive (callOf s) = true ∧ (∀ i, i < (callOf s).ops.length → s.signalling 3 i = false) := by decide +kernel

/-- A scale-out peer's read of a payload; a receive whose landing is done and whose last decrement is, or is not, still to be performed; a message that
was lost and is told of, first and again; a scale-out pull whose timeout has run out. -/
theorem wit_MessageEvents_more :
    (let o := send0 (tent 17) 8 .kept;
      let s := { (wmsg ep0) with sends := [(8, o)] };
      s.sends.get 8 = some o ∧ (s.runsRead (s.sendAgent o) (cutRuns 16 (rangeRuns o.ent o.off o.count))).2 = .ok (List.replicate 16 0)) ∧
    (let s := { (wmsg ep0) with recvs := [(3, recv0 (tent 17) .over)] };
      s.recvs.get 3 = some (recv0 (tent 17) .over) ∧ s.tbOwes 3 = false ∧ ({ s with tbq := [{ upd none 0 with sect := -1, eng := some (3, .net) }] }).tbOwes 3 = true) ∧
    (∀ c ∈ [none, some 0], let o := { send0 (tent 17) 8 .lost with clock := c };
      let s := { (wmsg ep0) with sends := [(3, o)] };
      s.sends.get 3 = some o ∧ s.endpoint o.key = some ep0 ∧ ep0.mem[o.dest]? = some 5) ∧
    (∀ c ∈ [0, 60000000], let s := { (wmsg ep0) with clock := 60000000, recvs := [(3, { recv0 (tent 17) .pull with org := .peer 7 1, clock := c })] };
      (s.recvs.get 3).map (fun r => (expired (some r.clock) s.tout s.clock, s.ownOrg r.org)) = some (c == 0, false)) := by decide +kernel

/-- A packet that comes during a checkpoint run, and one that comes behind accesses of the host that wait. -/
theorem wit_LaunchAndPlacement_waits :
    (let s := wctx Ctx.reset [];
      s.ckRunning = false ∧ s.posted = [] ∧ s.podEarly = [] ∧ ({ s with ck := { s.ck with st := 1, run := some { restore := false, layt := 0, poison := [], failed := false } } }).ckRunning = true ∧
      ({ s with posted := [.write 0 [1]] }).posted ≠ []) := by decide +kernel

/-- A partition of the context that has its slot of this clock to use, and none; GO that is 0 and 1. -/
theorem wit_SavesAndCheckpoints_order :
    (let s := { (wctx (ctxIn .running) []) with skeins := [(0, skeinAt 0)], plies := [(0, placedPly)] };
      s.slotDue 0 = some 0 ∧ (s.ctx 0).st = .running ∧ s.serves = true ∧ s.saveUsable 0 = true ∧ ({ s with issued := [(0, none)] }).slotDue 0 = none) ∧
    (wctx (ctxIn .running) []).slotDue 0 = none ∧ (wctx (ctxIn .saved) []).ckRunning = false ∧ (wctx (ctxIn .saved) []).posted = [] ∧
    (0 : DWord).getLsbD 0 = false ∧ (1 : DWord).getLsbD 0 = true ∧ (wctx Ctx.reset []).anyActive = false := by decide +kernel

/-- wdl with what transaction 7 serves. -/
def wuse (m : DlMsg) (use : Option DlUse) : State :=
  { (wdl m .ld) with
    dlReqs := match use with
      | some u => [(7, { port := 1, module := 4, addr := some 0x10040, clock := 0, use := u })]
      | none => [] }

/-- The same once the port has taken its message. -/
def tuse (m : DlMsg) (use : Option DlUse) : State := ((wuse m use).dlTake 1 m).getD w0

/-- A management partner; requests from elsewhere; requests of a load-store request, of a probe, of a barrier update and of an engine. -/
theorem wit_DieLinkMessages_uses :
    (wdl (dmsg 0 0x01 0x10040 0) .ld).dieMgmt (dpDie 1) = true ∧ (wdl (dmsg 0 0x01 0x10040 0) .ld).dlKey (dpKey (.b0 0)) = 1 ∧
    ((wdl (dmsg 0 0x01 0x10040 0) .ld).dlPort 1).st ≠ 5 ∧
    (∀ x ∈ [(0x01, 0), (0x02, 0), (0x03, 0x110), (0x04, 0)], let m := dmsg 0 x.1 0x10040 x.2;
      ((wuse m none).dlTake 1 m).isSome = true ∧ (tuse m none).dlGlobal m = none ∧ (tuse m none).onDie 0 0x10040 = true ∧
      (tuse m none).physOwner 0x10040 0 true = true ∧ (tuse m none).dlReqs.get (dlTag m) = none ∧ (tuse m none).dlRoom 1 m = true) ∧
    (∀ x ∈ [(0x01, 0), (0x02, 0), (0x03, 0x110)], let m := dmsg 0 x.1 0x10040 x.2;
      let t := tuse m (some (.part 0 0));
      ((t.dlGlobal m).map fun y => (y.1, y.2.1, y.2.2.2)) = some (0, 0, 0x10040) ∧ t.atBay (t.slotAsid 0) (0x10040 / 64) = false ∧ t.logFull (0x10040 / 64) = false ∧
      t.dlRoom 1 m = true ∧ (∀ k ∈ [AccKind.read, .write], resKind (t.home (t.whoReq (req1 .ld (.v 9) (part7 .bad .wait))) (0x10040 / 64) k).2 = 0) ∧
      (t.homeWrite (t.whoReq (req1 .ld (.v 9) (part7 .bad .wait))) (0x10040 / 64) (dlLine m) (dlMask m) 2 false (some (0, 0))).2 = .fin) ∧
    (let m := dmsg 0 0x04 0x10040 0;
      let t := tuse m (some (.probe 0x401));
      (t.dlReqs.get (dlTag m)).map DlReq.use = some (.probe 0x401) ∧ resKind (t.home (t.probeWho 0x401) (l1LineNo 0x401) .write).2 = 0) ∧
    (∀ u ∈ [none, some DlUse.update], let m := dmsg 0 0x06 sp0 0;
      ((tuse m u).dlReqs.get (dlTag m)).map DlReq.use = u ∧ (tuse m u).dlSeg 1 m = some (2, 0) ∧ (tuse m u).dlRoom 1 m = true) := by decide +kernel

/-- Operations and addresses that ATOM refuses: fadd on s32, and f32 at an address that is no multiple of 4. -/
theorem wit_DieLinkMessages_atom :
    (let m := dmsg 0 0x03 0x10040 0x11A;
      (tyOf (fld (dlArg m) 8 4)).isSome = true ∧ fld (dlArg m) 3 0 ∉ (List.range 10) ∧ ((tyOf (fld (dlArg m) 8 4)).map fun ty => decide (ty ∉ atomTys 10)) = some true) ∧
    (let m := dmsg 0 0x03 0x10042 0x110;
      ((tyOf (fld (dlArg m) 8 4)).map fun ty => decide (0x10042 % tyBytes ty ≠ 0)) = some true) := by decide +kernel

/-- Answers to a probe, to a barrier update, to an engine's bytes and to a step of a shootdown; a NACK that has the part go again and one that does not. -/
theorem wit_DieLinkMessages_answers :
    (∀ u ∈ [DlUse.update, .probe 0x401, .back 0x401 0 0 0xF, .bytes (w0.whoPly 0) sp0 [1] none], let m := dmsg 1 0x80 0 0;
      ((tuse m (some u)).dlReqs.get (dlTag m)).map DlReq.use = some u) ∧
    (let m := dmsg 1 0x83 0 1;
      let t := tuse m (some (.shoot 1));
      (t.dlReqs.get (dlTag m)).map DlReq.use = some (.shoot 1) ∧ fld (dlArg m) 2 0 = 1 ∧ t.shootAt = (1, [0]) ∧ 1 - dpDie 1 ∉ [0]) ∧
    (∀ c ∈ [1, 2, 8, 4, 7], let m := dmsg 1 0x81 0 c;
      let t := tuse m (some (.part 0 0));
      fld (dlArg m) 3 0 = c ∧ (t.dlReqs.get (dlTag m)).map DlReq.noted = some false ∧ dlAgain c = decide (c ∈ [1, 2, 8])) := by decide +kernel

/-- Weak and strong reads of a replica with a message to apply, of the core and from elsewhere, and of one without. -/
theorem wit_DieLinkMessages_replica :
    (∀ u ∈ [none, some (DlUse.part 0 0)], ∀ ms ∈ [[], [RepMsg.update 1 1 1 7 0 []]],
      let m := dlMake 0 0x05 0 sp0 7 0 false (lineSlots 0 (~~~0#64) 0);
      let s := { (wuse m u) with segs := [(2, wsegS ms)] };
      s.dlSeg 1 m = some (2, 0) ∧ s.dlCore m = u.map (fun _ => 0) ∧
      (u = some (.part 0 0) → s.replicaWaits 0 2 1 s.nextOp = !ms.isEmpty) ∧ s.dlWaits 1 m = !ms.isEmpty ∧ s.dlCopy 2 m = some 2) ∧
    (let m := dlMake 0 0x05 0 sp0 7 0 true (lineSlots 0 (~~~0#64) 0);
      let s := { (wuse m none) with segs := [(2, wsegS []), (3, wsegO)] };
      s.dlWaits 1 m = false ∧ s.dlCopy 2 m = some 3) := by decide +kernel

/-- IDENT in time and late, of version 1 and of another, on B0 and on B1, whose two ports it joins; CAP in time, and again. -/
theorem wit_DieLinkMessages_join :
    (∀ x ∈ [(1, some 0), (2, some 0)], let m := dmsg 4 0xF0 0 (x.1 <<< 20 + 1 <<< 16);
      let s := { (wdl m .ld) with clock := 5999999, dl := [(0, placedPort), (1, { (dport [m]) with role := 0, modok := [4, 5], asked := x.2, ident := false, cap := false }), (2, { (dport []) with role := 0, modok := [8, 9] })] };
      ((s.dlTake 1 m).getD w0 |>.dlPort 1).late 5999999 = false ∧ ((s.dlTake 1 m).getD w0 |>.dlPort 1).late 6000000 = true ∧ fld (dlArg m) 23 20 = x.1 ∧
      fld (dlArg m) 19 16 = 1 ∧ s.dlJoined 0 = false ∧ (s.dlTake 1 m).isSome = true) ∧
    (∀ c ∈ [true, false], let m := dmsg 4 0xF1 0 0;
      let s := { (wdl m .ld) with dl := [(0, placedPort), (1, { (dport [m]) with cap := c, asked := some 0 })] };
      ((s.dlTake 1 m).getD w0 |>.dlPort 1).cap = c ∧ ((s.dlTake 1 m).getD w0 |>.dlPort 1).late s.clock = false) := by decide +kernel

/-- A flit that acknowledges part of what was sent, with and without NAK. -/
theorem wit_DieLinkEvents_nak :
    (∀ n ∈ [0, 1], let h := fld ((flit 0 true).headD 0).toNat 127 0;
      (fld (h + n <<< 16) 16 16 = n ∧ seqUpTo 3 3 = true ∧ seqUpTo 4 3 = false)) ∧
    ((dport []).modok = [4, 5] ∧ (∀ j ∈ (dport []).modok, j ∈ dpModules 1) ∧ (dport []).st ≠ 5) ∧
    (let s := { w0 with clock := 5999999, dl := [(1, { DlPort.reset with asked := some 0 })] };
      (s.dlPort 1).asked = some 0 ∧ s.clock < 0 + 6000000) := by decide +kernel

/-- An access of the host that ends at the last byte of the window, and ones that wait behind a write; a CKCTL without GO. -/
theorem wit_HostAccesses_posted :
    (2 ^ 36 - 4 + 4 ≤ 2 ^ 36 ∧ w0.apVa (2 ^ 36 - 4) % 64 + 4 ≤ 64 ∧ w0.posted = [] ∧ ({ w0 with posted := [.write 0 [1]] }).posted ≠ []) ∧
    w0.ck.st < 4 ∧ (0 : DWord).getLsbD 0 = false ∧ w0.mgmt.stage ≠ 7 := by decide +kernel

/-- An image whose boot has begun, at the first stage and at the last before firmware. -/
theorem wit_PowerAndBoot_stages : ∀ n ∈ [0, 3],
    let img : FwImage := { len := 0, key := [], sig := [], body := [], version := 0 };
    let s := { State.reset with mgmt := { Mgmt.reset with stage := n, image := some img }, agenda := [.boot] };
    s.agenda = [.boot] ∧ s.mgmt.image = some img ∧ s.telPend = [] ∧ s.mgmt.stage < 4 ∧ s.mgmt.msixMask.contains 261 = false ∧ (n = 0 → bootOk img n = true) := by
  decide +kernel

end Sys2Proof.Tests
end

section
/-! The statements about taking a trap and returning from one (R104 to R108, R127, R128, R224, R227): first what `State.takeTrap`,
`State.stopCtx` and `State.returnTrap` leave, then when TRAP, BKPT and ERET do which of them. -/

namespace Sys2Proof.Machine

/-! ## A context that begins to stop -/

/-- A ply as a context that begins to save leaves it: the plies of that context stand still. -/
def State.haltPly (s : State) (slot : Nat) (p : Ply) : Ply :=
  if p.ctx = slot then { p with stopped := true, wait := stopWait p.wait, hold := none, ops := p.ops.filter fun o =>
    !((s.probes.filter fun x => x.2.slot == slot).map Prod.fst).contains o.id }
  else p

@[simp] theorem State.haltPly_ctx (s : State) (slot : Nat) (p : Ply) : (s.haltPly slot p).ctx = p.ctx := by
  unfold State.haltPly; split <;> rfl

@[simp] theorem State.haltPly_csr (s : State) (slot : Nat) (p : Ply) : (s.haltPly slot p).csr = p.csr := by
  unfold State.haltPly; split <;> rfl

theorem State.haltPly_stopped (s : State) {slot : Nat} {p : Ply} (h : p.ctx = slot) : (s.haltPly slot p).stopped = true := by
  rw [State.haltPly, if_pos h]

theorem State.ply?_stopCtx (s : State) (slot stopc k : Nat) :
    (s.stopCtx slot stopc).ply? k = (s.ply? k).map (s.haltPly slot) := Tbl.get_mapVals s.plies (fun _ => s.haltPly slot) k

/-- Every ply of the context stands still. -/
theorem State.stopped_of_stopCtx {s : State} {slot stopc k : Nat} {q : Ply} (hq : (s.stopCtx slot stopc).ply? k = some q)
    (h : q.ctx = slot) : q.stopped = true := by
  rw [State.ply?_stopCtx, Option.map_eq_some_iff] at hq
  obtain ⟨p, -, rfl⟩ := hq
  exact s.haltPly_stopped (by simpa using h)

theorem State.ctx_stopCtx_same (s : State) (slot stopc : Nat) : (s.stopCtx slot stopc).ctx slot =
    { s.ctx slot with st := .saving, stopc := stopc, left := pktCores (s.ctx slot), lay := [], quit := stopc != 0,
                      lose := !s.saveUsable slot } := by
  show ((Tbl.set s.ctxs slot _).get slot).getD Ctx.reset = _
  rw [Tbl.get_set_same]
  rfl

theorem SameMemory.stopCtx_setPly (s : State) (pid : Nat) (p : Ply) (slot stopc : Nat) :
    SameMemory s ((s.setPly pid p).stopCtx slot stopc) := ⟨fun _ => rfl, fun _ => rfl, rfl, rfl, rfl, rfl, rfl, rfl⟩

/-! ## Taking a trap -/

/-- The CSRs with a trap recorded in them (R106). -/
def State.trapCsr (s : State) (p : Ply) (tr : Trap) : Csrs :=
  { p.csr with trappc := tr.resume.getD (s.plyPc p), trapsrc := tr.src.getD (tr.resume.getD (s.plyPc p)), trapva := tr.vas,
               trapcode := tr.code, trapsub := tr.sub, trapmask := p.active }

/-- A ply that takes a trap, before it enters its handler or stops: the CSRs record the trap, and what it waited in is over. -/
def State.trapped (s : State) (p : Ply) (tr : Trap) : Ply :=
  { p with csr := s.trapCsr p tr, yld := false, starve := 0, hold := none, wait := none }

/-- A ply that takes a trap and enters its handler with the trapping lanes (R224). -/
def State.handling (s : State) (p : Ply) (tr : Trap) : Ply := { s.trapped p tr with hnd := some { lanes := tr.lanes, ents := [] } }

section
variable {s : State} {pid : Nat} {p : Ply} (tr : Trap)

/-- Outside a handler, in a context that names one, the trapping lanes go there. -/
theorem State.takeTrap_enters (hp : s.ply? pid = some p) (hn : p.hnd = none) (hh : pktHandler (s.ctx p.ctx) ≠ 0) :
    s.takeTrap pid tr =
      (s.setPly pid (s.handling p tr)).setPc (s.handling p tr) tr.lanes (BitVec.ofNat 56 (pktHandler (s.ctx p.ctx))) := by
  simp only [State.takeTrap, hp, hn, if_neg hh]
  simp only [State.handling, State.trapped, State.trapCsr, hn]

/-- Inside a handler, or without one, the context begins to stop (R108). -/
theorem State.takeTrap_stops (hp : s.ply? pid = some p) (h : p.hnd.isSome = true ∨ pktHandler (s.ctx p.ctx) = 0) :
    s.takeTrap pid tr = (s.setPly pid (s.trapped p tr)).stopCtx p.ctx (if p.hnd.isSome then 1 else 2) := by
  simp only [State.takeTrap, hp]
  cases hn : p.hnd with
  | some _ => simp only [State.trapped, State.trapCsr, hn]; rfl
  | none =>
    have hh : pktHandler (s.ctx p.ctx) = 0 := by simpa [hn] using h
    simp only [State.trapped, State.trapCsr, hn, hh]; rfl

/-- Every trap is recorded in the CSRs (R106, R108). -/
theorem State.takeTrap_records (hp : s.ply? pid = some p) : ∃ q, (s.takeTrap pid tr).ply? pid = some q ∧ q.csr = s.trapCsr p tr := by
  by_cases h : p.hnd.isSome = true ∨ pktHandler (s.ctx p.ctx) = 0
  · rw [State.takeTrap_stops tr hp h, State.ply?_stopCtx, State.ply?_setPly, if_pos rfl]
    exact ⟨_, rfl, State.haltPly_csr ..⟩
  · obtain ⟨hn, hh⟩ := not_or.mp h
    rw [State.takeTrap_enters tr hp (by simpa using hn) hh, State.ply?_setPc, State.ply?_setPly, if_pos rfl]
    exact ⟨_, rfl, rfl⟩

end

/-- The PC of a thread that no lane of a mask holds stays. -/
theorem State.thread_setPc_other (s : State) {p : Ply} {m : Mask} {sk tid : Nat} (pc : Addr)
    (h : ∀ l, sk = p.skein → (l, tid) ∉ p.threadsOf m) : (s.setPc p m pc).thread sk tid = s.thread sk tid := by
  have hno : ¬(sk = p.skein ∧ ((p.threadsOf m).map Prod.snd).contains tid = true) := by
    rintro ⟨hk, hc⟩
    obtain ⟨⟨l, _⟩, hx, rfl⟩ := List.mem_map.mp (List.contains_iff_mem.mp hc)
    exact h l hk hx
  rw [State.thread_setPc]
  simp only [if_neg hno, Option.map_id']

/-- Replacing a ply by one with its s registers keeps those of every ply. -/
theorem SameS.setPly {s : State} {pid : Nat} {p q : Ply} (hp : s.ply? pid = some p) (hk : q.skein = p.skein) (hr : q.sregs = p.sregs) :
    SameS s (s.setPly pid q) := by
  refine fun i n => sRegOf_congr (s := s) (t := s.setPly pid q) ?_ (fun _ => rfl) n
  rw [State.ply?_setPly]
  split
  · next h => subst h; simp [hp, hk, hr]
  · rfl

/-- Entering a handler changes the ply, where its trapping lanes stand, and nothing else (R224). -/
theorem State.takeTrap_enters_frame {s : State} {pid : Nat} {p : Ply} (tr : Trap) (hp : s.ply? pid = some p) (hn : p.hnd = none)
    (hh : pktHandler (s.ctx p.ctx) ≠ 0) :
    OnlyPlies s (s.takeTrap pid tr) ∧ OtherPlies pid s (s.takeTrap pid tr) ∧ SameV s (s.takeTrap pid tr) ∧ SameS s (s.takeTrap pid tr) ∧
      SameStacks s (s.takeTrap pid tr) := by
  rw [State.takeTrap_enters tr hp hn hh]
  have move := Retires.setPc (pid := pid) (s.setPly pid (s.handling p tr)) (s.handling p tr) tr.lanes
    (BitVec.ofNat 56 (pktHandler (s.ctx p.ctx)))
  refine ⟨.of_eq rfl, fun i hi => ?_, fun sk tid n => move.vReg sk tid n, fun i n => ?_, fun sk tid => move.stacks sk tid⟩
  · rw [State.ply?_setPc, State.ply?_setPly, if_neg hi]
  · exact (move.sRegOf i n).trans (SameS.setPly (q := s.handling p tr) hp rfl rfl i n)

/-- The active lanes of a ply that has entered its handler are its live trapping lanes. -/
theorem State.handling_active (s : State) (p : Ply) (tr : Trap) : (s.handling p tr).active = tr.lanes &&& p.live := rfl

/-- Entering a handler keeps what a ply keeps over an instruction, with the trap in its CSRs. -/
theorem State.handling_keeps (s : State) (p : Ply) (tr : Trap) : KeepsPly { p with csr := s.trapCsr p tr } (s.handling p tr) :=
  ⟨rfl, rfl, rfl, rfl, rfl, rfl, rfl, rfl, rfl, rfl, rfl, rfl, rfl⟩

/-- The trap of registers that are FAULTED with one record takes TRAPSUB and TRAPSRC from it (R31, R106). -/
theorem faultedTrap_of_record {c : Ctx} {fs : List (Mask × Reg)} {v : Nat} {x : Trap} (h : faultedTrap c fs = some x)
    (hv : ∀ y ∈ fs, y.2.val.toNat = v) : x.sub = v % 256 ∧ x.src = some (BitVec.ofNat 56 (codeBase c + 4 * (v / 256))) := by
  cases fs with
  | nil => simp [faultedTrap] at h
  | cons y ys =>
    rw [faultedTrap, Option.some.injEq] at h
    subst h
    simp [hv y (by simp)]

/-- Settles O22: a trap either enters the handler or begins to stop the context, and records itself in both. -/
theorem trapEntry : Obligations.TrapEntry := by
  unfold Obligations.TrapEntry
  rintro s _ pid p tr _ hp rfl rfl
  refine ⟨State.takeTrap_records tr hp, fun _ _ _ => faultedTrap_of_record, fun hn hh => ?_, fun h => ?_⟩
  · have eq := State.takeTrap_enters tr hp hn hh
    refine ⟨s.handling p tr, ?_, s.handling_keeps p tr, rfl, rfl, s.handling_active p tr, rfl, ?_, fun sk tid h => ?_,
      State.takeTrap_enters_frame tr hp hn hh⟩
    · rw [eq, State.ply?_setPc, State.ply?_setPly, if_pos rfl]
    · rw [eq]
      exact setPc_standAt (s.setPly pid (s.handling p tr)) (s.handling p tr) tr.lanes _
    · rw [eq]
      exact State.thread_setPc_other (p := s.handling p tr) _ _ h
  · rw [State.takeTrap_stops tr hp h, State.ctx_stopCtx_same]
    exact ⟨rfl, rfl, .stopCtx_setPly .., fun _ _ => State.stopped_of_stopCtx⟩

/-! ## TRAP and BKPT -/

/-- An instruction that executes was issued by the ply that its `Env` names. -/
theorem ExecutesFrom.ply {sp : Spec} {early : Env → State → Pre} {s u : State} {e : Env} (h : ExecutesFrom sp early s u e) :
    s.ply? e.pid = some e.p := by
  obtain ⟨⟨-, hp, -⟩, -⟩ := h
  exact hp

/-- TRAP and BKPT, once they execute, do nothing but trap, to resume at the next instruction (R107). -/
theorem issue_trapBody {fm : Form} {f : Full} {s : State} {e : Env} (code : Nat) (h : Executes (fullSpec s fm none true f) noEarly s e) :
    issueFull fm none (whenExec (trapBody code)) f s =
      .next (s.takeTrap e.pid { Trap.plain code 0 e.exec with resume := some (e.pc + 12) }) := by
  have effect := issue_executes (whenExec (trapBody code)) h
  obtain ⟨-, -, -, someLane, -⟩ := h
  rwa [whenExec, if_neg someLane] at effect

/-- What the CSRs hold after TRAP and BKPT. -/
theorem takeTrap_resume_csrs {s : State} {e : Env} (code : Nat) (hp : s.ply? e.pid = some e.p) :
    ∃ q, (s.takeTrap e.pid { Trap.plain code 0 e.exec with resume := some (e.pc + 12) }).ply? e.pid = some q ∧
      q.csr.trapcode = code ∧ q.csr.trapsub = 0 ∧ q.csr.trappc = e.pc + 12 := by
  obtain ⟨q, hq, hc⟩ := State.takeTrap_records { Trap.plain code 0 e.exec with resume := some (e.pc + 12) } hp
  exact ⟨q, hq, by rw [hc]; exact ⟨rfl, rfl, rfl⟩⟩

/-- TRAP and BKPT trap with their code, and the CSRs say so. -/
theorem traps_of_exec_eq {i : Instr} {fm : Form} {f : Full} {s : State} {e : Env} {code : Nat}
    (hi : exec i s = issueFull fm none (whenExec (trapBody code)) f s) (h : Executes (fullSpec s fm none true f) noEarly s e) :
    Traps i e s s { Trap.plain code 0 e.exec with resume := some (e.pc + 12) } ∧
      ∃ t q, exec i s = .next t ∧ t.ply? e.pid = some q ∧ q.csr.trapcode = code ∧ q.csr.trapsub = 0 ∧ q.csr.trappc = e.pc + 12 := by
  have traps := hi.trans (issue_trapBody code h)
  obtain ⟨q, hq⟩ := takeTrap_resume_csrs code (ExecutesFrom.ply h)
  exact ⟨traps, _, q, traps, hq⟩

/-! ## Unused fields (R35, R62) -/

theorem need8_of_false {c : Bool} (h : c = false) : 8 ∈ need8 c := by simp [need8, h]

/-- The bits of a word from bit k up, moved down to bit 0. -/
theorem shiftRight_highBits {k : Nat} (hk : k < 32) : (0xFFFFFFFF - (2 ^ k - 1)) >>> k = 2 ^ (32 - k) - 1 := by
  have split : 2 ^ (32 - k) * 2 ^ k = 2 ^ 32 := by rw [← Nat.pow_add, Nat.sub_add_cancel (by omega)]
  have pos : 0 < 2 ^ k := Nat.two_pow_pos k
  have shifted : 0xFFFFFFFF - (2 ^ k - 1) = (2 ^ (32 - k) - 1) * 2 ^ k := by rw [Nat.sub_mul, split]; omega
  rw [shifted, Nat.shiftRight_eq_div_pow, Nat.mul_div_cancel _ pos]

/-- A form that uses the low k bits of M refuses an M with a bit above them. -/
theorem eight_mem_onlyBits {f : Full} {k : Nat} (hk : k < 32) (h : fld f.m.toNat 31 k ≠ 0) : 8 ∈ onlyBits f (2 ^ k - 1) := by
  refine need8_of_false (beq_eq_false_iff_ne.mpr fun h0 => h ?_)
  calc fld f.m.toNat 31 k = f.m.toNat >>> k &&& (0xFFFFFFFF - (2 ^ k - 1)) >>> k := by
        rw [shiftRight_highBits hk, Nat.and_two_pow_sub_one_eq_mod]; rfl
    _ = 0 := by rw [← Nat.shiftRight_and_distrib, h0, Nat.zero_shiftRight]

/-- An operand position that a form does not use refuses all but 0. -/
theorem eight_mem_slotCauses_none {alloc W : Nat} {o : Operand} {mode : Bool} (h : o ≠ .v 0) : 8 ∈ slotCauses alloc W none o mode := by
  simp [slotCauses, h]

/-- The causes of a form without operands: a stray bit of M, and a stray operand. -/
theorem eight_mem_formCauses_formM {alloc W k : Nat} {f : Full} (hk : k < 32)
    (h : fld f.m.toNat 31 k ≠ 0 ∨ f.d ≠ .v 0 ∨ f.a ≠ .v 0 ∨ f.b ≠ .v 0) : 8 ∈ formCauses alloc W (formM (2 ^ k - 1) f) f := by
  simp only [formCauses, formM, List.mem_append]
  rcases h with h | h | h | h
  · simp [eight_mem_onlyBits hk h]
  · simp [eight_mem_slotCauses_none h]
  · simp [eight_mem_slotCauses_none h]
  · simp [eight_mem_slotCauses_none h]

theorem fld_word_ne_zero {m : Word} (h : m ≠ 0) : fld m.toNat 31 0 ≠ 0 := by
  intro h0
  rw [fld, Nat.shiftRight_zero, Nat.mod_eq_of_lt m.isLt] at h0
  exact h (BitVec.eq_of_toNat_eq h0)

/-! ## ERET -/

section
variable {s : State} {pid : Nat} {p : Ply}

theorem State.returnTrap_eq (hp : s.ply? pid = some p) : s.returnTrap pid =
    (s.setPly pid { p with hnd := none }).setPc { p with hnd := none } (p.csr.trapmask &&& p.live) p.csr.trappc := by
  simp only [State.returnTrap, hp]

theorem State.ply?_returnTrap_same (hp : s.ply? pid = some p) : (s.returnTrap pid).ply? pid = some { p with hnd := none } := by
  rw [State.returnTrap_eq hp, State.ply?_setPc, State.ply?_setPly, if_pos rfl]

/-- The held lanes that have not left stand at TRAPPC (R227). -/
theorem State.returnTrap_standAt (hp : s.ply? pid = some p) : StandAt p (p.csr.trapmask &&& p.live) p.csr.trappc (s.returnTrap pid) := by
  rw [State.returnTrap_eq hp]
  exact setPc_standAt _ { p with hnd := none } _ _

end

/-- A transfer that retires, with no handler running, leaves every lane where it was put. -/
theorem moves_of_exec_eq {i : Instr} {e : Env} {sp : Spec} {s u : State} (h : exec i s = .next (finish e sp (.moved u))) : Moves i e s u :=
  ⟨_, h, finish_moved e sp u, fun p hp hn => retire_keeps_pcs _ _ _ fun q hq => by rw [hp] at hq; cases hq; exact hn⟩

section
variable {f : Full} {s : State} {e : Env}

/-- ERET, once it executes, has its effect. -/
theorem exec_eret (h : Executing (.eret f) s e) :
    exec (.eret f) s = .next (finish e (fullSpec s (formRet f) none false f) (eretBody e s)) :=
  issue_executes (sp := fullSpec s (formRet f) none false f) eretBody h

/-- To an address of code, ERET closes the handler (R227). -/
theorem eretBody_returns (hw : InCode s e e.p.csr.trappc) (ha : e.p.csr.trappc.toNat % 4 = 0) :
    eretBody e s = .moved (s.returnTrap e.pid) := by
  simp [eretBody, hw, ha]

/-- To an address outside the code window, ERET is refused. -/
theorem eretBody_outside (hw : ¬InCode s e e.p.csr.trappc) : eretBody e s = .trap s (Trap.plain 0x100 1 e.act) := by
  simp [eretBody, hw]

/-- To an address in the code window that is no multiple of 4, ERET traps as MISALIGN in the active lanes. -/
theorem eretBody_misaligned (hw : InCode s e e.p.csr.trappc) (ha : e.p.csr.trappc.toNat % 4 ≠ 0) :
    ∃ tr, tr.code = 0x104 ∧ tr.lanes = maskOf (lanesOf e.act) ∧ eretBody e s = .trap s tr := by
  simp only [eretBody, hw, ha, Bool.not_true, Bool.false_eq_true, ne_eq, not_false_iff, if_true, if_false]
  exact ⟨_, rfl, by simp [Trap.plain, Function.comp_def], rfl⟩

end

/-- Settles O23: TRAP and BKPT issue one trap, of any form without operands a stray field is refused, and ERET has three ends. -/
theorem trapsAndReturn : Obligations.TrapsAndReturn := by
  unfold Obligations.TrapsAndReturn
  refine ⟨fun f s e => ⟨?_, ?_⟩, fun f s e h => ⟨fun hw ha => ?_, fun hw => ?_, fun hw ha => ?_⟩⟩
  · rintro i code (⟨rfl, rfl⟩ | ⟨rfl, rfl⟩) h
    · exact traps_of_exec_eq (fm := formTrap f) rfl h
    · exact traps_of_exec_eq (fm := formBare f) rfl h
  · rintro i sp early hpipe stray
    have ofTrap (h : fld f.m.toNat 31 8 ≠ 0 ∨ f.d ≠ .v 0 ∨ f.a ≠ .v 0 ∨ f.b ≠ .v 0) (hi : i = .trap f) : 8 ∈ sp.causes := by
      subst hi; cases hpipe; exact eight_mem_formCauses_formM (k := 8) (by decide) h
    have ofBkpt (h : fld f.m.toNat 31 0 ≠ 0 ∨ f.d ≠ .v 0 ∨ f.a ≠ .v 0 ∨ f.b ≠ .v 0) (hi : i = .bkpt f) : 8 ∈ sp.causes := by
      subst hi; cases hpipe; exact eight_mem_formCauses_formM (k := 0) (by decide) h
    rcases stray with ⟨hi, hm⟩ | ⟨hi, hm⟩ | ⟨hi | hi, ho⟩
    · exact ofTrap (.inl hm) hi
    · exact ofBkpt (.inl (fld_word_ne_zero hm)) hi
    · exact ofTrap (.inr ho) hi
    · exact ofBkpt (.inr ho) hi
  · have hp : s.ply? e.pid = some e.p := ExecutesFrom.ply (sp := fullSpec s (formRet f) none false f) h
    refine ⟨moves_of_exec_eq (sp := fullSpec s (formRet f) none false f) ?_, State.ply?_returnTrap_same hp,
      State.returnTrap_standAt hp, .returnTrap ..⟩
    rw [exec_eret h, eretBody_returns hw ha]
  · rw [Traps, exec_eret h, eretBody_outside hw]
    rfl
  · obtain ⟨tr, hcode, hlanes, htrap⟩ := eretBody_misaligned hw ha
    exact ⟨tr, hcode, hlanes, by rw [Traps, exec_eret h, htrap]; rfl⟩

end Sys2Proof.Machine
end

section
/-! The statement about accesses that trap at issue and about the parts of one that does not (R180, R187, R192): first how an access is split at
lines, then when each body of the load-store unit traps. -/

namespace Sys2Proof.Machine

/-! ## Accesses split at lines (R180) -/

/-- The pieces of a split: the bytes up to the next line boundary, and the pieces of what lies past it. -/
theorem mem_splitLines_succ {fuel a n : Nat} {x : Nat × Nat × Nat} :
    x ∈ splitLines (fuel + 1) a n ↔ n ≠ 0 ∧ (x = (a / 64, a % 64, min n (64 - a % 64)) ∨
      64 - a % 64 < n ∧ x ∈ splitLines fuel (a + (64 - a % 64)) (n - (64 - a % 64))) := by
  rw [splitLines]
  split
  · next h => simp [h]
  split
  · next h0 h => simp [h0, h, Nat.not_lt.mpr h]
  · next h0 h => simp [h0, Nat.not_le.mp h, Nat.min_eq_right (Nat.le_of_not_le h)]

/-- A piece starts no earlier than the access and lies within its line. -/
theorem splitLines_within {fuel a n : Nat} {x : Nat × Nat × Nat} (h : x ∈ splitLines fuel a n) :
    a ≤ x.1 * 64 + x.2.1 ∧ x.2.1 < 64 ∧ x.2.1 + x.2.2 ≤ 64 := by
  induction fuel generalizing a n with
  | zero => cases h
  | succ fuel ih =>
    obtain ⟨-, rfl | ⟨-, later⟩⟩ := mem_splitLines_succ.mp h
    · dsimp only; omega
    · obtain ⟨start, low, room⟩ := ih later
      exact ⟨by omega, low, room⟩

/-- With fuel for every line that an access touches, its pieces cover its bytes. -/
theorem splitLines_covers {fuel a n k : Nat} (enough : a % 64 + n ≤ 64 * fuel) (hk : k < n) :
    ∃ x ∈ splitLines fuel a n, x.1 * 64 + x.2.1 ≤ a + k ∧ a + k < x.1 * 64 + x.2.1 + x.2.2 := by
  induction fuel generalizing a n k with
  | zero => omega
  | succ fuel ih =>
    have some_byte : n ≠ 0 := by omega
    by_cases inFirst : k < 64 - a % 64
    · exact ⟨_, mem_splitLines_succ.mpr ⟨some_byte, .inl rfl⟩, by dsimp only; omega, by dsimp only; omega⟩
    · obtain ⟨x, later, lo, hi⟩ := ih (a := a + (64 - a % 64)) (n := n - (64 - a % 64)) (k := k - (64 - a % 64)) (by omega) (by omega)
      exact ⟨x, mem_splitLines_succ.mpr ⟨some_byte, .inr ⟨by omega, later⟩⟩, by omega, by omega⟩

/-- The pieces of an access cover its bytes. -/
theorem pieces_cover {a n k : Nat} (hk : k < n) :
    ∃ x ∈ pieces a n, x.1 * 64 + x.2.1 ≤ a + k ∧ a + k < x.1 * 64 + x.2.1 + x.2.2 :=
  splitLines_covers (by omega) hk

section
variable {s : State} {pid lane tid ga n data data2 : Nat} {p : Ply}

/-- Each part of an access lies within a line, at its own place, as many bytes on as it says. -/
theorem State.mkParts_within {q : MPart} (hga : ga < 2 ^ 56) (hq : q ∈ s.mkParts pid p lane tid ga n data data2) :
    q.ga % 64 + q.n ≤ 64 ∧ q.place = s.placeOf pid p q.ga ∧ q.ga = (ga + q.k) % 2 ^ 56 := by
  rw [State.mkParts, Nat.mod_eq_of_lt hga] at hq
  obtain ⟨x, hx, rfl⟩ := List.mem_map.mp hq
  obtain ⟨start, low, room⟩ := splitLines_within hx
  exact ⟨by dsimp only; omega, rfl, by dsimp only; rw [Nat.add_sub_cancel' start]⟩

/-- The parts of an access cover its bytes. -/
theorem State.mkParts_cover {k : Nat} (hga : ga < 2 ^ 56) (hk : k < n) :
    ∃ q ∈ s.mkParts pid p lane tid ga n data data2, q.k ≤ k ∧ k < q.k + q.n := by
  rw [State.mkParts, Nat.mod_eq_of_lt hga]
  obtain ⟨x, hx, lo, hi⟩ := pieces_cover (a := ga) hk
  have start : ga ≤ x.1 * 64 + x.2.1 := (splitLines_within hx).1
  exact ⟨_, List.mem_map_of_mem hx, by dsimp only; omega, by dsimp only; omega⟩

end

/-! ## Bodies that trap -/

section
variable {f : Full} {e : Env} {s : State}

variable {mis : List (Nat × Nat)}

/-- LD checks its addresses first: a weak one's for their elements, a strong one's for the whole access. -/
theorem ldBody_misaligned (hm : mis = misaligned e (isS f.d) (if mOrd f == .weak then tyBytes (mTyD f) else mCount f * tyBytes (mTyD f))
    (laneGas s e (isS f.d) f)) (bad : mis ≠ []) : ldBody f e s = trapLanes 0x104 0 mis s := by
  subst hm
  exact if_pos (by simpa [laneGas] using bad)

/-- ST checks its addresses first, as LD does. -/
theorem stBody_misaligned (hm : mis = misaligned e (isS f.b) (if mOrd f == .weak then tyBytes (mTyD f) else mCount f * tyBytes (mTyD f))
    (laneGas s e (isS f.b) f)) (bad : mis ≠ []) : stBody f e s = trapLanes 0x104 0 mis s := by
  subst hm
  exact if_pos (by simpa [laneGas] using bad)

/-- Every atomic checks its addresses first; a RED is scalar where its data is, another where its destination is. -/
theorem atomBody_misaligned {kind : ReqKind} {scalar : Bool} (cas : Bool) (hs : (if kind == .red then isS f.b else isS f.d) = scalar)
    (hm : mis = misaligned e scalar (tyBytes (mTyD f)) (laneGas s e scalar f)) (bad : mis ≠ []) :
    atomBody kind cas f e s = trapLanes 0x104 0 mis s := by
  subst hs hm
  exact if_pos (by simpa [laneGas] using bad)

/-- A vector ATOM or ATOMCAS whose addresses are aligned then checks that none lies in the other die's local store. -/
theorem atomBody_otherDie (cas : Bool) (hd : isS f.d = false) (aligned : misaligned e false (tyBytes (mTyD f)) (laneGas s e false f) = [])
    (far : otherDie e (laneGas s e false f) ≠ []) :
    atomBody .atom cas f e s = trapLanes 0x106 0 (otherDie e (laneGas s e false f)) s := by
  have scalar : (if ReqKind.atom == .red then isS f.b else isS f.d) = false := hd
  rw [laneGas] at aligned far ⊢
  simp only [atomBody, scalar, aligned, List.isEmpty_nil, Bool.not_true, Bool.false_eq_true, if_false]
  exact if_pos (by simpa using far)

/-- SPILL checks its slots first. -/
theorem spillBody_slotsPass (h : slotsPass s e f = true) : spillBody f e s = trapExec e 0x107 0 s := if_pos h

/-- FILL checks its slots first. -/
theorem fillBody_slotsPass (h : slotsPass s e f = true) : fillBody f e s = trapExec e 0x107 0 s := if_pos h

end

/-! ## Instructions that trap -/

section
variable {i : Instr} {sp : Spec} {body : Env → State → Res} {s u : State} {e : Env}

/-- An instruction that executes traps where its body does. -/
theorem traps_of_body {tr : Trap} (hi : exec i s = issue sp noEarly (whenExec body) s) (h : Executes sp noEarly s e)
    (hb : body e s = .trap u tr) : Traps i e s u tr := by
  have effect := issue_executes (whenExec body) h
  obtain ⟨-, -, -, someLane, -⟩ := h
  rw [whenExec, if_neg someLane, hb] at effect
  exact hi.trans effect

/-- A body that traps in some lanes with their addresses makes its instruction trap so. -/
theorem traps_of_trapLanes {code sub : Nat} {xs : List (Nat × Nat)} (hi : exec i s = issue sp noEarly (whenExec body) s)
    (h : Executes sp noEarly s e) (hb : body e s = trapLanes code sub xs s) :
    ∃ tr, tr.code = code ∧ tr.sub = sub ∧ tr.lanes = maskOf (xs.map Prod.fst) ∧ tr.vas = xs.map (fun x => (x.1, BitVec.ofNat 56 x.2)) ∧
      Traps i e s s tr :=
  ⟨_, rfl, rfl, rfl, rfl, traps_of_body hi h hb⟩

end

/-- Settles O27: each body's first checks trap with nothing done, and the parts of an access are the pieces between line boundaries. -/
theorem accessTraps : Obligations.AccessTraps := by
  unfold Obligations.AccessTraps
  intro f s e gas mis i h
  refine ⟨fun access bad => ?_, fun atomic aligned far => ?_, fun slots pass => ?_, fun lane tid ga n data data2 hga =>
    ⟨fun q hq => State.mkParts_within hga hq, fun k hk => State.mkParts_cover hga hk⟩⟩
  · rcases access with ⟨rfl, rfl, hm⟩ | ⟨rfl, rfl, hm⟩ | ⟨rfl | rfl, rfl, hm⟩ | ⟨rfl, rfl, hm⟩
    · exact traps_of_trapLanes rfl h (ldBody_misaligned hm bad)
    · exact traps_of_trapLanes rfl h (stBody_misaligned hm bad)
    · exact traps_of_trapLanes rfl h (atomBody_misaligned false rfl hm bad)
    · exact traps_of_trapLanes rfl h (atomBody_misaligned true rfl hm bad)
    · exact traps_of_trapLanes rfl h (atomBody_misaligned false rfl hm bad)
  · obtain ⟨rfl | rfl, scalar, rfl⟩ := atomic
    · obtain ⟨tr, hcode, -, rest⟩ := traps_of_trapLanes (i := .atom f) rfl h (atomBody_otherDie false scalar aligned far)
      exact ⟨tr, hcode, rest⟩
    · obtain ⟨tr, hcode, -, rest⟩ := traps_of_trapLanes (i := .atomcas f) rfl h (atomBody_otherDie true scalar aligned far)
      exact ⟨tr, hcode, rest⟩
  · rcases slots with rfl | rfl
    · exact traps_of_body rfl h (spillBody_slotsPass pass)
    · exact traps_of_body rfl h (fillBody_slotsPass pass)

end Sys2Proof.Machine
end

section
/-! What an access to memory and a release leave of the plies: which skein each is in and what handler it runs (R171 to R175, R202, R334). -/

namespace Sys2Proof.Machine

/-! ## Functions of the memory side that leave every ply as it is -/

@[simp] theorem State.note_plies (s : State) (e : TelEv) : (s.note e).plies = s.plies := rfl
@[simp] theorem State.hbmWrite_plies (s : State) (pl nl : Nat) (x : Line) : (s.hbmWrite pl nl x).plies = s.plies := rfl
@[simp] theorem State.hbmPoison_plies (s : State) (pl : Nat) : (s.hbmPoison pl).plies = s.plies := by
  simp only [State.hbmPoison]

@[simp] theorem State.hbmSettle_plies (s : State) (pl nl : Nat) (x : Option Line) (e : TelEv) : (s.hbmSettle pl nl x e).plies = s.plies := by
  cases x <;> simp only [State.hbmSettle] <;> split <;> simp

@[simp] theorem State.hbmRead_plies (s : State) (pl nl : Nat) (e : TelEv) : (s.hbmRead pl nl e).1.plies = s.plies := by
  simp only [State.hbmRead]
  split
  · rfl
  split
  · rfl
  split
  · simp
  split
  · split <;> simp
  · simp

@[simp] theorem State.tlbEnter_plies (s : State) (asid va : Nat) (l : Leaf) (u : Nat × Nat) : (s.tlbEnter asid va l u).plies = s.plies := by
  simp only [State.tlbEnter, State.drawFree]
  split <;> simp

@[simp] theorem State.tlbPut_plies (s : State) (asid va : Nat) (l : Leaf) : (s.tlbPut asid va l).plies = s.plies :=
  List.foldlRecOn (motive := fun t : State => t.plies = s.plies) _ _ rfl fun t h u _ => by rw [State.tlbEnter_plies, h]

@[simp] theorem State.xlateWalk_plies (s : State) (asid va : Nat) (k : AccKind) (inb : Bool) : (s.xlateWalk asid va k inb).1.plies = s.plies := by
  unfold State.xlateWalk
  split <;> simp

@[simp] theorem State.xlate_plies (s : State) (asid va : Nat) (k : AccKind) (inb : Bool) : (s.xlate asid va k inb).1.plies = s.plies := by
  unfold State.xlate
  split
  · exact s.xlateWalk_plies ..
  · split
    · rfl
    · exact s.xlateWalk_plies ..

@[simp] theorem State.mcCheck_plies (s : State) (key : Nat) (e : McLine) (ev : TelEv) : (s.mcCheck key e ev).1.plies = s.plies := by
  cases h : e.chk <;> simp [State.mcCheck, h]

@[simp] theorem State.record_plies (s : State) (w : Who) (va cause kind : Nat) (serv : Bool) : (s.record w va cause kind serv).1.plies = s.plies := by
  simp only [State.record]
  split <;> simp

@[simp] theorem State.mcBack_plies (s : State) (k : Nat) (e : McLine) : (s.mcBack k e).plies = s.plies := by
  simp only [State.mcBack]
  split
  · rfl
  split
  · simp
  split <;> simp

@[simp] theorem State.mcRoom_plies (s : State) (line : Nat) : (s.mcRoom line).plies = s.plies := by
  simp only [State.mcRoom, State.drawFree]
  split
  · rfl
  split <;> simp

@[simp] theorem State.mcFill_plies (s : State) (w : Who) (line : Nat) (l : Leaf) : (s.mcFill w line l).1.plies = s.plies := by
  simp [State.mcFill]

/-- Reaching a line at its home changes no ply (R174, R175). -/
@[simp] theorem State.home_plies (s : State) (w : Who) (line : Nat) (k : AccKind) : (s.home w line k).1.plies = s.plies := by
  simp only [State.home]
  have translated := s.xlate_plies w.asid (line * 64) k w.inb
  split
  · split <;> simp
  · generalize s.xlate w.asid (line * 64) k w.inb = x at translated ⊢
    obtain ⟨t, l | c⟩ := x
    · dsimp only at translated ⊢
      split
      · exact translated
      split
      · exact translated
      split <;> simp [translated]
    · exact translated

@[simp] theorem State.mcPut_plies (s : State) (asid line : Nat) (x : Line) (m : Mask) : (s.mcPut asid line x m).plies = s.plies := by
  unfold State.mcPut
  split <;> rfl

@[simp] theorem State.hostWrite_plies (s : State) (addr : Nat) (x : Line) (m : Mask) : (s.hostWrite addr x m).plies = s.plies := rfl

@[simp] theorem State.unitWaits_plies (s : State) (w : Who) (line : Nat) (m : Mask) (kind : Nat) : (s.unitWaits w line m kind).1.plies = s.plies := by
  unfold State.unitWaits
  split
  · rfl
  · split <;> simp [State.logAppend]

/-- Reading a barrier changes no ply (R255). -/
@[simp] theorem State.tbGet_plies (s : State) (w : Who) (h : TbAt) (k : AccKind) : (s.tbGet w h k).1.plies = s.plies := by
  rcases h with ⟨g, off⟩ | va | _ | _
  · simp only [State.tbGet]
    split <;> rfl
  · simp only [State.tbGet]
    have waited := s.unitWaits_plies w (va / 64) (byteSpan (va % 64) 16) 2
    split
    · rfl
    generalize s.unitWaits w (va / 64) (byteSpan (va % 64) 16) 2 = x at waited ⊢
    obtain ⟨t, _ | _⟩ := x
    · dsimp only at waited ⊢
      have reached := t.home_plies w (va / 64) k
      generalize t.home w (va / 64) k = y at reached ⊢
      obtain ⟨u, found⟩ := y
      cases found <;> exact reached.trans waited
    · exact waited
  · rfl
  · rfl

/-- Sampling the barriers of a call's WAITs changes no ply (R369). -/
theorem State.sample_plies (s : State) (c : Call) : (s.sample c).1.plies = s.plies := by
  refine List.foldlRecOn (motive := fun acc : State × Option (Tbl Nat × Option Nat) => acc.1.plies = s.plies) _ _ rfl fun acc h x _ => ?_
  obtain ⟨t, _ | ⟨ws, bad⟩⟩ := acc
  · exact h
  dsimp only at h ⊢
  split
  · exact h
  have got := t.tbGet_plies (t.callAgent c).who (t.tbFind c.slot (t.callRef c (c.src x.1))) .read
  generalize t.tbGet _ _ _ = y at got ⊢
  obtain ⟨u, _ | _ | _⟩ := y <;> exact got.trans h

/-! ## Write-backs and releases: every ply stays in its skein and in its handler -/

/-- Every ply is in the skein and in the handler in which it was. -/
structure KeepsSeq (s t : State) : Prop where
  seq : ∀ q, (t.ply? q).map (fun p => (p.skein, p.hnd)) = (s.ply? q).map fun p => (p.skein, p.hnd)

theorem KeepsSeq.refl (s : State) : KeepsSeq s s := ⟨fun _ => rfl⟩

theorem KeepsSeq.trans {s t u : State} (h : KeepsSeq s t) (g : KeepsSeq t u) : KeepsSeq s u := ⟨fun q => (g.seq q).trans (h.seq q)⟩

theorem KeepsSeq.of_plies {s t : State} (h : t.plies = s.plies) : KeepsSeq s t := ⟨fun q => by rw [State.ply?, State.ply?, h]⟩

/-- A ply before is one after, in the same skein and handler. -/
theorem KeepsSeq.ply {s t : State} (h : KeepsSeq s t) {q : Nat} {p : Ply} (hp : s.ply? q = some p) :
    ∃ p', t.ply? q = some p' ∧ p'.skein = p.skein ∧ p'.hnd = p.hnd := by
  have kept := h.seq q
  rw [hp, Option.map_some, Option.map_eq_some_iff] at kept
  obtain ⟨p', hp', same⟩ := kept
  exact ⟨p', hp', congrArg Prod.fst same, congrArg Prod.snd same⟩

theorem KeepsSeq.ite {s t u : State} {c : Prop} [Decidable c] (ht : KeepsSeq s t) (hu : KeepsSeq s u) : KeepsSeq s (if c then t else u) := by
  split
  · exact ht
  · exact hu

theorem KeepsSeq.iteFst {α : Type} {s : State} {c : Prop} [Decidable c] {t u : State × α} (ht : KeepsSeq s t.1) (hu : KeepsSeq s u.1) :
    KeepsSeq s (if c then t else u).1 := by
  split
  · exact ht
  · exact hu

theorem KeepsSeq.updPly (s : State) (pid : Nat) {f : Ply → Ply} (hf : ∀ p, ((f p).skein, (f p).hnd) = (p.skein, p.hnd)) :
    KeepsSeq s (s.updPly pid f) := by
  refine ⟨fun q => ?_⟩
  rw [State.ply?_updPly]
  split
  · next h => subst h; cases s.ply? q <;> simp [hf]
  · rfl

theorem KeepsSeq.updUid (s : State) (uid : Option Nat) {f : Ply → Ply} (hf : ∀ p, ((f p).skein, (f p).hnd) = (p.skein, p.hnd)) :
    KeepsSeq s (s.updUid uid f) := by
  unfold State.updUid
  split
  · exact .refl s
  split
  · exact .updPly s _ hf
  · exact .of_plies rfl

/-- A deferred store fault (R109, R336). -/
theorem KeepsSeq.storeFault (s : State) (uid : Option Nat) (sub va : Nat) : KeepsSeq s (s.storeFault uid sub va) :=
  .updUid s uid fun _ => rfl

theorem KeepsSeq.logAppend (s : State) (e : LogEnt) : KeepsSeq s (s.logAppend e) := by
  simp only [State.logAppend]
  have placed : KeepsSeq s (s.updSlice (sliceOf (e.line * 64)) fun x => { x with log := x.log ++ [e] }) := .of_plies rfl
  split
  · exact placed.trans (.updUid _ _ fun _ => rfl)
  · exact placed

/-- A write at the home, which the side log may take (R334). -/
theorem KeepsSeq.homeWrite (s : State) (w : Who) (line : Nat) (x : Line) (m : Mask) (kind : Nat) (unres : Bool) (req : Option (Nat × Nat)) :
    KeepsSeq s (s.homeWrite w line x m kind unres req).1 := by
  simp only [State.homeWrite]
  split
  · exact .refl s
  split
  · exact .logAppend ..
  have reached : KeepsSeq s (s.home w line .write).1 := .of_plies (s.home_plies ..)
  generalize s.home w line .write = y at reached ⊢
  obtain ⟨t, found⟩ := y
  cases found with
  | ok _ => exact reached.trans (.of_plies (t.mcPut_plies ..))
  | poison => exact reached.trans (.of_plies (t.mcPut_plies ..))
  | host a => exact reached.trans (.of_plies (t.hostWrite_plies ..))
  | fail c =>
    dsimp only at reached ⊢
    split
    · exact (reached.trans (.of_plies (t.record_plies ..))).trans (.logAppend ..)
    · exact reached.trans (.of_plies (t.record_plies ..))

theorem State.dlSend_plies {s t : State} {k : Nat} {m : DlMsg} (h : s.dlSend k m = some t) : t.plies = s.plies := by
  simp only [State.dlSend] at h
  split at h
  · cases h
  · cases h; rfl

theorem State.dlAsk_plies {s : State} {k : Nat} {msg : Nat → DlMsg} {use : DlUse} {x : State × Nat} (h : s.dlAsk k msg use = some x) :
    x.1.plies = s.plies := by
  obtain ⟨t, sent, rfl⟩ := Option.map_eq_some_iff.mp h
  have kept := State.dlSend_plies sent
  exact kept

/-- A write-back that crosses the die link changes no ply (R430, R432). -/
theorem State.l1Cross_plies {s t : State} {core asid line uid : Nat} {x : Line} {m : Mask} (h : s.l1Cross core asid line uid x m = some t) :
    t.plies = s.plies := by
  simp only [State.l1Cross] at h
  split at h
  · cases h
  split at h
  · cases h
  split at h
  · cases h
  split at h
  · simp only [Option.some.injEq] at h
    rw [h]
  simp only [Option.some.injEq] at h
  subst h
  cases asked : s.dlAsk _ _ _ with
  | none => rfl
  | some x => exact State.dlAsk_plies asked

theorem KeepsSeq.l1Clean (s : State) (k : Nat) (m : Mask) (drop : Bool) : KeepsSeq s (s.l1Clean k m drop) := .of_plies rfl

/-- Writing back the bytes of a line (R170, R171). -/
theorem KeepsSeq.l1Back (s : State) (core asid line : Nat) (sel : Mask) : KeepsSeq s (s.l1Back core asid line sel).1 := by
  simp only [State.l1Back, State.l1BackBy, if_true]
  split
  · exact .refl s
  next e _ =>
  refine List.foldlRecOn (motive := fun acc : State × Bool => KeepsSeq s acc.1) _ _ (.refl s) fun acc h o _ => ?_
  split
  · exact h
  split
  · next t crossed => exact h.trans (.of_plies (State.l1Cross_plies crossed))
  have written := KeepsSeq.homeWrite acc.1 (acc.1.whoUid o.1 core asid) line e.data (o.2 &&& e.dirty &&& sel) 1 true none
  generalize acc.1.homeWrite _ _ _ _ _ _ _ = y at written ⊢
  obtain ⟨t, ended⟩ := y
  have back := h.trans written
  cases ended with
  | fin => exact back.trans (.l1Clean ..)
  | logged => exact back.trans (.l1Clean ..)
  | fail _ => exact (back.trans (.storeFault t (some o.1) 1 (line * 64))).trans (.l1Clean ..)
  | full => exact back

theorem KeepsSeq.l1BackAll (s : State) (core asid : Nat) (old : Bool) : KeepsSeq s (s.l1BackAll core asid old).1 :=
  List.foldlRecOn (motive := fun acc : State × Bool => KeepsSeq s acc.1) _ _ (.refl s) fun _ h _ _ => h.trans (.l1Back ..)

/-- Draining write-combining entries (R209). -/
theorem KeepsSeq.wcDrain (s : State) (core : Nat) (which : WcEnt → Bool) : KeepsSeq s (s.wcDrain core which) := by
  simp only [State.wcDrain]
  split
  · exact .refl s
  · exact List.foldlRecOn (motive := fun t : State => KeepsSeq s t) _ _ (.of_plies rfl) fun _ h _ _ => h.trans (.of_plies rfl)

@[simp] theorem State.noteRelease_plies (s : State) (core slot asid : Nat) : (s.noteRelease core slot asid).plies = s.plies := rfl

/-- The release actions (R202). -/
theorem KeepsSeq.release (s : State) (pid : Nat) (scope : Scope) : KeepsSeq s (s.release pid scope).1 := by
  rw [State.release]
  cases s.ply? pid with
  | none => exact .refl s
  | some p =>
    have back := KeepsSeq.l1BackAll s (plyCore pid) (s.slotAsid p.ctx) false
    have drained : KeepsSeq s (if remoteScope scope = true then
        (s.l1BackAll (plyCore pid) (s.slotAsid p.ctx) false).1.wcDrain (plyCore pid) fun e => e.slot == p.ctx
      else (s.l1BackAll (plyCore pid) (s.slotAsid p.ctx) false).1) := .ite (back.trans (.wcDrain ..)) back
    have noted := drained.trans (.of_plies (State.noteRelease_plies _ (plyCore pid) p.ctx (s.slotAsid p.ctx)))
    exact .iteFst (.refl s) (.iteFst (.of_plies (s.noteRelease_plies ..))
      (.iteFst (.ite (noted.trans (.updPly _ _ fun _ => rfl)) noted) drained))

end Sys2Proof.Machine
end

section
/-! Operations that answer later (R18, R30, R181): what marking a destination EMPTY leaves in every register, and that an instruction which enters a
request and marks its destination goes out. -/

namespace Sys2Proof.Machine

/-! ## Marking registers EMPTY (R30) -/

theorem Regs.reg_markEmpty (r : Regs) (n k op i : Nat) :
    Regs.reg (Regs.markEmpty r n k op) i = if n ≤ i ∧ i < n + k then (Regs.reg r i).awaits op else Regs.reg r i := by
  induction k with
  | zero => rw [if_neg (by omega)]; rfl
  | succ k ih =>
    rw [Regs.markEmpty] at ih ⊢
    rw [List.range_succ, List.foldl_append, List.foldl_cons, List.foldl_nil, Regs.reg_put]
    by_cases h : i = n + k
    · subst h
      rw [if_pos rfl, if_pos (by omega), ih, if_neg (by omega)]
      rfl
    · rw [if_neg h, ih]
      by_cases below : n ≤ i ∧ i < n + k
      · rw [if_pos below, if_pos (by omega)]
      · rw [if_neg below, if_neg (by omega)]

/-- Marking one s register EMPTY puts what it becomes into the file that holds it (R22). -/
theorem State.updS_markEmpty {s : State} {pid : Nat} {p : Ply} (n op : Nat) (hp : s.ply? pid = some p) :
    (s.updS pid n fun r => r.markEmpty n 1 op) = s.updS pid n fun r => r.put n ((s.sRegOf pid n).awaits op) := by
  have one (r : Regs) : r.markEmpty n 1 op = r.put n ((Regs.reg r n).awaits op) := rfl
  simp only [State.updS, State.sRegOf, State.sReg, hp, one]
  split
  · cases hk : s.skeins.get p.skein <;> simp [State.updSkein, Tbl.upd, hk]
  · rfl

theorem SameButS.emptyS (pid op : Nat) (k n : Nat) (s : State) : SameButS pid s (s.emptyS pid op n k) := by
  induction k generalizing n s with
  | zero => exact .refl ..
  | succ k ih => exact (SameButS.updS ..).trans (ih ..)

/-- Marking consecutive s registers EMPTY (R22, R30): those await the operation, every other is as before. -/
theorem emptyS_marks {pid : Nat} (op k n : Nat) (s : State) (p : Ply) (hp : s.ply? pid = some p) :
    (∀ i, (s.skeins.get p.skein).isSome = true → i < k → (s.emptyS pid op n k).sRegOf pid (n + i) = (s.sRegOf pid (n + i)).awaits op) ∧
    (∀ q i, i < n ∨ n + k ≤ i → (s.emptyS pid op n k).sRegOf q i = s.sRegOf q i) ∧
    (∀ q p' i, s.ply? q = some p' → q ≠ pid → 32 ≤ i ∨ p'.skein ≠ p.skein → (s.emptyS pid op n k).sRegOf q i = s.sRegOf q i) := by
  induction k generalizing n s p with
  | zero => exact ⟨fun i _ hi => absurd hi (Nat.not_lt_zero i), fun _ _ _ => rfl, fun _ _ _ _ _ _ => rfl⟩
  | succ k ih =>
    simp only [State.emptyS, State.updS_markEmpty n op hp]
    have first := SameButS.updS pid n (fun r => r.put n ((s.sRegOf pid n).awaits op)) s
    obtain ⟨p1, hp1, e1⟩ := first.ply hp
    have hsk : p1.skein = p.skein := by rw [← e1]
    obtain ⟨marked, below, elsewhere⟩ := ih (n + 1) _ p1 hp1
    refine ⟨fun i hk hi => ?_, fun q i hi => ?_, fun q p' i hq hne h => ?_⟩
    · cases i with
      | zero => exact (below pid n (by omega)).trans (sRegOf_updS_same hp hk)
      | succ i =>
        rw [show n + (i + 1) = n + 1 + i by omega, marked i (by rw [hsk, first.skein]; exact hk) (by omega),
          sRegOf_updS_other _ (by omega)]
    · rw [below q i (by omega), sRegOf_updS_other _ (by omega)]
    · obtain ⟨p2, hp2, e2⟩ := first.ply hq
      have hsk2 : p2.skein = p'.skein := by rw [← e2]
      rw [elsewhere q p2 i hp2 hne (by rw [hsk2, hsk]; exact h), sRegOf_updS_elsewhere hp hq hne h]

/-- What changing the registers of one ply leaves: all but its s registers and its skein's registers. -/
structure OnlyRegs (pid : Nat) (s t : State) : Prop where
  rest : { t with plies := s.plies, skeins := s.skeins } = s
  others : OtherPlies pid s t
  ply : (t.ply? pid).map (fun p => { p with sregs := [] }) = (s.ply? pid).map fun p => { p with sregs := [] }

/-- Marking a destination EMPTY changes registers and nothing else (R30). -/
theorem OnlyRegs.emptyD (s : State) (e : Env) (op : Nat) (d : Operand) (k : Nat) : OnlyRegs e.pid s (emptyD s e op d k) := by
  cases d with
  | s n =>
    obtain ⟨rest, others, ply, -⟩ := SameButS.emptyS e.pid op k n s
    exact ⟨rest, others, ply⟩
  | v n => exact ⟨rfl, fun _ _ => rfl, rfl⟩
  | _ => exact ⟨rfl, fun _ _ => rfl, rfl⟩

/-- Marking a destination EMPTY makes it await the operation, and leaves every other register (R30). -/
theorem marksD_emptyD {s : State} {e : Env} {p : Ply} (op : Nat) (d : Operand) (k : Nat) (hp : s.ply? e.pid = some p)
    (hk : p.skein = e.p.skein) : MarksD e d k op s (emptyD s e op d k) := by
  cases d with
  | s n =>
    obtain ⟨marked, other, elsewhere⟩ := emptyS_marks op k n s p hp
    rw [hk] at marked elsewhere
    have kept := SameButS.emptyS e.pid op k n s
    exact ⟨fun sk tid i => by simp only [State.vReg, emptyD, kept.thread], marked, other, elsewhere⟩
  | v n =>
    have thread (sk tid : Nat) : (emptyD s e op (.v n) k).thread sk tid = (s.thread sk tid).map fun x =>
        if sk = e.p.skein ∧ ((e.p.threadsOf e.exec).map Prod.snd).contains tid = true then { x with regs := x.regs.markEmpty n k op } else x :=
      State.thread_updThreads ..
    refine ⟨fun q i => sRegOf_congr (s := s) (t := emptyD s e op (.v n) k) rfl (fun j => ?_) i, fun l tid i hl ht hi => ?_, fun sk tid i h => ?_⟩
    · have kept := s.skein_updThreads e.p.skein j ((e.p.threadsOf e.exec).map Prod.snd) fun _ t => { t with regs := t.regs.markEmpty n k op }
      have sregs := congrArg (Option.map Skein.sregs) kept
      rwa [Option.map_map, Option.map_map] at sregs
    · obtain ⟨th, hth⟩ := Option.isSome_iff_exists.mp ht
      have named : ((e.p.threadsOf e.exec).map Prod.snd).contains tid = true := List.contains_iff_mem.mpr (List.mem_map_of_mem hl)
      simp only [State.vReg, thread, hth, Option.map_some, named, and_self, if_true, Regs.reg_markEmpty]
      rw [if_pos (by omega)]
    · simp only [State.vReg, thread]
      cases s.thread sk tid with
      | none => rfl
      | some th =>
        simp only [Option.map_some]
        split
        · next named =>
          rw [Regs.reg_markEmpty, if_neg]
          obtain ⟨rfl, mem⟩ := named
          obtain ⟨⟨l, _⟩, hl, rfl⟩ := List.mem_map.mp (List.contains_iff_mem.mp mem)
          rcases h with h | h | h | h
          · exact absurd rfl h
          · exact absurd hl (h l)
          · omega
          · omega
        · rfl
  | _ => exact ⟨fun _ _ _ => rfl, fun _ _ => rfl⟩

/-- `MarksD` sees the state after it through its registers only. -/
theorem MarksD.congr {e : Env} {d : Operand} {k op : Nat} {s t u : State} (h : MarksD e d k op s t)
    (hv : ∀ a b n, u.vReg a b n = t.vReg a b n) (hs : ∀ q n, u.sRegOf q n = t.sRegOf q n) : MarksD e d k op s u := by
  unfold MarksD SameV SameS at *
  split at h <;> simpa only [hv, hs] using h

/-- `MarksD` sees the state before it through its registers, its skeins and the skeins of the other plies only. -/
theorem MarksD.congr_left {e : Env} {d : Operand} {k op : Nat} {r s t : State} (h : MarksD e d k op s t) (hk : s.skeins = r.skeins)
    (hs : ∀ q n, s.sRegOf q n = r.sRegOf q n) (ho : OtherPlies e.pid r s) : MarksD e d k op r t := by
  have hv (sk tid n : Nat) : s.vReg sk tid n = r.vReg sk tid n := by simp only [State.vReg, State.thread, hk]
  cases d with
  | s n =>
    obtain ⟨vs, marked, other, elsewhere⟩ := h
    refine ⟨fun sk tid i => (vs sk tid i).trans (hv ..), fun i hsk hi => ?_, fun q i hi => (other q i hi).trans (hs ..),
      fun q p i hq hne hi => (elsewhere q p i ((ho q hne).trans hq) hne hi).trans (hs ..)⟩
    rw [marked i (by rwa [hk]) hi, hs]
  | v n =>
    obtain ⟨ss, marked, other⟩ := h
    refine ⟨fun q i => (ss q i).trans (hs ..), fun l tid i hl ht hi => ?_, fun sk tid i hi => (other sk tid i hi).trans (hv ..)⟩
    rw [marked l tid i hl (by rwa [State.thread, hk]) hi, hv]
  | _ => exact ⟨fun sk tid n => (h.1 sk tid n).trans (hv ..), fun q n => (h.2 q n).trans (hs ..)⟩

/-! ## Instructions that go out (R18, R181) -/

theorem SameMemory.refl (s : State) : SameMemory s s := ⟨fun _ => rfl, fun _ => rfl, rfl, rfl, rfl, rfl, rfl, rfl⟩

theorem SameMemory.trans {s t u : State} (h : SameMemory s t) (g : SameMemory t u) : SameMemory s u := by
  obtain ⟨h1, h2, h3, h4, h5, h6, h7, h8⟩ := h
  obtain ⟨g1, g2, g3, g4, g5, g6, g7, g8⟩ := g
  exact ⟨fun a => (g1 a).trans (h1 a), fun a => (g2 a).trans (h2 a), g3.trans h3, g4.trans h4, g5.trans h5, g6.trans h6, g7.trans h7, g8.trans h8⟩

/-- A change of plies and skeins alone keeps every other part of the state. -/
theorem eq_of_rest {α : Type} {s t : State} (h : { t with plies := s.plies, skeins := s.skeins } = s) (f : State → α)
    (hf : ∀ u p k, f { u with plies := p, skeins := k } = f u) : f t = f s := by
  rw [← hf t s.plies s.skeins, h]

/-- A state in which a request has been entered (R18). -/
theorem State.enter_eq {s : State} {r : MReq} (h : r.uns = false) :
    s.enter r = ({ s with nextOp := s.nextOp + 1, reqs := s.reqs.set s.nextOp r }.updPly r.pid fun p => p.issueOp s.nextOp r.cls, s.nextOp) := by
  simp only [State.enter, State.freshOp, h, Bool.false_eq_true, if_false]

/-- Counting an operation keeps every s register. -/
theorem sRegOf_of_counts {s t : State} {pid op : Nat} {c : Cls} (hk : t.skeins = s.skeins)
    (hp : t.plies = s.plies.upd pid fun p => p.issueOp op c) (q n : Nat) : t.sRegOf q n = s.sRegOf q n := by
  refine sRegOf_congr ?_ (fun j => by rw [hk]) n
  rw [State.ply?, State.ply?, hp, Tbl.get_upd]
  split
  · next h => subst h; cases Tbl.get s.plies q <;> rfl
  · rfl

/-- A ply but for what an instruction that goes out changes in it: where it stands, its s registers and what it counts. -/
def Ply.bare (p : Ply) : Ply := { p.still with sregs := [] }

theorem KeepsPly.of_bare {p q : Ply} (h : q.bare = p.bare) : KeepsPly p q := by
  have part {α : Type} (f : Ply → α) (hf : ∀ x : Ply, f x.bare = f x) : f q = f p := by rw [← hf q, h, hf]
  exact ⟨part Ply.uid fun _ => rfl, part Ply.ctx fun _ => rfl, part Ply.skein fun _ => rfl, part Ply.idx fun _ => rfl,
    part Ply.width fun _ => rfl, part Ply.lanes fun _ => rfl, part Ply.csr fun _ => rfl, part Ply.ops fun _ => rfl,
    part Ply.conds fun _ => rfl, part Ply.unres fun _ => rfl, part Ply.prod fun _ => rfl, part Ply.podStore fun _ => rfl,
    part Ply.stopped fun _ => rfl⟩

section
variable {i : Instr} {e : Env} {s s1 : State} {sp : Spec} {d : Operand} {k : Nat} {r : MReq} {p : Ply}

/-- What an instruction leaves that enters a request in s1, marks its destination and completes (R18, R30): no byte of memory changes, and its ply,
p in s1, has counted the operation. -/
theorem finish_goesOut (hs : sp.size = 12) (hp : s1.ply? e.pid = some p) (hk : p.skein = e.p.skein) (hh : p.hnd = e.p.hnd) (hr : r.pid = e.pid)
    (hu : r.uns = false) (t : State) (ht : t = finish e sp (.done (emptyD (s1.enter r).1 e (s1.enter r).2 d k))) :
    Advances e 12 t ∧ MarksD e d k s1.nextOp s1 t ∧ t.reqs.get s1.nextOp = some r ∧ SameMemory s1 t ∧ OtherPlies e.pid s1 t ∧
      ∃ q, t.ply? e.pid = some q ∧ q.bare = (p.issueOp s1.nextOp r.cls).bare := by
  subst ht
  rw [State.enter_eq hu, hr]
  generalize hv : ({ s1 with nextOp := s1.nextOp + 1, reqs := s1.reqs.set s1.nextOp r }.updPly e.pid fun p => p.issueOp s1.nextOp r.cls) = v
  dsimp only
  have hvp : v.ply? e.pid = some (p.issueOp s1.nextOp r.cls) := by
    subst hv
    rw [State.ply?_updPly, if_pos rfl]
    show (s1.ply? e.pid).map _ = _
    rw [hp]; rfl
  have others : OtherPlies e.pid s1 v := fun q hq => by subst hv; rw [State.ply?_updPly, if_neg hq]; rfl
  have regs (q n : Nat) : v.sRegOf q n = s1.sRegOf q n := sRegOf_of_counts (by subst hv; rfl) (by subst hv; rfl) q n
  obtain ⟨rest, emptied, ply⟩ := OnlyRegs.emptyD v e s1.nextOp d k
  have marks := marksD_emptyD s1.nextOp d k hvp hk
  generalize emptyD v e s1.nextOp d k = u at rest emptied ply marks ⊢
  rw [hvp, Option.map_some, Option.map_eq_some_iff] at ply
  obtain ⟨q, hq, same⟩ := ply
  have ret := finish_done e sp u
  refine ⟨hs ▸ finish_done_advances e sp u fun p' hp' => ?_, ?_, ?_, ?_, fun j hj => ?_, ?_⟩
  · rw [hq] at hp'
    cases hp'
    exact (congrArg Ply.hnd same).trans hh
  · exact (marks.congr_left (by subst hv; rfl) regs others).congr (fun _ _ _ => ret.vReg ..) fun _ _ => ret.sRegOf ..
  · have reqs : (finish e sp (.done u)).reqs = v.reqs :=
      (eq_of_rest ret.1 State.reqs fun _ _ _ => rfl).trans (eq_of_rest rest State.reqs fun _ _ _ => rfl)
    rw [reqs, ← hv]
    exact Tbl.get_set_same ..
  · have entered : SameMemory s1 v := by subst hv; exact .refl s1
    exact entered.trans ((OnlyPlies.of_eq rest).2.trans (OnlyPlies.of_eq ret.1).2)
  · exact (ret.2.1 j hj).trans ((emptied j hj).trans (others j hj))
  · have still := ret.2.2.1
    rw [hq, Option.map_some, Option.map_eq_some_iff] at still
    obtain ⟨q', hq', same'⟩ := still
    refine ⟨q', hq', ?_⟩
    rw [Ply.bare, same']
    exact congrArg Ply.still same

/-- An instruction that enters a request after its release, marks its destination and completes goes out. -/
theorem goesOutAfter_of_exec_eq (hs : sp.size = 12) (hp : s1.ply? e.pid = some p) (hk : p.skein = e.p.skein) (hh : p.hnd = e.p.hnd)
    (hr : r.pid = e.pid) (hu : r.uns = false)
    (h : exec i s = .next (finish e sp (.done (emptyD (s1.enter r).1 e (s1.enter r).2 d k)))) : GoesOutAfter i e s s1 d k r := by
  obtain ⟨advances, marks, req, memory, -, q, hq, bare⟩ := finish_goesOut hs hp hk hh hr hu _ rfl
  refine ⟨_, h, advances, marks, req, memory, fun p' hp' => ⟨q, hq, ?_⟩⟩
  rw [hp] at hp'
  cases hp'
  obtain ⟨-, -, -, -, -, -, -, ops, -⟩ := KeepsPly.of_bare bare
  exact ops

/-- An instruction that enters a request in the state in which it issues, marks its destination and completes goes out. -/
theorem goesOut_of_exec_eq (hs : sp.size = 12) (hp : s.ply? e.pid = some e.p) (hr : r.pid = e.pid) (hu : r.uns = false)
    (h : exec i s = .next (finish e sp (.done (emptyD (s.enter r).1 e (s.enter r).2 d k)))) : GoesOut i e s d k r := by
  obtain ⟨advances, marks, req, memory, others, q, hq, bare⟩ := finish_goesOut hs hp rfl rfl hr hu _ rfl
  exact ⟨_, h, advances, marks, req, memory, others, q, hq, .of_bare bare⟩

end

end Sys2Proof.Machine
end

section
/-! The collective instructions (R374, R375, R386 to R388): what a call's acceptance sends, then CGLOAD, CGRUN, CGSTAT, CGABORT and CGTRIG. -/

namespace Sys2Proof.Machine

/-! ## Packets of a call and what awaits their acknowledgement (R377) -/

/-- Only packets and the requests that await their acknowledgement are added. -/
def SendsOnly (s t : State) : Prop := { t with nextOp := s.nextOp, remote := s.remote, flowOut := s.flowOut, fabOut := s.fabOut } = s

theorem SendsOnly.trans {s t u : State} (h : SendsOnly s t) (g : SendsOnly t u) : SendsOnly s u := by
  unfold SendsOnly at *
  exact (congrArg (fun x : State => { x with nextOp := s.nextOp, remote := s.remote, flowOut := s.flowOut, fabOut := s.fabOut }) g).trans h

/-- Sending keeps every other part of the state. -/
theorem SendsOnly.keeps {α : Type} {s t : State} (h : SendsOnly s t) (f : State → α)
    (hf : ∀ u n r o b, f { u with nextOp := n, remote := r, flowOut := o, fabOut := b } = f u) : f t = f s := by
  rw [← hf t s.nextOp s.remote s.flowOut s.fabOut, h]

/-- The request that awaits the acknowledgement of an engine packet of a call, for operation `idx` or for its start (R377, R378). -/
def colAwait (op : Nat) (c : Call) (dst : Nat) (idx : Option Nat) : RReq :=
  { use := .col op idx, dev := dst, off := 0, clock := none, core := colAgent, slot := c.slot, pid := c.pid, write := false, host := false }

/-- Send an engine packet of a call to a package, with the request that awaits its acknowledgement (R377). -/
def State.colPost (s : State) (op : Nat) (c : Call) (dst : Nat) (idx : Option Nat) (body : Nat → FabBody) : State :=
  { s with nextOp := s.nextOp + 1, remote := s.remote.set s.nextOp (colAwait op c dst idx) }.fabSend .eng colAgent dst (body s.nextOp)

theorem State.colSend_eq_colPost (s : State) (op : Nat) (c : Call) (r : Nat) (idx : Option Nat) (x : ColLoad) :
    s.colSend op c r idx x = s.colPost op c (c.grp.dev r) idx fun n => s.colBody c n x := by
  cases x <;> rfl

/-- A packet that is sent is the last that leaves, and sending it changes nothing else but its flow's number (R354). -/
theorem State.fabSend_sends (s : State) (cls : FabCls) (agent dst : Nat) (body : FabBody) :
    SendsOnly s (s.fabSend cls agent dst body) ∧ (s.fabSend cls agent dst body).nextOp = s.nextOp ∧
    (s.fabSend cls agent dst body).remote = s.remote ∧
    ∃ pk, (s.fabSend cls agent dst body).fabOut = s.fabOut ++ [pk] ∧ pk.dst = dst ∧ pk.body = body :=
  ⟨by simp only [SendsOnly, State.fabSend, State.fabMake], rfl, rfl, (s.fabMake cls agent dst 0 body).2, rfl, rfl, rfl⟩

/-- What sending one packet of a call leaves. -/
theorem State.colPost_sends (s : State) (op : Nat) (c : Call) (dst : Nat) (idx : Option Nat) (body : Nat → FabBody) :
    SendsOnly s (s.colPost op c dst idx body) ∧ (s.colPost op c dst idx body).nextOp = s.nextOp + 1 ∧
    (s.colPost op c dst idx body).remote = s.remote.set s.nextOp (colAwait op c dst idx) ∧
    ∃ pk, (s.colPost op c dst idx body).fabOut = s.fabOut ++ [pk] ∧ pk.dst = dst ∧ pk.body = body s.nextOp := by
  obtain ⟨only, next, remote, sent⟩ := State.fabSend_sends
    { s with nextOp := s.nextOp + 1, remote := s.remote.set s.nextOp (colAwait op c dst idx) } .eng colAgent dst (body s.nextOp)
  have posted : SendsOnly s { s with nextOp := s.nextOp + 1, remote := s.remote.set s.nextOp (colAwait op c dst idx) } := rfl
  exact ⟨posted.trans only, next, remote, sent⟩

/-- Start packets that a state has sent to packages, in order, each with the request that awaits its acknowledgement (R377). -/
def StartsSent (op : Nat) (start : Nat → StartPkt) (dsts : List Nat) (s t : State) : Prop :=
  ∃ ps, t.fabOut = s.fabOut ++ ps ∧ ps.map (fun pk => pk.dst) = dsts ∧
    ∀ pk ∈ ps, ∃ n q, pk.body = .start (start n) ∧ t.remote.get n = some q ∧ q.use = .col op none ∧ q.dev = pk.dst

/-- Starting a call at some ranks sends each its start packet (R375, R377). -/
theorem State.foldl_colSend_start (op : Nat) (c : Call) (rs : List Nat) (s : State) :
    SendsOnly s (rs.foldl (fun s r => s.colSend op c r none .start) s) ∧
    (∀ n, n < s.nextOp → (rs.foldl (fun s r => s.colSend op c r none .start) s).remote.get n = s.remote.get n) ∧
    StartsSent op (s.startPkt c) (rs.map c.grp.dev) s (rs.foldl (fun s r => s.colSend op c r none .start) s) := by
  induction rs generalizing s with
  | nil => exact ⟨rfl, fun _ _ => rfl, [], (List.append_nil _).symm, rfl, fun pk h => nomatch h⟩
  | cons r rs ih =>
    rw [List.foldl_cons, State.colSend_eq_colPost]
    obtain ⟨only, next, remote, pk, out, dst, body⟩ := s.colPost_sends op c (c.grp.dev r) none fun n => s.colBody c n .start
    have start (n : Nat) : (s.colPost op c (c.grp.dev r) none fun n => s.colBody c n .start).startPkt c n = s.startPkt c n := rfl
    generalize (s.colPost op c (c.grp.dev r) none fun n => s.colBody c n .start) = t at *
    obtain ⟨later, kept, ps, outs, dsts, sent⟩ := ih t
    refine ⟨only.trans later, fun n hn => ?_, pk :: ps, ?_, ?_, fun k hk => ?_⟩
    · rw [kept n (by omega), remote, Tbl.get_set_other _ _ (by omega)]
    · rw [outs, out, List.append_assoc, List.singleton_append]
    · rw [List.map_cons, List.map_cons, dst, dsts]
    · rcases List.mem_cons.mp hk with rfl | hk
      · refine ⟨s.nextOp, colAwait op c (c.grp.dev r) none, body, ?_, rfl, dst.symm⟩
        rw [kept _ (by omega), remote, Tbl.get_set_same]
      · obtain ⟨n, q, hbody, rest⟩ := sent k hk
        exact ⟨n, q, by rw [hbody, start], rest⟩

/-- The start of a call goes to every other member or, where its group has a multicast group, once to that (R371, R375). -/
theorem State.colAll_start (s : State) (op : Nat) (c : Call) :
    SendsOnly s (s.colAll op c none .start) ∧
    (c.grp.men = false → StartsSent op (s.startPkt c) (c.grp.others.map c.grp.dev) s (s.colAll op c none .start)) ∧
    (c.grp.men = true → c.grp.others ≠ [] → ∃ pk n q, (s.colAll op c none .start).fabOut = s.fabOut ++ [pk] ∧ pk.dst = s.mgmt.devidx ∧
      pk.body = .mcst { dev := s.mgmt.devidx, up := s.mgmt.devidx, req := n, group := c.grp.mgrp, ctxid := pktCtxid (s.ctx c.slot),
                        load := .start (s.startPkt c n) } ∧
      (s.colAll op c none .start).remote.get n = some q ∧ q.use = .col op none) := by
  obtain ⟨each, -, starts⟩ := State.foldl_colSend_start op c c.grp.others s
  by_cases multicast : (c.grp.men && !c.grp.others.isEmpty) = true
  · have one : s.colAll op c none .start = s.colPost op c s.mgmt.devidx none fun n =>
        .mcst { dev := s.mgmt.devidx, up := s.mgmt.devidx, req := n, group := c.grp.mgrp, ctxid := pktCtxid (s.ctx c.slot),
                load := .start (s.startPkt c n) } := if_pos multicast
    rw [one]
    obtain ⟨only, -, remote, pk, out, dst, body⟩ := s.colPost_sends op c s.mgmt.devidx none fun n =>
      .mcst { dev := s.mgmt.devidx, up := s.mgmt.devidx, req := n, group := c.grp.mgrp, ctxid := pktCtxid (s.ctx c.slot),
              load := .start (s.startPkt c n) }
    exact ⟨only, fun no => by simp [no] at multicast, fun _ _ => ⟨pk, _, _, out, dst, body, by rw [remote, Tbl.get_set_same], rfl⟩⟩
  · have all : s.colAll op c none .start = c.grp.others.foldl (fun s r => s.colSend op c r none .start) s := if_neg multicast
    rw [all]
    exact ⟨each, fun _ => starts, fun men others => absurd (by simpa [men] using others) multicast⟩

/-! ## Acceptance of a call (R375, R377, R382) -/

/-- Without held packets none is delivered to a call. -/
theorem State.callHeld_nil {s : State} (h : s.colHeld = []) (slot group trick : Nat) : s.callHeld slot group trick = s := by
  simp only [State.callHeld, h, List.filter_nil, List.foldl_nil]
  exact congrArg (fun x => { s with colHeld := x }) h.symm

/-- Without held triggers none is applied. -/
theorem State.trigAll_nil {s : State} {slot g : Nat} (h : (s.gslot slot g).trigs = []) : s.trigAll slot g = s := by
  simp only [State.trigAll, h, List.foldl_nil]

/-- A call as the engine accepts it: with its trick, its place in the order, and what its WAITs sampled (R375). -/
def Call.accepted (c : Call) (trick order : Nat) (waits : Tbl Nat) : Call :=
  { c with trick := trick, order := order, waits := waits, ops := c.graph.ops.map fun x => { cnt := coDep x, ph := .idle, buf := [], emax := none } }

/-- The engine with a call that it has accepted: the call, and the next trick of its group (R375). -/
def State.callEntered (s : State) (op : Nat) (c : Call) (trick : Nat) (waits : Tbl Nat) : State :=
  { s with nextOp := s.nextOp + 1, calls := s.calls.set op (c.accepted trick s.nextOp waits),
           groups := s.groups.upd (groupKey c.slot c.group) fun g => { g with trick := (g.trick + 1) % 2 ^ 32 } }

/-- Where nothing is held for a call, its acceptance enters it and starts it at every other member (R375). -/
theorem State.callAccept_eq {s : State} {op : Nat} {c : Call} {waits : Tbl Nat} {g : GroupSt} (hg : s.groupSt c.slot c.group = some g)
    (held : s.colHeld = []) (trigs : (s.gslot c.slot c.gslot).trigs = []) :
    s.callAccept op c waits none = (s.callEntered op c g.trick waits).colAll op (c.accepted g.trick s.nextOp waits) none .start := by
  obtain ⟨only, -, -⟩ := (s.callEntered op c g.trick waits).colAll_start op (c.accepted g.trick s.nextOp waits)
  have accept : s.callAccept op c waits none =
      (((s.callEntered op c g.trick waits).colAll op (c.accepted g.trick s.nextOp waits) none .start).callHeld c.slot c.group g.trick).trigAll
        c.slot c.gslot := by
    simp only [State.callAccept, hg]
    rfl
  rw [accept, State.callHeld_nil, State.trigAll_nil]
  · exact (congrArg GSlot.trigs (only.keeps (fun x => x.gslot c.slot c.gslot) fun _ _ _ _ _ => rfl)).trans trigs
  · exact (only.keeps State.colHeld fun _ _ _ _ _ => rfl).trans held

/-- The call that CGRUN's acceptance leaves in the engine, and the next trick of its group. -/
theorem State.callEntered_tables {s : State} {op : Nat} {c : Call} {waits : Tbl Nat} {g : GroupSt} (hg : s.groupSt c.slot c.group = some g) :
    (s.callEntered op c g.trick waits).calls.get op = some (c.accepted g.trick s.nextOp waits) ∧
    (s.callEntered op c g.trick waits).groupSt c.slot c.group = some { g with trick := (g.trick + 1) % 2 ^ 32 } := by
  refine ⟨Tbl.get_set_same .., ?_⟩
  rw [State.groupSt, State.callEntered, Tbl.get_upd, if_pos rfl]
  exact congrArg (Option.map _) hg

/-! ## How an instruction of a unit issues -/

section
variable {sp : Spec} {early : Env → State → Pre} {body : Env → State → Res} {s s1 u : State} {e : Env}

/-- An instruction that executes in some lane has the effect of its body. -/
theorem issue_whenExec (body : Env → State → Res) (h : Executes sp early s e) :
    issue sp early (whenExec body) s = .next (finish e sp (body e s)) := by
  have effect := issue_executes (whenExec body) h
  obtain ⟨-, -, -, someLane, -⟩ := h
  rwa [whenExec, if_neg someLane] at effect

/-- A body that completes retires. -/
theorem completes_of_exec_eq {i : Instr} (hs : sp.size = 12) (h : exec i s = .next (finish e sp (.done u))) : Completes i e s u := by
  refine ⟨_, h, finish_done e sp u, fun p hp hn x hx th hth => ?_⟩
  have skeins : (finish e sp (.done u)).skeins = (u.setPc e.p e.act (e.pc + BitVec.ofNat 56 sp.size)).skeins :=
    retire_keeps_pcs _ _ _ fun q hq => by
      rw [State.ply?_setPc, hp] at hq
      cases hq
      exact hn
  rw [hs] at skeins
  rw [State.thread, skeins] at hth
  exact setPc_standAt u e.p e.act _ x hx th hth

/-- A legal instruction that a check before the registers refuses traps with TRAPSUB 0x0A (R61, R101). -/
theorem issue_refused (body : Env → State → Res) (h : Issuing sp.guard s e) (legal : issueCauses sp (s.ctx e.p.ctx) e.pc = [])
    (refused : early { e with exec := 0 } s = .refuse) :
    issue sp early body s = .next (s.takeTrap e.pid (Trap.plain 0x100 0x0A e.act)) := by
  obtain ⟨sel, ply, pc, act, -⟩ := h
  obtain ⟨pid, p, _, _, ex⟩ := e
  dsimp only at *
  subst pc act
  simp only [issue, sel, ply, legal, minCause, refused, finish]

/-- A refusal that the instruction's own check gives stands whether or not its unit is there. -/
theorem preThen_refuses {b : Nat} {bad : Env → State → Bool} (first : ∀ id, e.p.wait ≠ some (.op id)) (h : bad e s = true) :
    preThen (unitEarly b) (preFirst (refuseIf bad)) e s = .refuse := by
  have own : preFirst (refuseIf bad) e s = .refuse := by
    rw [preFirst]
    split
    · next id hw => exact absurd hw (first id)
    · exact if_pos h
  simp only [preThen, unitEarly, refuseIf]
  by_cases absent : (!(s.hasUnit b && !(decide (1 < b) && s.mgmt.reduced))) = true
  · rw [if_pos absent]
  · rw [if_neg absent]
    exact own

/-- After a release that is done, the instruction goes on. -/
theorem releaseThen_done {scope : Scope} (h : s.release e.pid scope = (s1, true)) (k : State → Res) : releaseThen true scope e s k = k s1 := by
  simp [releaseThen, h]

/-- After a release its ply is in its skein and its handler. -/
theorem ply_of_release {scope : Scope} {done : Bool} (h : s.release e.pid scope = (s1, done)) (hp : s.ply? e.pid = some e.p) :
    ∃ p, s1.ply? e.pid = some p ∧ p.skein = e.p.skein ∧ p.hnd = e.p.hnd := by
  have kept := KeepsSeq.release s e.pid scope
  rw [h] at kept
  exact kept.ply hp

end

/-! ## CGLOAD (R374) -/

section
variable {f : Full} {s s1 : State} {e : Env}

/-- What CGLOAD asks the engine for: an image, whose status D awaits (R374). -/
def cgloadReq (k : Nat) (f : Full) (e : Env) (s : State) (ga : Nat) : MReq :=
  { newReq e (.image false k) .net f 1 true [{ onePart e 4 .wait with ga := ga, place := s.placeOf e.pid e.p ga }] with
    ty := .n32, n := 1, ord := .weak }

theorem cgloadBody_enters {k ga : Nat} (hga : ga = sPairVal s e.p f.a % 2 ^ 56) (aligned : ga % 64 = 0) (free : s.acquiring e.p e.pid = false)
    (released : s.release e.pid .pkg = (s1, true)) :
    cgloadBody k f e s =
      .done (emptyD (s1.enter (cgloadReq k f e s1 ga)).1 e (s1.enter (cgloadReq k f e s1 ga)).2 f.d 1) := by
  subst hga
  simp only [cgloadBody, aligned, ne_eq, not_true_eq_false, if_false, free, Bool.false_eq_true, releaseThen_done released]
  rfl

/-- CGLOAD of an aligned image asks the engine to read it, and D awaits the status (R374). -/
theorem cgload_goesOut {i : Instr} {k ga : Nat} (hi : (i = .cgloadGraph f ∧ k = 2 * mX f) ∨ (i = .cgloadGroup f ∧ k = 2 * mX f + 1))
    (hga : ga = sPairVal s e.p f.a % 2 ^ 56) (aligned : ga % 64 = 0) (free : s.acquiring e.p e.pid = false)
    (released : s.release e.pid .pkg = (s1, true)) (h : Executing i s e) : GoesOutAfter i e s s1 f.d 1 (cgloadReq k f e s1 ga) := by
  have executes : Executes (fullSpec s (formCgload f) (some .net) true f) (unitEarly 3) s e := by
    rcases hi with ⟨rfl, -⟩ | ⟨rfl, -⟩ <;> exact h
  have arm : exec i s = issue (fullSpec s (formCgload f) (some .net) true f) (unitEarly 3) (whenExec (cgloadBody k f)) s := by
    rcases hi with ⟨rfl, rfl⟩ | ⟨rfl, rfl⟩ <;> rfl
  obtain ⟨p, hp, hk, hh⟩ := ply_of_release released (ExecutesFrom.ply executes)
  refine goesOutAfter_of_exec_eq (sp := fullSpec s (formCgload f) (some .net) true f) rfl hp hk hh rfl rfl ?_
  rw [arm, issue_whenExec _ executes, cgloadBody_enters hga aligned free released]

end

/-! ## CGRUN (R375) -/

section
variable {f : Full} {s s1 u : State} {e : Env}

/-- CGRUN, once it executes, has its effect, for the ply that issued it. -/
theorem exec_cgrun (h : Executing (.cgrun f) s e) :
    s.ply? e.pid = some e.p ∧
      exec (.cgrun f) s = .next (finish e (fullSpec s (formCgrun f) (some .net) true f) (cgrunBody f e s)) := by
  have executes : Executes (fullSpec s (formCgrun f) (some .net) true f) (preThen (unitEarly 3) (preFirst (cgrunEarly f))) s e := h
  exact ⟨executes.ply, issue_whenExec (cgrunBody f) executes⟩

/-- Operands that are aligned pass. -/
theorem alignAll_pass {xs : List (Nat × Nat)} (h : ∀ x ∈ xs, x.1 % x.2 = 0) (k : Unit → Res) : alignAll e xs s k = k () := by
  have allPass : xs.find? (fun x => x.1 % x.2 ≠ 0) = none := List.find?_eq_none.mpr fun x hx => by simp [h x hx]
  rw [alignAll, allPass]

/-- A first CGRUN whose checks pass begins its probe (R375). -/
theorem cgrunBody_probes {graph : Graph} {g : GroupSt} {c : Call} (hc : c = s.callNew e f graph g.grp) (first : e.p.wait = none)
    (slot : (s.gslot e.p.ctx (mX f)).graph = some graph) (group : s.groupSt e.p.ctx (mY f) = some g)
    (aligned : ∀ x ∈ (sPairVal s e.p f.d % 2 ^ 56, 16) :: c.aligns, x.1 % x.2 = 0) (room : s.callCount e.p.ctx < 256)
    (free : s.acquiring e.p e.pid = false) (released : s.release e.pid .pkg = (s1, true)) :
    cgrunBody f e s = .hold (probing e (some .net) c.asks (.call c) s1) := by
  subst hc
  simp only [cgrunBody, probeAwait, first, slot, group, alignAll_pass aligned, free, Bool.or_false, decide_eq_true_eq,
    if_neg (Nat.not_le.mpr room), releaseThen_done released, probeStart, waitSet]
  rfl

/-- A CGRUN whose probe has passed, behind none that issued earlier, accepts its call (R375). -/
theorem cgrunBody_accepts {op : Nat} {pr : Probe} {c : Call} {waits : Tbl Nat} (waiting : e.p.wait = some (.op op))
    (probe : s.probes.get op = some pr) (passed : pr.ph = .passed) (what : pr.what = .call c) (turn : s.callEarlier op = false)
    (sampled : State.sample { s with probes := s.probes.del op } c = (u, some (waits, none))) :
    cgrunBody f e s = .done (u.callAccept op c waits none) := by
  simp only [cgrunBody, probeAwait, waiting, probe, passed, what, turn, Bool.false_eq_true, if_false, sampled]

/-- An accepted call is in the engine with its group's trick, which goes up, and starts at every other member (R375, R377). -/
theorem cgrun_accepts {op : Nat} {pr : Probe} {c : Call} {ws : Tbl Nat} {g : GroupSt} (h : Executing (.cgrun f) s e)
    (waiting : e.p.wait = some (.op op)) (probe : s.probes.get op = some pr) (passed : pr.ph = .passed) (what : pr.what = .call c)
    (turn : s.callEarlier op = false) (sampled : State.sample { s with probes := s.probes.del op } c = (u, some (ws, none)))
    (hg : u.groupSt c.slot c.group = some g) (held : u.colHeld = []) (trigs : (u.gslot c.slot c.gslot).trigs = []) :
    ∃ t, exec (.cgrun f) s = .next t ∧ Advances e 12 t ∧ t.calls.get op = some (c.accepted g.trick u.nextOp ws) ∧
      t.groupSt c.slot c.group = some { g with trick := (g.trick + 1) % 2 ^ 32 } ∧
      (c.grp.men = false → StartsSent op (u.startPkt (c.accepted g.trick u.nextOp ws)) (c.grp.others.map c.grp.dev) u t) ∧
      (c.grp.men = true → c.grp.others ≠ [] → ∃ pk n q, t.fabOut = u.fabOut ++ [pk] ∧ pk.dst = u.mgmt.devidx ∧
        pk.body = .mcst { dev := u.mgmt.devidx, up := u.mgmt.devidx, req := n, group := c.grp.mgrp, ctxid := pktCtxid (u.ctx c.slot),
                          load := .start (u.startPkt (c.accepted g.trick u.nextOp ws) n) } ∧
        t.remote.get n = some q ∧ q.use = .col op none) := by
  obtain ⟨hp, run⟩ := exec_cgrun h
  rw [cgrunBody_accepts waiting probe passed what turn sampled, State.callAccept_eq hg held trigs] at run
  obtain ⟨calls, groups⟩ := State.callEntered_tables (op := op) (waits := ws) hg
  obtain ⟨only, starts, multicast⟩ := (u.callEntered op c g.trick ws).colAll_start op (c.accepted g.trick u.nextOp ws)
  have plies : u.plies = s.plies := by
    have kept := State.sample_plies { s with probes := s.probes.del op } c
    rwa [sampled] at kept
  generalize (u.callEntered op c g.trick ws).colAll op (c.accepted g.trick u.nextOp ws) none .start = v at run only starts multicast
  have stays : v.plies = s.plies := (only.keeps State.plies fun _ _ _ _ _ => rfl).trans plies
  have ret := finish_done e (fullSpec s (formCgrun f) (some .net) true f) v
  have fab := eq_of_rest ret.1 State.fabOut fun _ _ _ => rfl
  have remote := eq_of_rest ret.1 State.remote fun _ _ _ => rfl
  refine ⟨_, run, finish_done_advances e _ v fun p hp' => ?_, ?_, ?_, fun men => ?_, fun men others => ?_⟩
  · rw [State.ply?, stays] at hp'
    rw [State.ply?, hp'] at hp
    cases hp
    rfl
  · rw [eq_of_rest ret.1 State.calls fun _ _ _ => rfl, only.keeps State.calls fun _ _ _ _ _ => rfl, calls]
  · rw [eq_of_rest ret.1 (fun x => x.groupSt c.slot c.group) fun _ _ _ => rfl,
      only.keeps (fun x => x.groupSt c.slot c.group) fun _ _ _ _ _ => rfl, groups]
  · obtain ⟨ps, out, dsts, sent⟩ := starts men
    exact ⟨ps, fab.trans out, dsts, fun pk hpk => by rw [remote]; exact sent pk hpk⟩
  · rw [fab, remote]
    exact multicast men others

end

/-! ## CGTRIG (R387) -/

section
variable {f : Full} {s s1 : State} {e : Env}

/-- The trigger that CGTRIG sends (R387). -/
def cgtrigTrig (f : Full) (e : Env) (s : State) : TileTrig :=
  { op := s.nextOp, slot := e.p.ctx, pid := e.pid, uid := e.p.uid, target := (sWords s e.p f.a 1).headD 0, cg := true }

/-- CGTRIG counts its operation and sends its trigger (R387). -/
def State.cgtrigSent (s : State) (f : Full) (e : Env) : State :=
  { { s with nextOp := s.nextOp + 1 }.updPly e.pid (fun p => p.issueOp s.nextOp .st) with trigs := s.trigs ++ [cgtrigTrig f e s] }

theorem cgtrigBody_sends (free : s.acquiring e.p e.pid = false) (released : s.release e.pid .pkg = (s1, true)) :
    cgtrigBody f e s = .done (s1.cgtrigSent f e) := by
  simp only [cgtrigBody, free, Bool.false_eq_true, if_false, releaseThen_done released]
  rfl

/-- CGTRIG sends its trigger, which it counts, and changes no register and no memory (R387). -/
theorem cgtrig_sends (free : s.acquiring e.p e.pid = false) (released : s.release e.pid .pkg = (s1, true)) (h : Executing (.cgtrig f) s e) :
    ∃ t, exec (.cgtrig f) s = .next t ∧ Advances e 12 t ∧ SameMemory s1 t ∧ SameV s1 t ∧ SameS s1 t ∧
      t.trigs = s1.trigs ++ [cgtrigTrig f e s1] ∧
      ∀ p, s1.ply? e.pid = some p → ∃ q, t.ply? e.pid = some q ∧ q.ops = p.ops ++ [{ id := s1.nextOp, cls := .st, done := false }] := by
  have executes : Executes (fullSpec s (formCgtrig f) (some .st) true f) (unitEarly 3) s e := h
  have run : exec (.cgtrig f) s = .next (finish e (fullSpec s (formCgtrig f) (some .st) true f) (.done (s1.cgtrigSent f e))) := by
    rw [← cgtrigBody_sends free released]
    exact issue_whenExec (cgtrigBody f) executes
  obtain ⟨p, hp, -, hh⟩ := ply_of_release released executes.ply
  have counted : (s1.cgtrigSent f e).ply? e.pid = some (p.issueOp s1.nextOp .st) := by
    rw [State.ply?, State.cgtrigSent, State.updPly_plies, Tbl.get_upd, if_pos rfl]
    exact congrArg (Option.map _) hp
  have ret := finish_done e (fullSpec s (formCgtrig f) (some .st) true f) (s1.cgtrigSent f e)
  refine ⟨_, run, finish_done_advances e _ _ fun q hq => ?_, (OnlyPlies.of_eq ret.1).2, ret.vReg,
    fun q n => (ret.sRegOf q n).trans (sRegOf_of_counts (s := s1) (t := s1.cgtrigSent f e) rfl rfl q n),
    eq_of_rest ret.1 State.trigs fun _ _ _ => rfl, fun q hq => ?_⟩
  · rw [counted] at hq
    cases hq
    exact hh
  · rw [hp] at hq
    cases hq
    have ops := ret.plyPart Ply.ops (fun _ => rfl) e.pid
    rw [counted, Option.map_some, Option.map_eq_some_iff] at ops
    exact ops

end

/-! ## Refusals (R61, R101) -/

section
variable {f : Full} {s : State} {e : Env}

theorem cgrunEarly_refuses {graph : Graph} {g : GroupSt}
    (h : (s.gslot e.p.ctx (mX f)).graph = none ∨ s.groupSt e.p.ctx (mY f) = none ∨
      ((s.gslot e.p.ctx (mX f)).graph = some graph ∧ s.groupSt e.p.ctx (mY f) = some g ∧
        (mf f 26 24 + 1 < graph.nbase ∨ ∃ r, graph.absMax = some r ∧ g.grp.size ≤ r)))
    (first : ∀ id, e.p.wait ≠ some (.op id)) :
    preThen (unitEarly 3) (preFirst (cgrunEarly f)) e s = .refuse := by
  refine preThen_refuses first ?_
  rcases h with empty | empty | ⟨slot, group, few | ⟨r, max, few⟩⟩
  · simp [empty]
  · rw [empty]; cases (s.gslot e.p.ctx (mX f)).graph <;> rfl
  · simp [slot, group, few]
  · simp [slot, group, max, few]

/-- A collective instruction that names an empty slot or group, or one whose sizes do not agree, is refused (R61, R375, R386). -/
theorem collective_refused {i : Instr} {sp : Spec} {early : Env → State → Pre} {graph : Graph} {g : GroupSt} (hpipe : pipe s i = some (sp, early))
    (h : Issuing sp.guard s e) (legal : issueCauses sp (s.ctx e.p.ctx) e.pc = []) (first : ∀ id, e.p.wait ≠ some (.op id))
    (bad : (i = .cgabort f ∧ s.groupSt e.p.ctx (mX f) = none) ∨
      (i = .cgrun f ∧ ((s.gslot e.p.ctx (mX f)).graph = none ∨ s.groupSt e.p.ctx (mY f) = none ∨
        ((s.gslot e.p.ctx (mX f)).graph = some graph ∧ s.groupSt e.p.ctx (mY f) = some g ∧
          (mf f 26 24 + 1 < graph.nbase ∨ ∃ r, graph.absMax = some r ∧ g.grp.size ≤ r))))) :
    Traps i e s s (Trap.plain 0x100 0x0A e.act) := by
  rcases bad with ⟨rfl, empty⟩ | ⟨rfl, bad⟩
  · cases hpipe
    exact issue_refused (whenExec (cgabortBody f)) h legal (preThen_refuses first (by simp [empty]))
  · cases hpipe
    exact issue_refused (whenExec (cgrunBody f)) h legal (cgrunEarly_refuses (e := { e with exec := 0 }) bad first)

end

/-- Settles O51: each collective instruction has its effect where its checks pass, and an empty or unfit slot or group refuses it. -/
theorem collectiveInstructions : Obligations.CollectiveInstructions := by
  unfold Obligations.CollectiveInstructions
  rintro f s s1 e i g graph _ rfl
  refine ⟨fun free released executing => ⟨fun k ga hi hga aligned => ?_, ?_, ?_⟩, ?_, ?_, ?_, ?_⟩
  · exact cgload_goesOut hi hga aligned free released executing
  · rintro rfl first slot group aligned room
    rw [Begins, (exec_cgrun executing).2, cgrunBody_probes rfl first slot group aligned room free released]
    rfl
  · rintro rfl
    exact cgtrig_sends free released executing
  · intro op pr u ws c executing waiting probe passed what turn sampled hg held trigs
    obtain ⟨t, run, advances, call, group, starts, multicast⟩ :=
      cgrun_accepts executing waiting probe passed what turn sampled hg held trigs
    refine ⟨t, run, advances, call, group, ?_⟩
    rintro _ rfl
    exact ⟨starts, multicast⟩
  · intro executing free
    have executes : Executes (fullSpec s (formCgstat f) (some .ld) true f) (unitEarly 3) s e := executing
    refine goesOut_of_exec_eq (sp := fullSpec s (formCgstat f) (some .ld) true f) rfl executes.ply rfl rfl
      ((issue_whenExec (cgstatBody f) executes).trans ?_)
    rw [cgstatBody, free]
    rfl
  · intro executing
    exact completes_of_exec_eq (sp := fullSpec s (formCgabort f) none true f) rfl (issue_whenExec (cgabortBody f) executing)
  · intro sp early hpipe issuing legal first bad
    exact collective_refused hpipe issuing legal first bad

end Sys2Proof.Machine
end
